-- ==== Sys2Proof/Word.lean ====
section
/-! DEFINITION. The word types of the Jorquel (R1, R2, R4): bytes, 32-bit instruction words, 64-bit scalar words,
512-bit vector registers and lines, 32,768-bit accumulator tiles. -/

namespace Sys2Proof

/-- A byte of memory. -/
abbrev Byte := BitVec 8
/-- A 32-bit instruction word (R77). -/
abbrev IWord := BitVec 32
/-- A 64-bit scalar word (R26). -/
abbrev Word := BitVec 64
/-- A 512-bit vector register (R33) or a 64-byte line (R130). -/
abbrev Line := BitVec 512
/-- The 1,024 elements of 32 bits of an accumulator tile (R35, R281), element (i, j) at index 32 i + j. -/
abbrev TileBits := BitVec 32768

end Sys2Proof
end

