-- ==== Sys2Proof/Ids.lean ====
section
/-! DEFINITION. Names used by the instructions and by the state: kinds of core, privilege levels, cause names and
codes (R327), decode faults (R93), strand references, copy attributes (R225), packets (R376) and boot inputs. -/

namespace Sys2Proof

/-- The kinds of programmable core (R9), coded as KIND of R23 / HKIND of R157. -/
inductive CoreKind where
  | compute | markhor | hub | duiker
deriving DecidableEq, Repr

/-- A programmable core. `die` and `clus` place a compute core or a Markhor; `num` is the core within the cluster or the
hub control core (R23); unused places are 0, and `clus` is 15 for Eland agents. -/
structure CoreId where
  kind : CoreKind
  die : Nat
  clus : Nat
  num : Nat
deriving DecidableEq, Repr

/-- A strand slot of a core. -/
structure StrandRef where
  core : CoreId
  slot : Nat
deriving DecidableEq, Repr

/-- Privilege levels, U < S < H (R319). -/
inductive Priv where
  | u | s | h
deriving DecidableEq, Repr

/-- Cause names (R327), in the order of their codes, `none` being code 0. -/
inductive Cause where
  | none | illegalMajor | illegalFunction | reservedField | badLength | lineCrossing | notInstructionStart | privileged
  | lookaheadReadPending | lookaheadWritePending | lookaheadMisuse | frameRegister | trapInstruction | breakpoint
  | singleStep | watchpoint | poisonConsumed | pageNotPresent | pageNotLocal | permissionRead | permissionWrite
  | permissionExecute | misaligned | windowCrossing | windowUnmapped | scratchpadBeyondPartition | neighbourUnavailable
  | accessTableDenied | checkValueMismatch | uncorrectableData | atomicNotSupported | atomicScopeInvalid
  | atomicIndeterminate | fetchFault | formatMismatch | formatUnsupported | scaleFormat | blockSize | laneFault
  | tagReserved | operandRange | tileShape | tileOperandRange | accumulatorFormat | accumulatorFrame
  | engineOperandFault | tileKindUnsupported | tableIndexRange | tableStaleWritten | tableStaleRestored
  | tableSourceNotLocal | tableModeMismatch | tableNotBuilt | tableFrame | channelHandleStale | channelDestroyed
  | channelOverflow | patternHomeMismatch | patternTableFull | channelQuota | crossTenantFiltered | payloadRange
  | frameUnadmittable | regionBindConflict | channelMoved | patternInvalid | copySourceFault | copyDestFault
  | multicastPartial | linkDead | remoteTimeout | reductionSlotUnavailable | reductionTimeout | tagInUse
  | timelineInvalid | copyCommandInvalid | launchCountRange | launchCardInvalid | gangLate | gangMemberUnreachable
  | jobCancelled | partitionChanged | preEmption | stubTableFull | migrationChain | ownerLookupFailed
  | frozenPageTimeout | tlbEntryInvalid | debugHalt | timer | managementRequest | thermalLimit | machineCheck
  | hostSignal | eretInvalid | contextImageInvalid | timeSyncLost
deriving DecidableEq, Repr

/-- Reasons for which the decoder refuses a word (items 4 to 7 and 9 of R93). `lookaheadMisuse` carries the level the
form requires, because `privileged` (item 8) comes before it. -/
inductive DecodeFault where
  | illegalMajor | badLength | illegalFunction | reservedField
  | lookaheadMisuse (need : Priv)
  /-- `reserved-field` of a VMEM form whose Z, TAG or SCL field must be zero, raised after the checks of R267 items 1 and 2; it
  carries words 1 and 2. -/
  | reservedLate (w1 w2 : BitVec 32)
deriving DecidableEq, Repr

/-- The fields of word 1 common to the COPY family (R225). -/
structure CopyAttr where
  strm : BitVec 2
  tge : BitVec 1
  tag : BitVec 6
  e : BitVec 5
  fence : BitVec 1
deriving DecidableEq, Repr

/-- A Turbery packet as the gateway sees it (R376): header fields, payload, whether a reserved bit is set, and the
payload lines whose CRC-32C trailer does not match (R381). -/
structure Packet where
  dst : BitVec 12
  src : BitVec 12
  vc : BitVec 3
  type : BitVec 5
  len : BitVec 8
  rid : BitVec 16
  rt : BitVec 1
  hops : BitVec 2
  rdr : BitVec 1
  srcid : BitVec 28
  born : BitVec 12
  cause : BitVec 7
  resv : Bool
  payload : List Byte
  badLines : List Nat
  /-- The Turbery port at which it arrives, 0 to 17 (R388). -/
  port : Nat := 0
deriving DecidableEq, Repr

/-- What the boot network gives Duiker in stages 1 and 2 (R393): a URL in the lease or none, and the bytes received. -/
structure BootInput where
  lease : Bool
  url : Bool
  image : Option (List Byte)
deriving DecidableEq, Repr

end Sys2Proof
end

