-- ==== Sys2Proof/Syntax.lean ====
section
/-! DEFINITION. The instructions and events of spec/opcode_table.json, one constructor per row (the events that only
come from outside stand last). Operand fields are the bit fields of the encoding (R84–R92 and each family's words 1 and 2). Rows 195 to 288 are events of
the part (95_what_each_step_holds.md); their arguments say where the event happens and what it brings in. -/

namespace Sys2Proof

/-- One row of the opcode table. -/
inductive Instr where
  /-- `nop` (R115) -/
  | nop
  /-- `done` (R117) -/
  | done
  /-- `pause` (R116) -/
  | pause
  /-- `trap code` (R118) -/
  | trap (code : BitVec 10)
  /-- `brk code` (R328) -/
  | brk (code : BitVec 10)
  /-- `eret sA` (R331) -/
  | eret (a : BitVec 5)
  /-- `csrr sD, csr` (R329) -/
  | csrr (r : BitVec 5) (csr : BitVec 12)
  /-- `csrw csr, sA` (R329) -/
  | csrw (r : BitVec 5) (csr : BitVec 12)
  /-- `csrs csr, sA` (R329) -/
  | csrs (r : BitVec 5) (csr : BitVec 12)
  /-- `csrc csr, sA` (R329) -/
  | csrc (r : BitVec 5) (csr : BitVec 12)
  /-- `idle` (R330) -/
  | idle
  /-- `ftrim v, a, t` (R119) -/
  | ftrim (v : BitVec 6) (a t : BitVec 4)
  /-- `br target` (R112) -/
  | br (off : BitVec 24)
  /-- `call target` (R112) -/
  | call (off : BitVec 24)
  /-- `bc.cond sA, target` (R113) -/
  | bc (a : BitVec 5) (cc : BitVec 4) (off : BitVec 15)
  /-- `jr sA` (R114) -/
  | jr (a : BitVec 5)
  /-- `jal sD, sA` (R114) -/
  | jal (d a : BitVec 5)
  /-- `safept` with its live masks (R120) -/
  | safept (tmask lmask : BitVec 8) (smask vmask : BitVec 32)
  /-- `add sD, sA, sB` (R106) -/
  | add (d a b : BitVec 5)
  /-- `sub sD, sA, sB` (R106) -/
  | sub (d a b : BitVec 5)
  /-- `and sD, sA, sB` (R106) -/
  | and (d a b : BitVec 5)
  /-- `or sD, sA, sB` (R106) -/
  | or (d a b : BitVec 5)
  /-- `xor sD, sA, sB` (R106) -/
  | xor (d a b : BitVec 5)
  /-- `andn sD, sA, sB` (R106) -/
  | andn (d a b : BitVec 5)
  /-- `shl sD, sA, sB` (R106) -/
  | shl (d a b : BitVec 5)
  /-- `shr sD, sA, sB` (R106) -/
  | shr (d a b : BitVec 5)
  /-- `sar sD, sA, sB` (R106) -/
  | sar (d a b : BitVec 5)
  /-- `ror sD, sA, sB` (R106) -/
  | ror (d a b : BitVec 5)
  /-- `mul sD, sA, sB` (R106) -/
  | mul (d a b : BitVec 5)
  /-- `mulh sD, sA, sB` (R106) -/
  | mulh (d a b : BitVec 5)
  /-- `mulhn sD, sA, sB` (R106) -/
  | mulhn (d a b : BitVec 5)
  /-- `min sD, sA, sB` (R106) -/
  | min (d a b : BitVec 5)
  /-- `max sD, sA, sB` (R106) -/
  | max (d a b : BitVec 5)
  /-- `minn sD, sA, sB` (R106) -/
  | minn (d a b : BitVec 5)
  /-- `maxn sD, sA, sB` (R106) -/
  | maxn (d a b : BitVec 5)
  /-- `slt sD, sA, sB` (R106) -/
  | slt (d a b : BitVec 5)
  /-- `sltn sD, sA, sB` (R106) -/
  | sltn (d a b : BitVec 5)
  /-- `seq sD, sA, sB` (R106) -/
  | seq (d a b : BitVec 5)
  /-- `clz sD, sA` (R106) -/
  | clz (d a : BitVec 5)
  /-- `ctz sD, sA` (R106) -/
  | ctz (d a : BitVec 5)
  /-- `popc sD, sA` (R106) -/
  | popc (d a : BitVec 5)
  /-- `bfx sD, sA, sB` (R106) -/
  | bfx (d a b : BitVec 5)
  /-- `bfi sD, sA, sB` (R106) -/
  | bfi (d a b : BitVec 5)
  /-- `div sD, sA, sB ~la` (R107) -/
  | div (d a b : BitVec 5) (la : BitVec 4)
  /-- `divn sD, sA, sB ~la` (R107) -/
  | divn (d a b : BitVec 5) (la : BitVec 4)
  /-- `rem sD, sA, sB ~la` (R107) -/
  | rem (d a b : BitVec 5) (la : BitVec 4)
  /-- `remn sD, sA, sB ~la` (R107) -/
  | remn (d a b : BitVec 5) (la : BitVec 4)
  /-- `addi sD, sA, imm`, one word (R108) -/
  | addi (d a : BitVec 5) (imm : BitVec 10)
  /-- `addi sD, sA, =lit`, word and literal (R108) -/
  | addiLiteral (d a : BitVec 5) (lit : BitVec 64)
  /-- `andi sD, sA, imm`, one word (R108) -/
  | andi (d a : BitVec 5) (imm : BitVec 10)
  /-- `andi sD, sA, =lit`, word and literal (R108) -/
  | andiLiteral (d a : BitVec 5) (lit : BitVec 64)
  /-- `ori sD, sA, imm`, one word (R108) -/
  | ori (d a : BitVec 5) (imm : BitVec 10)
  /-- `ori sD, sA, =lit`, word and literal (R108) -/
  | oriLiteral (d a : BitVec 5) (lit : BitVec 64)
  /-- `xori sD, sA, imm`, one word (R108) -/
  | xori (d a : BitVec 5) (imm : BitVec 10)
  /-- `xori sD, sA, =lit`, word and literal (R108) -/
  | xoriLiteral (d a : BitVec 5) (lit : BitVec 64)
  /-- `shli sD, sA, amt` (R109) -/
  | shli (d a : BitVec 5) (amt : BitVec 6)
  /-- `shri sD, sA, amt` (R109) -/
  | shri (d a : BitVec 5) (amt : BitVec 6)
  /-- `sari sD, sA, amt` (R109) -/
  | sari (d a : BitVec 5) (amt : BitVec 6)
  /-- `li sD, imm`, one word (R110) -/
  | li (d : BitVec 5) (imm : BitVec 10)
  /-- `li sD, =lit` (R110) -/
  | liLiteral (d : BitVec 5) (lit : BitVec 64)
  /-- `addpc sD, target`, one word (R111) -/
  | addpc (d : BitVec 5) (imm : BitVec 10)
  /-- `addpc sD, =target` (R111) -/
  | addpcLiteral (d : BitVec 5) (lit : BitVec 64)
  /-- `ld.ty sD, [sA+off] ~la` (R136) -/
  | ld (d a : BitVec 5) (ty : BitVec 3) (off : BitVec 7) (la : BitVec 4)
  /-- `st.ty sD, [sA+off]` (R137) -/
  | st (d a : BitVec 5) (ty : BitVec 3) (off : BitVec 7)
  /-- `pref.lvl [sA+off]` (R138) -/
  | pref (a : BitVec 5) (ty : BitVec 3) (off : BitVec 7)
  /-- `ldacq.size.scope sD, [sA+off]` (R247) -/
  | ldacq (d a : BitVec 5) (size scope : BitVec 2) (off : BitVec 6)
  /-- `strel.size.scope sD, [sA+off]` (R248) -/
  | strel (d a : BitVec 5) (size scope : BitVec 2) (off : BitVec 6)
  /-- `fence.kind.scope` (R245) -/
  | fence (kind scope : BitVec 2)
  /-- `amo.add` (R147) -/
  | amoAdd (d a b c : BitVec 5) (scope : BitVec 2) (size nr : BitVec 1) (la : BitVec 4)
  /-- `amo.min` (R147) -/
  | amoMin (d a b c : BitVec 5) (scope : BitVec 2) (size nr : BitVec 1) (la : BitVec 4)
  /-- `amo.minn` (R147) -/
  | amoMinn (d a b c : BitVec 5) (scope : BitVec 2) (size nr : BitVec 1) (la : BitVec 4)
  /-- `amo.max` (R147) -/
  | amoMax (d a b c : BitVec 5) (scope : BitVec 2) (size nr : BitVec 1) (la : BitVec 4)
  /-- `amo.maxn` (R147) -/
  | amoMaxn (d a b c : BitVec 5) (scope : BitVec 2) (size nr : BitVec 1) (la : BitVec 4)
  /-- `amo.and` (R147) -/
  | amoAnd (d a b c : BitVec 5) (scope : BitVec 2) (size nr : BitVec 1) (la : BitVec 4)
  /-- `amo.or` (R147) -/
  | amoOr (d a b c : BitVec 5) (scope : BitVec 2) (size nr : BitVec 1) (la : BitVec 4)
  /-- `amo.xor` (R147) -/
  | amoXor (d a b c : BitVec 5) (scope : BitVec 2) (size nr : BitVec 1) (la : BitVec 4)
  /-- `amo.exch` (R147) -/
  | amoExch (d a b c : BitVec 5) (scope : BitVec 2) (size nr : BitVec 1) (la : BitVec 4)
  /-- `amo.cas` (R147) -/
  | amoCas (d a b c : BitVec 5) (scope : BitVec 2) (size nr : BitVec 1) (la : BitVec 4)
  /-- `amo.fadd` (R147) -/
  | amoFadd (d a b c : BitVec 5) (scope : BitVec 2) (size nr : BitVec 1) (la : BitVec 4)
  /-- `amo.fmin` (R147) -/
  | amoFmin (d a b c : BitVec 5) (scope : BitVec 2) (size nr : BitVec 1) (la : BitVec 4)
  /-- `amo.fmax` (R147) -/
  | amoFmax (d a b c : BitVec 5) (scope : BitVec 2) (size nr : BitVec 1) (la : BitVec 4)
  /-- `amo.ins` (R147) -/
  | amoIns (d a b c : BitVec 5) (scope : BitVec 2) (size nr : BitVec 1) (la : BitVec 4)
  /-- `amo.ffcs` (R147) -/
  | amoFfcs (d a b c : BitVec 5) (scope : BitVec 2) (size nr : BitVec 1) (la : BitVec 4)
  /-- `amo.pset` (R147) -/
  | amoPset (d a b c : BitVec 5) (scope : BitVec 2) (size nr : BitVec 1) (la : BitVec 4)
  /-- `send sA, sB` (R181) -/
  | send (a b : BitVec 5)
  /-- `sendc sA, sB` (R181) -/
  | sendc (a b : BitVec 5)
  /-- `chnew sD, sA` (R182) -/
  | chnew (d a : BitVec 5)
  /-- `chfree sA` (R183) -/
  | chfree (a : BitVec 5)
  /-- `chbind sA, sB` (R184) -/
  | chbind (a b : BitVec 5)
  /-- `patadd sD, sA` (R185) -/
  | patadd (d a : BitVec 5)
  /-- `patdel sA, sB` (R186) -/
  | patdel (a b : BitVec 5)
  /-- `chstat sD, sA` (R187) -/
  | chstat (d a : BitVec 5)
  /-- `chmove sD, sA, sB` (R188) -/
  | chmove (d a b : BitVec 5)
  /-- `spawn sD, sA` (R205) -/
  | spawn (d a : BitVec 5)
  /-- `gang sD, sA` (R205) -/
  | gang (d a : BitVec 5)
  /-- `jstat sD, sA` (R206) -/
  | jstat (d a : BitVec 5)
  /-- `jcancel sD, sA` (R207) -/
  | jcancel (d a : BitVec 5)
  /-- `tnow sD` (R208) -/
  | tnow (d : BitVec 5)
  /-- `tlwait tlK, sB` (R236) -/
  | tlwait (k b : BitVec 5)
  /-- `tlread sD, tlK, sel` (R236) -/
  | tlread (d k sel : BitVec 5)
  /-- `waitany sD, sA` (R237) -/
  | waitany (d a : BitVec 5)
  /-- `waitall sA` (R237) -/
  | waitall (a : BitVec 5)
  /-- `tagfirst sD, sA` (R237) -/
  | tagfirst (d a : BitVec 5)
  /-- `tagclr sA` (R237) -/
  | tagclr (a : BitVec 5)
  /-- `tagrd sD, sel` (R237) -/
  | tagrd (d sel : BitVec 5)
  /-- `vadd` (R258) -/
  | vadd (d a b : BitVec 5) (p : BitVec 3) (z : BitVec 1)
  /-- `vsub` (R258) -/
  | vsub (d a b : BitVec 5) (p : BitVec 3) (z : BitVec 1)
  /-- `vmul` (R258) -/
  | vmul (d a b : BitVec 5) (p : BitVec 3) (z : BitVec 1)
  /-- `vfma` (R258) -/
  | vfma (d a b : BitVec 5) (p : BitVec 3) (z : BitVec 1)
  /-- `vmin` (R258) -/
  | vmin (d a b : BitVec 5) (p : BitVec 3) (z : BitVec 1)
  /-- `vmax` (R258) -/
  | vmax (d a b : BitVec 5) (p : BitVec 3) (z : BitVec 1)
  /-- `vabs` (R258) -/
  | vabs (d a : BitVec 5) (p : BitVec 3) (z : BitVec 1)
  /-- `vneg` (R258) -/
  | vneg (d a : BitVec 5) (p : BitVec 3) (z : BitVec 1)
  /-- `vand` (R258) -/
  | vand (d a b : BitVec 5) (p : BitVec 3) (z : BitVec 1)
  /-- `vor` (R258) -/
  | vor (d a b : BitVec 5) (p : BitVec 3) (z : BitVec 1)
  /-- `vxor` (R258) -/
  | vxor (d a b : BitVec 5) (p : BitVec 3) (z : BitVec 1)
  /-- `vshl` (R258) -/
  | vshl (d a b : BitVec 5) (p : BitVec 3) (z : BitVec 1)
  /-- `vshr` (R258) -/
  | vshr (d a b : BitVec 5) (p : BitVec 3) (z : BitVec 1)
  /-- `vceq pD, vA, vB` (R259) -/
  | vceq (d a b : BitVec 5) (p : BitVec 3) (z : BitVec 1)
  /-- `vclt pD, vA, vB` (R259) -/
  | vclt (d a b : BitVec 5) (p : BitVec 3) (z : BitVec 1)
  /-- `vcle pD, vA, vB` (R259) -/
  | vcle (d a b : BitVec 5) (p : BitVec 3) (z : BitVec 1)
  /-- `vsel` (R260) -/
  | vsel (d a b : BitVec 5) (p : BitVec 3)
  /-- `vdiv` (R258) -/
  | vdiv (d a b : BitVec 5) (p : BitVec 3) (z : BitVec 1)
  /-- `vrcp` (R258) -/
  | vrcp (d a : BitVec 5) (p : BitVec 3) (z : BitVec 1)
  /-- `vrsq` (R258) -/
  | vrsq (d a : BitVec 5) (p : BitVec 3) (z : BitVec 1)
  /-- `vexp2` (R258) -/
  | vexp2 (d a : BitVec 5) (p : BitVec 3) (z : BitVec 1)
  /-- `vdot` (R52, R258) -/
  | vdot (d a b : BitVec 5) (p : BitVec 3) (z : BitVec 1)
  /-- `vperm` (R261) -/
  | vperm (d a b : BitVec 5) (p : BitVec 3) (z : BitVec 1)
  /-- `vbcast vD, sA, code` (R262) -/
  | vbcast (d a code : BitVec 5) (p : BitVec 3) (z : BitVec 1)
  /-- `vredadd` (R263) -/
  | vredadd (d a : BitVec 5) (p : BitVec 3)
  /-- `vredmax` (R263) -/
  | vredmax (d a : BitVec 5) (p : BitVec 3)
  /-- `vredmin` (R263) -/
  | vredmin (d a : BitVec 5) (p : BitVec 3)
  /-- `vins vD, sA, sB` (R264) -/
  | vins (d a b : BitVec 5)
  /-- `vext sD, vA, sB` (R264) -/
  | vext (d a b : BitVec 5)
  /-- `vcvt` (R274) -/
  | vcvt (d a : BitVec 5) (p : BitVec 3) (z : BitVec 1) (tag : BitVec 5) (rm : BitVec 2) (sl : BitVec 5) (sat : BitVec 1)
  /-- `vtag` (R277) -/
  | vtag (d a tag : BitVec 5)
  /-- `vwid` (R278) -/
  | vwid (d a b : BitVec 5) (p : BitVec 3) (z : BitVec 1) (sl : BitVec 5) (bs : BitVec 2)
  /-- `vnar` (R280) -/
  | vnar (d a b : BitVec 5) (p : BitVec 3) (z : BitVec 1) (tag sl : BitVec 5) (bs : BitVec 2)
  /-- `vscl` (R279) -/
  | vscl (d a : BitVec 5) (p : BitVec 3) (tag sl : BitVec 5) (bs : BitVec 2) (ef : BitVec 5)
  /-- `vld` (R265) -/
  | vld (d a : BitVec 5) (p : BitVec 3) (z : BitVec 1) (tag : BitVec 5) (off : BitVec 32) (la : BitVec 4)
  /-- `vst` (R265) -/
  | vst (d a : BitVec 5) (p : BitVec 3) (off : BitVec 32)
  /-- `vgath` (R266) -/
  | vgath (d a b : BitVec 5) (p : BitVec 3) (z : BitVec 1) (tag : BitVec 5) (scl : BitVec 2) (off : BitVec 32) (la : BitVec 4)
  /-- `vscat` (R266) -/
  | vscat (d a b : BitVec 5) (p : BitVec 3) (scl : BitVec 2) (off : BitVec 32)
  /-- `pand` (R268) -/
  | pand (d a b : BitVec 5)
  /-- `por` (R268) -/
  | por (d a b : BitVec 5)
  /-- `pnot` (R268) -/
  | pnot (d a : BitVec 5)
  /-- `pcnt` (R268) -/
  | pcnt (d a : BitVec 5)
  /-- `pfirst` (R268) -/
  | pfirst (d a : BitVec 5)
  /-- `pset` (R268) -/
  | pset (d a : BitVec 5)
  /-- `tmma` (R289) -/
  | tmma (d a b c e fa fb : BitVec 5) (sc : BitVec 1) (q : BitVec 5)
  /-- `tzero` (R292) -/
  | tzero (d fa q : BitVec 5)
  /-- `tst` (R294) -/
  | tst (d a c fa : BitVec 5) (sat : BitVec 1) (q : BitVec 5)
  /-- `tscl` (R293) -/
  | tscl (d a : BitVec 5) (col : BitVec 1) (q : BitVec 5)
  /-- `tget` (R295) -/
  | tget (d a b : BitVec 5)
  /-- `tset` (R295) -/
  | tset (d a b : BitVec 5) (bc : BitVec 1)
  /-- `lbld` (R310) -/
  | lbld (d a b fmt : BitVec 5) (mode pol : BitVec 1) (q : BitVec 5)
  /-- `lmm` (R312) -/
  | lmm (d a b c fmt : BitVec 5) (nt : BitVec 3) (q : BitVec 5)
  /-- `linv` (R314) -/
  | linv (d q : BitVec 5)
  /-- `lstat` (R315) -/
  | lstat (d b : BitVec 5) (sel : BitVec 1)
  /-- `lrbld` (R314) -/
  | lrbld (d q : BitVec 5)
  /-- `cp` (R228) -/
  | cp (d a b c : BitVec 5) (x : CopyAttr)
  /-- `cp2d` (R228) -/
  | cp2d (d a b c : BitVec 5) (x : CopyAttr)
  /-- `cp3d` (R228) -/
  | cp3d (d a b c : BitVec 5) (x : CopyAttr)
  /-- `cpm` (R229) -/
  | cpm (d a b c : BitVec 5) (x : CopyAttr) (nm : BitVec 4)
  /-- `cpred.k0` (R230) -/
  | cpredK0 (d a b c : BitVec 5) (x : CopyAttr) (op : BitVec 4) (size : BitVec 1)
  /-- `cpred.k1` (R230) -/
  | cpredK1 (d a : BitVec 5) (x : CopyAttr) (op : BitVec 4) (size : BitVec 1)
  /-- `cpred.k2` (R230) -/
  | cpredK2 (d a b c : BitVec 5) (x : CopyAttr) (op : BitVec 4) (size : BitVec 1)
  /-- `cpred.k3` (R230) -/
  | cpredK3 (d b : BitVec 5) (x : CopyAttr) (op : BitVec 4) (size : BitVec 1)
  /-- `cpfill` (R228) -/
  | cpfill (d a b c : BitVec 5) (x : CopyAttr)
  /-- `cpsig.irq` (R232) -/
  | cpsigIrq (d a : BitVec 5) (x : CopyAttr)
  /-- `cpsig.msg` (R232) -/
  | cpsigMsg (d a b : BitVec 5) (x : CopyAttr)
  /-- `cpcan` (R233) -/
  | cpcan (d a : BitVec 5) (strm : BitVec 2)
  /-- `cpq` (R234) -/
  | cpq (d : BitVec 5) (strm : BitVec 2)
  /-- `cpat` (R231) -/
  | cpat (d a b c : BitVec 5) (x : CopyAttr) (afn : BitVec 4) (size : BitVec 1)
  /-- `tlbw`, the row for a descriptor with OP 0 (R367) -/
  | tlbwInstall (d a b : BitVec 5)
  /-- `tlbw`, the row for a descriptor with OP 1 (R367); same word -/
  | tlbwSetMissChannel (d a b : BitVec 5)
  /-- `tlbinv` (R368) -/
  | tlbinv (a b : BitVec 5)
  /-- `tlbinva` (R368) -/
  | tlbinva (a : BitVec 5)
  /-- `pgmig` (R369) -/
  | pgmig (d a b : BitVec 5)
  /-- `ownq` (R370) -/
  | ownq (d a : BitVec 5)
  /-- `stubq` (R371) -/
  | stubq (d a : BitVec 5)
  /-- `rfc` (R372) -/
  | rfc (d a b : BitVec 5)
  /-- `fresume` (R373) -/
  | fresume (d a : BitVec 5)
  /-- `actw` (R342) -/
  | actw (d a b : BitVec 5)
  /-- `partw` OP 0 (R343) -/
  | partwAssign (d a b : BitVec 5)
  /-- `partw` OP 1 (R343); same word -/
  | partwWithdraw (d a b : BitVec 5)
  /-- `partw` OP 2 (R343); same word -/
  | partwSetWord (d a b : BitVec 5)
  /-- `filtw` (R344) -/
  | filtw (d a b : BitVec 5)
  /-- `ctxsave` (R345) -/
  | ctxsave (d a b : BitVec 5)
  /-- `ctxload` (R346) -/
  | ctxload (d a b : BitVec 5)
  /-- `preempt` (R347) -/
  | preempt (d a : BitVec 5)
  /-- `preempt` with HALT (R347); same word -/
  | preemptHalt (d a : BitVec 5)
  /-- `tsync` 0 (R348) -/
  | tsyncStatus (d a b : BitVec 5)
  /-- `tsync` 1 (R348); same word -/
  | tsyncSetReference (d a b : BitVec 5)
  /-- `tsync` 2 (R348); same word -/
  | tsyncSetTime (d a b : BitVec 5)
  /-- event (R80) -/
  | icacheLineFill (c : CoreId) (line : Nat)
  /-- event (R99) -/
  | lookaheadOpenerComplete (r : StrandRef) (id : Nat)
  /-- event (R137) -/
  | storeArrival (seq : Nat)
  /-- event (R147) -/
  | atomicExecute (seq : Nat)
  /-- event (R141) -/
  | runAheadEnd (r : StrandRef)
  /-- event (R325) -/
  | trapSlotGrant (r : StrandRef)
  /-- event (R407) -/
  | recordWriteRetry (r : StrandRef)
  /-- event (R160) -/
  | messageArrival (id : Nat)
  /-- event (R170) -/
  | matchDecision (c : CoreId)
  /-- event (R15) -/
  | admission (c : CoreId)
  /-- event (R17) -/
  | strandRelease (r : StrandRef)
  /-- event (R160) -/
  | ringRefill (c : CoreId) (h : BitVec 64)
  /-- event (R162) -/
  | ringReadRetry (c : CoreId) (h : BitVec 64)
  /-- event (R175) -/
  | spilledRecordApply (c : CoreId) (h : BitVec 64)
  /-- event (R192) -/
  | jobStart (j : Nat)
  /-- event (R191) -/
  | chunkDeal (j : Nat) (c : CoreId)
  /-- event (R193) -/
  | launchItemOffer (c : CoreId)
  /-- event (R194) -/
  | itemEnd (uid : Nat)
  /-- event (R197) -/
  | gangMemberUnreachable (j pkg : Nat)
  /-- event (R200) -/
  | partitionWordApply (c : CoreId)
  /-- event (R332) -/
  | preemptForceTimeout (r : StrandRef)
  /-- event (R335) -/
  | strandSave (r : StrandRef)
  /-- event (R22) -/
  | strandRestore (c : CoreId)
  /-- event (R326) -/
  | timerExpiry (dom : Nat)
  /-- event (R330) -/
  | idleTimeout (r : StrandRef)
  /-- event (R116) -/
  | pauseEnd (r : StrandRef)
  /-- event (R216) -/
  | tagWaitGrant (c : CoreId)
  /-- event (R241) -/
  | fenceTicketGrant (r : StrandRef)
  /-- event (R241) -/
  | fenceTicketTimeout (r : StrandRef)
  /-- event (R218) -/
  | copyBlock (c : CoreId) (strm num member block : Nat)
  /-- event (R214) -/
  | copyComplete (c : CoreId) (strm num : Nat)
  /-- event (R220) -/
  | copyFaultTimeout (c : CoreId) (strm num : Nat)
  /-- event (R232) -/
  | cpsigSignal (c : CoreId) (strm num : Nat)
  /-- event (R218) -/
  | remoteTimeout (c : CoreId) (strm num : Nat)
  /-- event (R282) -/
  | dteStep (c : CoreId)
  /-- event (R283) -/
  | dteComplete (c : CoreId)
  /-- event (R312) -/
  | kuduStep (c : CoreId)
  /-- event (R306) -/
  | kuduComplete (c : CoreId)
  /-- event (R354) -/
  | tlbMissTimeout (die clus : Nat) (token : BitVec 32)
  /-- event (R362) -/
  | frozenPageTimeout (gpn : BitVec 48)
  /-- event (R360) -/
  | ownerLookupTimeout (gpn : BitVec 48)
  /-- event (R364) -/
  | stubHeldTimeout (gpn : BitVec 48)
  /-- event (R364) -/
  | stubQuietExpiry (gpn : BitVec 48)
  /-- event (R380) -/
  | messageRetransmit (pkg : BitVec 12)
  /-- event (R380) -/
  | messageGiveUp (pkg : BitVec 12)
  /-- event (R151) -/
  | remoteAtomicRetransmit (pkg : BitVec 12) (rid : BitVec 16)
  /-- event (R384) -/
  | reductionTimeout (slot : Nat)
  /-- event (R94) -/
  | illegalMajor (w0 : BitVec 32) (why : DecodeFault)
  /-- event (R82) -/
  | fetchFault (why : Cause) (addr : BitVec 64)
  /-- event (R178) -/
  | hostChannelSend (off size : Nat) (data : BitVec 512)
  /-- event (R390) -/
  | hostBar4Read (off size : Nat)
  /-- event (R390) -/
  | hostBar4Write (off : Nat) (data : List Byte)
  /-- event (R398) -/
  | doorbell (dom : Nat) (v : BitVec 64)
  /-- event (R399) -/
  | mailboxRestart (req : BitVec 512)
  /-- event (R399) -/
  | mailboxManagementRequest (req : BitVec 512)
  /-- event (R399) -/
  | mailboxDebugHalt (req : BitVec 512)
  /-- event (R399) -/
  | mailboxDeclareDead (req : BitVec 512)
  /-- event (R399) -/
  | mailboxReadSensor (req : BitVec 512)
  /-- event (R10) -/
  | unitWithdrawal (c : CoreId)
  /-- event (R340) -/
  | debugHalt (r : StrandRef)
  /-- event (R374) -/
  | linkDead (pkg : BitVec 12)
  /-- event (R378) -/
  | pktRead (p : Packet)
  /-- event (R378) -/
  | pktWrite (p : Packet)
  /-- event (R152) -/
  | pktAtomic (p : Packet)
  /-- event (R360) -/
  | pktDirq (p : Packet)
  /-- event (R362) -/
  | pktMigrq (p : Packet)
  /-- event (R364) -/
  | pktInval (p : Packet)
  /-- event (R378) -/
  | pktData (p : Packet)
  /-- event (R378) -/
  | pktDone (p : Packet)
  /-- event (R363) -/
  | pktBounce (p : Packet)
  /-- event (R360) -/
  | pktDirans (p : Packet)
  /-- event (R364) -/
  | pktAck (p : Packet)
  /-- event (R380) -/
  | pktMack (p : Packet)
  /-- event (R380) -/
  | pktMsg (p : Packet)
  /-- event (R197) -/
  | pktGang (p : Packet)
  /-- event (R197) -/
  | pktGack (p : Packet)
  /-- event (R380) -/
  | pktMsync (p : Packet)
  /-- event (R382) -/
  | pktResv (p : Packet)
  /-- event (R383) -/
  | pktContrib (p : Packet)
  /-- event (R385) -/
  | pktRrel (p : Packet)
  /-- event (R378) -/
  | pktRans (p : Packet)
  /-- event (R386) -/
  | pktTime (p : Packet)
  /-- event (R378) -/
  | pktMgmt (p : Packet)
  /-- event (R386) -/
  | timeExchange (parent : BitVec 12)
  /-- event (R387) -/
  | timeSyncLost
  /-- event (R402) -/
  | sensorSample (readings : List (BitVec 32))
  /-- event (R403) -/
  | bubbleRatioUpdate (c : CoreId) (hot : Bool)
  /-- event (R326) -/
  | machineCheck (unit : BitVec 64)
  /-- event (R392) -/
  | cxlReadTimeout (line : Nat)
  /-- event (R393) -/
  | powerOn (net : BootInput)
  /-- event (R393) -/
  | bootRetry (net : BootInput)
  /-- event (R10) -/
  | powerRemoval
  /-- event (R399) -/
  | mailboxRequestRefused (req : BitVec 512)
  /-- event (R175) -/
  | forwardingEntryExpiry (c : CoreId) (h : BitVec 64)
deriving DecidableEq, Repr

end Sys2Proof
end

