-- ==== Sys2Proof/WellFormed.lean ====
section
/-! DEFINITION. Well-formed instructions: the operand values an encoding admits (R3, R90 and the family rules that name
`reserved-field`), and the LA values it admits (R96). The decoder refuses every other value by name. -/

namespace Sys2Proof

/-- The CSR numbers of the CSR map (R320); every other number raises `reserved-field` (R322). -/
def csrListed (n : BitVec 12) : Bool :=
  let k := n.toNat
  (1 ≤ k && k ≤ 5) || (0x100 ≤ k && k ≤ 0x10A) || (0x120 ≤ k && k ≤ 0x123) || (0x128 ≤ k && k ≤ 0x129) ||
    (0x180 ≤ k && k ≤ 0x1BF)

/-- No operand field holds a value for which the spec names `reserved-field`. Events have no encoding. -/
def Instr.reservedOk : Instr → Bool
  | .nop => true
  | .done => true
  | .pause => true
  | .trap _ => true
  | .brk _ => true
  | .eret _ => true
  | .csrr _ csr => csrListed csr
  | .csrw _ csr => csrListed csr
  | .csrs _ csr => csrListed csr
  | .csrc _ csr => csrListed csr
  | .idle => true
  | .ftrim v a t => v.toNat ≤ 32 && a.toNat ≤ 8 && t.toNat ≤ 8
  | .br _ => true
  | .call _ => true
  | .bc _ cc _ => cc.toNat < 8
  | .jr _ => true
  | .jal _ _ => true
  | .safept _ _ smask _ => smask.getLsbD 0 == false
  | .add _ _ _ => true
  | .sub _ _ _ => true
  | .and _ _ _ => true
  | .or _ _ _ => true
  | .xor _ _ _ => true
  | .andn _ _ _ => true
  | .shl _ _ _ => true
  | .shr _ _ _ => true
  | .sar _ _ _ => true
  | .ror _ _ _ => true
  | .mul _ _ _ => true
  | .mulh _ _ _ => true
  | .mulhn _ _ _ => true
  | .min _ _ _ => true
  | .max _ _ _ => true
  | .minn _ _ _ => true
  | .maxn _ _ _ => true
  | .slt _ _ _ => true
  | .sltn _ _ _ => true
  | .seq _ _ _ => true
  | .clz _ _ => true
  | .ctz _ _ => true
  | .popc _ _ => true
  | .bfx _ _ _ => true
  | .bfi _ _ _ => true
  | .div _ _ _ _ => true
  | .divn _ _ _ _ => true
  | .rem _ _ _ _ => true
  | .remn _ _ _ _ => true
  | .addi _ _ _ => true
  | .addiLiteral _ _ _ => true
  | .andi _ _ _ => true
  | .andiLiteral _ _ _ => true
  | .ori _ _ _ => true
  | .oriLiteral _ _ _ => true
  | .xori _ _ _ => true
  | .xoriLiteral _ _ _ => true
  | .shli _ _ _ => true
  | .shri _ _ _ => true
  | .sari _ _ _ => true
  | .li _ _ => true
  | .liLiteral _ _ => true
  | .addpc _ _ => true
  | .addpcLiteral _ _ => true
  | .ld _ _ ty _ _ => ty != 7#3
  | .st _ _ ty _ => ty.toNat < 4
  | .pref _ ty _ => ty.toNat < 3
  | .ldacq _ _ _ _ _ => true
  | .strel _ _ _ _ _ => true
  | .fence _ _ => true
  | .amoAdd d _ _ c _ _ nr _ => (nr == 0#1 || d == 0#5) && c == 0#5
  | .amoMin d _ _ c _ _ nr _ => (nr == 0#1 || d == 0#5) && c == 0#5
  | .amoMinn d _ _ c _ _ nr _ => (nr == 0#1 || d == 0#5) && c == 0#5
  | .amoMax d _ _ c _ _ nr _ => (nr == 0#1 || d == 0#5) && c == 0#5
  | .amoMaxn d _ _ c _ _ nr _ => (nr == 0#1 || d == 0#5) && c == 0#5
  | .amoAnd d _ _ c _ _ nr _ => (nr == 0#1 || d == 0#5) && c == 0#5
  | .amoOr d _ _ c _ _ nr _ => (nr == 0#1 || d == 0#5) && c == 0#5
  | .amoXor d _ _ c _ _ nr _ => (nr == 0#1 || d == 0#5) && c == 0#5
  | .amoExch d _ _ c _ _ nr _ => (nr == 0#1 || d == 0#5) && c == 0#5
  | .amoCas d _ _ _ _ _ nr _ => (nr == 0#1 || d == 0#5)
  | .amoFadd d _ _ c _ _ nr _ => (nr == 0#1 || d == 0#5) && c == 0#5
  | .amoFmin d _ _ c _ _ nr _ => (nr == 0#1 || d == 0#5) && c == 0#5
  | .amoFmax d _ _ c _ _ nr _ => (nr == 0#1 || d == 0#5) && c == 0#5
  | .amoIns d _ _ _ _ _ nr _ => (nr == 0#1 || d == 0#5)
  | .amoFfcs d _ _ c _ _ nr _ => (nr == 0#1 || d == 0#5) && c == 0#5
  | .amoPset d _ _ _ _ _ nr _ => (nr == 0#1 || d == 0#5)
  | .send _ b => b.toNat < 29
  | .sendc _ _ => true
  | .chnew _ _ => true
  | .chfree _ => true
  | .chbind _ _ => true
  | .patadd _ _ => true
  | .patdel _ _ => true
  | .chstat _ _ => true
  | .chmove _ _ _ => true
  | .spawn _ _ => true
  | .gang _ _ => true
  | .jstat _ _ => true
  | .jcancel _ _ => true
  | .tnow _ => true
  | .tlwait k _ => k.toNat < 6
  | .tlread _ k sel => k.toNat < 6 && sel.toNat < 3
  | .waitany _ _ => true
  | .waitall _ => true
  | .tagfirst _ _ => true
  | .tagclr _ => true
  | .tagrd _ sel => sel.toNat < 2
  | .vadd _ _ _ _ _ => true
  | .vsub _ _ _ _ _ => true
  | .vmul _ _ _ _ _ => true
  | .vfma _ _ _ _ _ => true
  | .vmin _ _ _ _ _ => true
  | .vmax _ _ _ _ _ => true
  | .vabs _ _ _ _ => true
  | .vneg _ _ _ _ => true
  | .vand _ _ _ _ _ => true
  | .vor _ _ _ _ _ => true
  | .vxor _ _ _ _ _ => true
  | .vshl _ _ _ _ _ => true
  | .vshr _ _ _ _ _ => true
  | .vceq d _ _ _ _ => d.toNat < 8
  | .vclt d _ _ _ _ => d.toNat < 8
  | .vcle d _ _ _ _ => d.toNat < 8
  | .vsel _ _ _ _ => true
  | .vdiv _ _ _ _ _ => true
  | .vrcp _ _ _ _ => true
  | .vrsq _ _ _ _ => true
  | .vexp2 _ _ _ _ => true
  | .vdot _ _ _ _ _ => true
  | .vperm _ _ _ _ _ => true
  | .vbcast _ _ code _ _ => code.toNat < 19
  | .vredadd _ _ _ => true
  | .vredmax _ _ _ => true
  | .vredmin _ _ _ => true
  | .vins _ _ _ => true
  | .vext _ _ _ => true
  | .vcvt _ _ _ _ tag _ _ sat => tag.toNat < 19 && (sat == 0#1 || (9 ≤ tag.toNat && tag.toNat ≤ 12))
  | .vtag _ _ tag => tag.toNat < 19
  | .vwid _ _ _ _ _ _ _ => true
  | .vnar d _ b _ _ tag _ _ => tag.toNat < 19 && d != b
  | .vscl _ a _ tag _ bs _ => tag.toNat < 19 && !(a == 31#5 && bs == 2#2)
  | .vld _ _ _ _ tag _ _ => tag.toNat < 19
  | .vst _ _ _ _ => true
  | .vgath _ _ _ _ _ tag _ _ _ => tag.toNat < 19
  | .vscat _ _ _ _ _ _ => true
  | .pand d a b => d.toNat < 8 && a.toNat < 8 && b.toNat < 8
  | .por d a b => d.toNat < 8 && a.toNat < 8 && b.toNat < 8
  | .pnot d a => d.toNat < 8 && a.toNat < 8
  | .pcnt _ a => a.toNat < 8
  | .pfirst _ a => a.toNat < 8
  | .pset d _ => d.toNat < 8
  | .tmma d _ _ _ e fa fb sc _ => d.toNat < 8 && fa.toNat < 19 && fb.toNat < 19 && (sc == 1#1 || e == 0#5)
  | .tzero d fa _ => d.toNat < 8 && fa.toNat < 19
  | .tst d _ _ fa sat _ => d.toNat < 8 && fa.toNat < 19 && (sat == 0#1 || (9 ≤ fa.toNat && fa.toNat ≤ 12))
  | .tscl d a _ _ => d.toNat < 8 && a != 31#5
  | .tget d a _ => a.toNat < 8 && d != 31#5
  | .tset d a _ _ => d.toNat < 8 && a != 31#5
  | .lbld d _ _ fmt _ _ _ => d.toNat < 8 && fmt.toNat < 19
  | .lmm d _ b _ fmt _ _ => (d == 0#5 || d == 4#5) && b.toNat < 8 && fmt.toNat < 19
  | .linv d _ => d.toNat < 8
  | .lstat _ b _ => b.toNat < 8
  | .lrbld d _ => d.toNat < 8
  | .cp _ _ _ _ x => (x.tge == 1#1 || x.tag == 0#6)
  | .cp2d _ _ _ _ x => (x.tge == 1#1 || x.tag == 0#6)
  | .cp3d _ _ _ _ x => (x.tge == 1#1 || x.tag == 0#6)
  | .cpm _ _ _ _ x _ => (x.tge == 1#1 || x.tag == 0#6)
  | .cpredK0 _ _ _ _ x _ _ => (x.tge == 1#1 || x.tag == 0#6)
  | .cpredK1 _ _ x _ _ => (x.tge == 1#1 || x.tag == 0#6)
  | .cpredK2 _ _ _ _ x _ _ => (x.tge == 1#1 || x.tag == 0#6)
  | .cpredK3 _ _ x _ _ => (x.tge == 1#1 || x.tag == 0#6)
  | .cpfill _ _ _ _ x => (x.tge == 1#1 || x.tag == 0#6)
  | .cpsigIrq _ _ x => (x.tge == 1#1 || x.tag == 0#6)
  | .cpsigMsg _ _ b x => (x.tge == 1#1 || x.tag == 0#6) && decide (b.toNat < 29)
  | .cpcan _ _ _ => true
  | .cpq _ _ => true
  | .cpat _ _ _ _ x _ _ => (x.tge == 1#1 || x.tag == 0#6)
  | .tlbwInstall _ _ _ => true
  | .tlbwSetMissChannel _ _ _ => true
  | .tlbinv _ _ => true
  | .tlbinva _ => true
  | .pgmig _ _ _ => true
  | .ownq _ _ => true
  | .stubq _ _ => true
  | .rfc _ _ _ => true
  | .fresume _ _ => true
  | .actw _ _ _ => true
  | .partwAssign _ _ _ => true
  | .partwWithdraw _ _ _ => true
  | .partwSetWord _ _ _ => true
  | .filtw _ _ _ => true
  | .ctxsave _ _ _ => true
  | .ctxload _ _ _ => true
  | .preempt _ _ => true
  | .preemptHalt _ _ => true
  | .tsyncStatus _ _ _ => true
  | .tsyncSetReference _ _ _ => true
  | .tsyncSetTime _ _ _ => true
  | .icacheLineFill _ _ => true
  | .lookaheadOpenerComplete _ _ => true
  | .storeArrival _ => true
  | .atomicExecute _ => true
  | .runAheadEnd _ => true
  | .trapSlotGrant _ => true
  | .recordWriteRetry _ => true
  | .messageArrival _ => true
  | .matchDecision _ => true
  | .admission _ => true
  | .strandRelease _ => true
  | .ringRefill _ _ => true
  | .ringReadRetry _ _ => true
  | .forwardingEntryExpiry _ _ => true
  | .spilledRecordApply _ _ => true
  | .hostChannelSend _ _ _ => true
  | .hostBar4Read _ _ => true
  | .hostBar4Write _ _ => true
  | .doorbell _ _ => true
  | .mailboxRestart _ => true
  | .mailboxManagementRequest _ => true
  | .mailboxDebugHalt _ => true
  | .mailboxDeclareDead _ => true
  | .mailboxReadSensor _ => true
  | .jobStart _ => true
  | .chunkDeal _ _ => true
  | .launchItemOffer _ => true
  | .itemEnd _ => true
  | .gangMemberUnreachable _ _ => true
  | .partitionWordApply _ => true
  | .unitWithdrawal _ => true
  | .preemptForceTimeout _ => true
  | .strandSave _ => true
  | .strandRestore _ => true
  | .debugHalt _ => true
  | .timerExpiry _ => true
  | .idleTimeout _ => true
  | .pauseEnd _ => true
  | .tagWaitGrant _ => true
  | .fenceTicketGrant _ => true
  | .fenceTicketTimeout _ => true
  | .copyBlock _ _ _ _ _ => true
  | .copyComplete _ _ _ => true
  | .copyFaultTimeout _ _ _ => true
  | .cpsigSignal _ _ _ => true
  | .remoteTimeout _ _ _ => true
  | .dteStep _ => true
  | .dteComplete _ => true
  | .kuduStep _ => true
  | .kuduComplete _ => true
  | .tlbMissTimeout _ _ _ => true
  | .frozenPageTimeout _ => true
  | .ownerLookupTimeout _ => true
  | .stubHeldTimeout _ => true
  | .stubQuietExpiry _ => true
  | .linkDead _ => true
  | .messageRetransmit _ => true
  | .messageGiveUp _ => true
  | .remoteAtomicRetransmit _ _ => true
  | .pktRead _ => true
  | .pktWrite _ => true
  | .pktAtomic _ => true
  | .pktDirq _ => true
  | .pktMigrq _ => true
  | .pktInval _ => true
  | .pktData _ => true
  | .pktDone _ => true
  | .pktBounce _ => true
  | .pktDirans _ => true
  | .pktAck _ => true
  | .pktMack _ => true
  | .pktMsg _ => true
  | .pktGang _ => true
  | .pktGack _ => true
  | .pktMsync _ => true
  | .pktResv _ => true
  | .pktContrib _ => true
  | .pktRrel _ => true
  | .pktRans _ => true
  | .pktTime _ => true
  | .pktMgmt _ => true
  | .reductionTimeout _ => true
  | .timeExchange _ => true
  | .timeSyncLost => true
  | .sensorSample _ => true
  | .bubbleRatioUpdate _ _ => true
  | .machineCheck _ => true
  | .cxlReadTimeout _ => true
  | .powerOn _ => true
  | .bootRetry _ => true
  | .powerRemoval => true
  | .illegalMajor _ _ => true
  | .fetchFault _ _ => true
  | .mailboxRequestRefused _ => true

/-- The LA field holds a value the form admits (R96, R148); forms without a carried LA field have it checked by the decoder. -/
def Instr.laOk : Instr → Bool
  | .nop => true
  | .done => true
  | .pause => true
  | .trap _ => true
  | .brk _ => true
  | .eret _ => true
  | .csrr _ _ => true
  | .csrw _ _ => true
  | .csrs _ _ => true
  | .csrc _ _ => true
  | .idle => true
  | .ftrim _ _ _ => true
  | .br _ => true
  | .call _ => true
  | .bc _ _ _ => true
  | .jr _ => true
  | .jal _ _ => true
  | .safept _ _ _ _ => true
  | .add _ _ _ => true
  | .sub _ _ _ => true
  | .and _ _ _ => true
  | .or _ _ _ => true
  | .xor _ _ _ => true
  | .andn _ _ _ => true
  | .shl _ _ _ => true
  | .shr _ _ _ => true
  | .sar _ _ _ => true
  | .ror _ _ _ => true
  | .mul _ _ _ => true
  | .mulh _ _ _ => true
  | .mulhn _ _ _ => true
  | .min _ _ _ => true
  | .max _ _ _ => true
  | .minn _ _ _ => true
  | .maxn _ _ _ => true
  | .slt _ _ _ => true
  | .sltn _ _ _ => true
  | .seq _ _ _ => true
  | .clz _ _ => true
  | .ctz _ _ => true
  | .popc _ _ => true
  | .bfx _ _ _ => true
  | .bfi _ _ _ => true
  | .div _ _ _ _ => true
  | .divn _ _ _ _ => true
  | .rem _ _ _ _ => true
  | .remn _ _ _ _ => true
  | .addi _ _ _ => true
  | .addiLiteral _ _ _ => true
  | .andi _ _ _ => true
  | .andiLiteral _ _ _ => true
  | .ori _ _ _ => true
  | .oriLiteral _ _ _ => true
  | .xori _ _ _ => true
  | .xoriLiteral _ _ _ => true
  | .shli _ _ _ => true
  | .shri _ _ _ => true
  | .sari _ _ _ => true
  | .li _ _ => true
  | .liLiteral _ _ => true
  | .addpc _ _ => true
  | .addpcLiteral _ _ => true
  | .ld _ _ _ _ _ => true
  | .st _ _ _ _ => true
  | .pref _ _ _ => true
  | .ldacq _ _ _ _ _ => true
  | .strel _ _ _ _ _ => true
  | .fence _ _ => true
  | .amoAdd _ _ _ _ _ _ nr la => nr == 0#1 || la == 0#4
  | .amoMin _ _ _ _ _ _ nr la => nr == 0#1 || la == 0#4
  | .amoMinn _ _ _ _ _ _ nr la => nr == 0#1 || la == 0#4
  | .amoMax _ _ _ _ _ _ nr la => nr == 0#1 || la == 0#4
  | .amoMaxn _ _ _ _ _ _ nr la => nr == 0#1 || la == 0#4
  | .amoAnd _ _ _ _ _ _ nr la => nr == 0#1 || la == 0#4
  | .amoOr _ _ _ _ _ _ nr la => nr == 0#1 || la == 0#4
  | .amoXor _ _ _ _ _ _ nr la => nr == 0#1 || la == 0#4
  | .amoExch _ _ _ _ _ _ nr la => nr == 0#1 || la == 0#4
  | .amoCas _ _ _ _ _ _ nr la => nr == 0#1 || la == 0#4
  | .amoFadd _ _ _ _ _ _ nr la => nr == 0#1 || la == 0#4
  | .amoFmin _ _ _ _ _ _ nr la => nr == 0#1 || la == 0#4
  | .amoFmax _ _ _ _ _ _ nr la => nr == 0#1 || la == 0#4
  | .amoIns _ _ _ _ _ _ nr la => nr == 0#1 || la == 0#4
  | .amoFfcs _ _ _ _ _ _ nr la => nr == 0#1 || la == 0#4
  | .amoPset _ _ _ _ _ _ nr la => nr == 0#1 || la == 0#4
  | .send _ _ => true
  | .sendc _ _ => true
  | .chnew _ _ => true
  | .chfree _ => true
  | .chbind _ _ => true
  | .patadd _ _ => true
  | .patdel _ _ => true
  | .chstat _ _ => true
  | .chmove _ _ _ => true
  | .spawn _ _ => true
  | .gang _ _ => true
  | .jstat _ _ => true
  | .jcancel _ _ => true
  | .tnow _ => true
  | .tlwait _ _ => true
  | .tlread _ _ _ => true
  | .waitany _ _ => true
  | .waitall _ => true
  | .tagfirst _ _ => true
  | .tagclr _ => true
  | .tagrd _ _ => true
  | .vadd _ _ _ _ _ => true
  | .vsub _ _ _ _ _ => true
  | .vmul _ _ _ _ _ => true
  | .vfma _ _ _ _ _ => true
  | .vmin _ _ _ _ _ => true
  | .vmax _ _ _ _ _ => true
  | .vabs _ _ _ _ => true
  | .vneg _ _ _ _ => true
  | .vand _ _ _ _ _ => true
  | .vor _ _ _ _ _ => true
  | .vxor _ _ _ _ _ => true
  | .vshl _ _ _ _ _ => true
  | .vshr _ _ _ _ _ => true
  | .vceq _ _ _ _ _ => true
  | .vclt _ _ _ _ _ => true
  | .vcle _ _ _ _ _ => true
  | .vsel _ _ _ _ => true
  | .vdiv _ _ _ _ _ => true
  | .vrcp _ _ _ _ => true
  | .vrsq _ _ _ _ => true
  | .vexp2 _ _ _ _ => true
  | .vdot _ _ _ _ _ => true
  | .vperm _ _ _ _ _ => true
  | .vbcast _ _ _ _ _ => true
  | .vredadd _ _ _ => true
  | .vredmax _ _ _ => true
  | .vredmin _ _ _ => true
  | .vins _ _ _ => true
  | .vext _ _ _ => true
  | .vcvt _ _ _ _ _ _ _ _ => true
  | .vtag _ _ _ => true
  | .vwid _ _ _ _ _ _ _ => true
  | .vnar _ _ _ _ _ _ _ _ => true
  | .vscl _ _ _ _ _ _ _ => true
  | .vld _ _ _ _ _ _ _ => true
  | .vst _ _ _ _ => true
  | .vgath _ _ _ _ _ _ _ _ _ => true
  | .vscat _ _ _ _ _ _ => true
  | .pand _ _ _ => true
  | .por _ _ _ => true
  | .pnot _ _ => true
  | .pcnt _ _ => true
  | .pfirst _ _ => true
  | .pset _ _ => true
  | .tmma _ _ _ _ _ _ _ _ _ => true
  | .tzero _ _ _ => true
  | .tst _ _ _ _ _ _ => true
  | .tscl _ _ _ _ => true
  | .tget _ _ _ => true
  | .tset _ _ _ _ => true
  | .lbld _ _ _ _ _ _ _ => true
  | .lmm _ _ _ _ _ _ _ => true
  | .linv _ _ => true
  | .lstat _ _ _ => true
  | .lrbld _ _ => true
  | .cp _ _ _ _ _ => true
  | .cp2d _ _ _ _ _ => true
  | .cp3d _ _ _ _ _ => true
  | .cpm _ _ _ _ _ _ => true
  | .cpredK0 _ _ _ _ _ _ _ => true
  | .cpredK1 _ _ _ _ _ => true
  | .cpredK2 _ _ _ _ _ _ _ => true
  | .cpredK3 _ _ _ _ _ => true
  | .cpfill _ _ _ _ _ => true
  | .cpsigIrq _ _ _ => true
  | .cpsigMsg _ _ _ _ => true
  | .cpcan _ _ _ => true
  | .cpq _ _ => true
  | .cpat _ _ _ _ _ _ _ => true
  | .tlbwInstall _ _ _ => true
  | .tlbwSetMissChannel _ _ _ => true
  | .tlbinv _ _ => true
  | .tlbinva _ => true
  | .pgmig _ _ _ => true
  | .ownq _ _ => true
  | .stubq _ _ => true
  | .rfc _ _ _ => true
  | .fresume _ _ => true
  | .actw _ _ _ => true
  | .partwAssign _ _ _ => true
  | .partwWithdraw _ _ _ => true
  | .partwSetWord _ _ _ => true
  | .filtw _ _ _ => true
  | .ctxsave _ _ _ => true
  | .ctxload _ _ _ => true
  | .preempt _ _ => true
  | .preemptHalt _ _ => true
  | .tsyncStatus _ _ _ => true
  | .tsyncSetReference _ _ _ => true
  | .tsyncSetTime _ _ _ => true
  | .icacheLineFill _ _ => true
  | .lookaheadOpenerComplete _ _ => true
  | .storeArrival _ => true
  | .atomicExecute _ => true
  | .runAheadEnd _ => true
  | .trapSlotGrant _ => true
  | .recordWriteRetry _ => true
  | .messageArrival _ => true
  | .matchDecision _ => true
  | .admission _ => true
  | .strandRelease _ => true
  | .ringRefill _ _ => true
  | .ringReadRetry _ _ => true
  | .forwardingEntryExpiry _ _ => true
  | .spilledRecordApply _ _ => true
  | .hostChannelSend _ _ _ => true
  | .hostBar4Read _ _ => true
  | .hostBar4Write _ _ => true
  | .doorbell _ _ => true
  | .mailboxRestart _ => true
  | .mailboxManagementRequest _ => true
  | .mailboxDebugHalt _ => true
  | .mailboxDeclareDead _ => true
  | .mailboxReadSensor _ => true
  | .jobStart _ => true
  | .chunkDeal _ _ => true
  | .launchItemOffer _ => true
  | .itemEnd _ => true
  | .gangMemberUnreachable _ _ => true
  | .partitionWordApply _ => true
  | .unitWithdrawal _ => true
  | .preemptForceTimeout _ => true
  | .strandSave _ => true
  | .strandRestore _ => true
  | .debugHalt _ => true
  | .timerExpiry _ => true
  | .idleTimeout _ => true
  | .pauseEnd _ => true
  | .tagWaitGrant _ => true
  | .fenceTicketGrant _ => true
  | .fenceTicketTimeout _ => true
  | .copyBlock _ _ _ _ _ => true
  | .copyComplete _ _ _ => true
  | .copyFaultTimeout _ _ _ => true
  | .cpsigSignal _ _ _ => true
  | .remoteTimeout _ _ _ => true
  | .dteStep _ => true
  | .dteComplete _ => true
  | .kuduStep _ => true
  | .kuduComplete _ => true
  | .tlbMissTimeout _ _ _ => true
  | .frozenPageTimeout _ => true
  | .ownerLookupTimeout _ => true
  | .stubHeldTimeout _ => true
  | .stubQuietExpiry _ => true
  | .linkDead _ => true
  | .messageRetransmit _ => true
  | .messageGiveUp _ => true
  | .remoteAtomicRetransmit _ _ => true
  | .pktRead _ => true
  | .pktWrite _ => true
  | .pktAtomic _ => true
  | .pktDirq _ => true
  | .pktMigrq _ => true
  | .pktInval _ => true
  | .pktData _ => true
  | .pktDone _ => true
  | .pktBounce _ => true
  | .pktDirans _ => true
  | .pktAck _ => true
  | .pktMack _ => true
  | .pktMsg _ => true
  | .pktGang _ => true
  | .pktGack _ => true
  | .pktMsync _ => true
  | .pktResv _ => true
  | .pktContrib _ => true
  | .pktRrel _ => true
  | .pktRans _ => true
  | .pktTime _ => true
  | .pktMgmt _ => true
  | .reductionTimeout _ => true
  | .timeExchange _ => true
  | .timeSyncLost => true
  | .sensorSample _ => true
  | .bubbleRatioUpdate _ _ => true
  | .machineCheck _ => true
  | .cxlReadTimeout _ => true
  | .powerOn _ => true
  | .bootRetry _ => true
  | .powerRemoval => true
  | .illegalMajor _ _ => true
  | .fetchFault _ _ => true
  | .mailboxRequestRefused _ => true

/-- A well-formed instruction. -/
def Instr.wf (i : Instr) : Bool := i.reservedOk && i.laOk

/-- The row that stands for the words of a row that shares them (TLBW, PARTW, PREEMPT and TSYNC rows): the decoder
reads the first. -/
def Instr.canon : Instr → Instr
  | .tlbwSetMissChannel d a b => .tlbwInstall d a b
  | .partwWithdraw d a b => .partwAssign d a b
  | .partwSetWord d a b => .partwAssign d a b
  | .preemptHalt d a => .preempt d a
  | .tsyncSetReference d a b => .tsyncStatus d a b
  | .tsyncSetTime d a b => .tsyncStatus d a b
  | i => i

end Sys2Proof
end

