-- ==== Sys2Proof/Decode.lean ====
section
/-! DEFINITION. The decoder, total on any bytes and refusing by name (R77–R96, and words 1 and 2 of each family), then the
encoder written from the same tables. Decode faults come in the order of R93: illegal-major, bad-length,
illegal-function, reserved-field, lookahead-misuse. Whether the executing core has the major (R25) is checked where the
word is issued. -/

namespace Sys2Proof

/-- LEN, bits [31:30] (R77). -/
def fLen (w : IWord) : BitVec 2 := w.extractLsb' 30 2
/-- MAJ, bits [29:24] (R77). -/
def fMaj (w : IWord) : BitVec 6 := w.extractLsb' 24 6
/-- D, bits [23:19] (R84). -/
def fD (w : IWord) : BitVec 5 := w.extractLsb' 19 5
/-- A, bits [18:14] (R84). -/
def fA (w : IWord) : BitVec 5 := w.extractLsb' 14 5
/-- B, bits [13:9] (R84). -/
def fB (w : IWord) : BitVec 5 := w.extractLsb' 9 5
/-- FN of the R format, bits [8:4] (R84). -/
def fFn (w : IWord) : BitVec 5 := w.extractLsb' 4 5
/-- LA, bits [3:0] (R84). -/
def fLa (w : IWord) : BitVec 4 := w.extractLsb' 0 4
/-- FN of the V format, bits [4:0] (R84). -/
def fVfn (w : IWord) : BitVec 5 := w.extractLsb' 0 5
/-- Z of the V format, bit [5] (R88). -/
def fZ (w : IWord) : BitVec 1 := w.extractLsb' 5 1
/-- P of the V format, bits [8:6] (R88). -/
def fP (w : IWord) : BitVec 3 := w.extractLsb' 6 3
/-- IMM10, bits [13:4] (R85). -/
def fImm (w : IWord) : BitVec 10 := w.extractLsb' 4 10
/-- Bits [hi:lo] of a word, as `lo` and a width. -/
def fld (w : IWord) (lo n : Nat) : BitVec n := w.extractLsb' lo n
/-- Bits [n-1:lo] below are all zero. -/
def zeroAt (w : IWord) (lo n : Nat) : Bool := w.extractLsb' lo n == 0#n

/-- The length in bytes that LEN gives (R78). -/
def lenBytes (l : BitVec 2) : Nat := if l = 0 then 4 else if l = 3 then 20 else 12

/-- What a family's decoder gives: the instruction, whether every unused field is zero, and whether LA may hold its value. -/
abbrev Decoded := Except DecodeFault (Instr × Bool × Bool)

/-- SYS forms, major 0x00 (R91). -/
def decodeSys (w : IWord) : Decoded :=
  let z := zeroAt w 9 15 && zeroAt w 0 4
  let csr : BitVec 12 := w.extractLsb' 9 10 ++ w.extractLsb' 2 2
  let zc := zeroAt w 0 2
  match (fFn w).toNat with
  | 0 => .ok (.nop, z, true)
  | 1 => .ok (.done, z, true)
  | 2 => .ok (.pause, z, true)
  | 3 => .ok (.trap (fld w 9 10), zeroAt w 19 5 && zeroAt w 0 4, true)
  | 4 => .ok (.brk (fld w 9 10), zeroAt w 19 5 && zeroAt w 0 4, true)
  | 5 => .ok (.eret (fA w), zeroAt w 19 5 && zeroAt w 9 5 && zeroAt w 0 4, true)
  | 6 => .ok (.csrr (fD w) csr, zc, true)
  | 7 => .ok (.csrw (fD w) csr, zc, true)
  | 8 => .ok (.csrs (fD w) csr, zc, true)
  | 9 => .ok (.csrc (fD w) csr, zc, true)
  | 10 => .ok (.idle, z, true)
  | 11 => .ok (.ftrim (fld w 18 6) (fld w 14 4) (fld w 10 4), zeroAt w 9 1 && zeroAt w 0 4, true)
  | _ => .error .illegalFunction

/-- Major 0x05 (R114). -/
def decodeJump (w0 : IWord) : Decoded :=
  let d := fD w0; let a := fA w0; let b := fB w0; let la := fLa w0
  match (fFn w0).toNat with
  | 0 => .ok (.jr a, d == 0#5 && b == 0#5, la == 0#4)
  | 1 => .ok (.jal d a, b == 0#5, la == 0#4)
  | _ => .error .illegalFunction

/-- INT family, major 0x08 (R106). -/
def decodeInt (w0 : IWord) : Decoded :=
  let d := fD w0; let a := fA w0; let b := fB w0; let la := fLa w0
  match (fFn w0).toNat with
  | 0 => .ok (.add d a b, true, la == 0#4)
  | 1 => .ok (.sub d a b, true, la == 0#4)
  | 2 => .ok (.and d a b, true, la == 0#4)
  | 3 => .ok (.or d a b, true, la == 0#4)
  | 4 => .ok (.xor d a b, true, la == 0#4)
  | 5 => .ok (.andn d a b, true, la == 0#4)
  | 6 => .ok (.shl d a b, true, la == 0#4)
  | 7 => .ok (.shr d a b, true, la == 0#4)
  | 8 => .ok (.sar d a b, true, la == 0#4)
  | 9 => .ok (.ror d a b, true, la == 0#4)
  | 10 => .ok (.mul d a b, true, la == 0#4)
  | 11 => .ok (.mulh d a b, true, la == 0#4)
  | 12 => .ok (.mulhn d a b, true, la == 0#4)
  | 13 => .ok (.min d a b, true, la == 0#4)
  | 14 => .ok (.max d a b, true, la == 0#4)
  | 15 => .ok (.minn d a b, true, la == 0#4)
  | 16 => .ok (.maxn d a b, true, la == 0#4)
  | 17 => .ok (.slt d a b, true, la == 0#4)
  | 18 => .ok (.sltn d a b, true, la == 0#4)
  | 19 => .ok (.seq d a b, true, la == 0#4)
  | 20 => .ok (.clz d a, b == 0#5, la == 0#4)
  | 21 => .ok (.ctz d a, b == 0#5, la == 0#4)
  | 22 => .ok (.popc d a, b == 0#5, la == 0#4)
  | 23 => .ok (.bfx d a b, true, la == 0#4)
  | 24 => .ok (.bfi d a b, true, la == 0#4)
  | _ => .error .illegalFunction

/-- DIV family, major 0x09 (R107). -/
def decodeDiv (w0 : IWord) : Decoded :=
  let d := fD w0; let a := fA w0; let b := fB w0; let la := fLa w0
  match (fFn w0).toNat with
  | 0 => .ok (.div d a b la, true, true)
  | 1 => .ok (.divn d a b la, true, true)
  | 2 => .ok (.rem d a b la, true, true)
  | 3 => .ok (.remn d a b la, true, true)
  | _ => .error .illegalFunction

/-- Immediate majors 0x0A–0x0D, 0x0F and 0x10 (R85): `lit` forms have LEN 10 and IMM10 zero. -/
def decodeImm (w : IWord) (lit : Word) : Decoded :=
  let d := fD w; let a := fA w; let imm := fImm w; let la := fLa w == 0#4
  let zi := imm == 0#10
  if fLen w = 0 then
    match (fMaj w).toNat with
    | 0x0A => .ok (.addi d a imm, true, la)
    | 0x0B => .ok (.andi d a imm, true, la)
    | 0x0C => .ok (.ori d a imm, true, la)
    | 0x0D => .ok (.xori d a imm, true, la)
    | 0x0F => .ok (.li d imm, a == 0#5, la)
    | _ => .ok (.addpc d imm, a == 0#5, la)
  else
    match (fMaj w).toNat with
    | 0x0A => .ok (.addiLiteral d a lit, zi, la)
    | 0x0B => .ok (.andiLiteral d a lit, zi, la)
    | 0x0C => .ok (.oriLiteral d a lit, zi, la)
    | 0x0D => .ok (.xoriLiteral d a lit, zi, la)
    | 0x0F => .ok (.liLiteral d lit, zi && a == 0#5, la)
    | _ => .ok (.addpcLiteral d lit, zi && a == 0#5, la)

/-- Shift immediates, major 0x0E (R85). -/
def decodeShift (w : IWord) : Decoded :=
  let d := fD w; let a := fA w; let amt : BitVec 6 := fld w 4 6; let la := fLa w == 0#4
  let z := zeroAt w 10 2
  match (w.extractLsb' 12 2).toNat with
  | 0 => .ok (.shli d a amt, z, la)
  | 1 => .ok (.shri d a amt, z, la)
  | 2 => .ok (.sari d a amt, z, la)
  | _ => .error .reservedField

/-- AMO family, major 0x18 (R147): word 1 holds C, SCOPE, SIZE and NR; word 2 is zero. -/
def decodeAmo (w0 w1 w2 : IWord) : Decoded :=
  let d := fD w0; let a := fA w0; let b := fB w0; let la := fLa w0
  let c : BitVec 5 := fld w1 27 5; let sc : BitVec 2 := fld w1 25 2; let sz : BitVec 1 := fld w1 24 1; let nr : BitVec 1 := fld w1 23 1
  let z := zeroAt w1 0 23 && w2 == 0#32
  match (fFn w0).toNat with
  | 0 => .ok (.amoAdd d a b c sc sz nr la, z, true)
  | 1 => .ok (.amoMin d a b c sc sz nr la, z, true)
  | 2 => .ok (.amoMinn d a b c sc sz nr la, z, true)
  | 3 => .ok (.amoMax d a b c sc sz nr la, z, true)
  | 4 => .ok (.amoMaxn d a b c sc sz nr la, z, true)
  | 5 => .ok (.amoAnd d a b c sc sz nr la, z, true)
  | 6 => .ok (.amoOr d a b c sc sz nr la, z, true)
  | 7 => .ok (.amoXor d a b c sc sz nr la, z, true)
  | 8 => .ok (.amoExch d a b c sc sz nr la, z, true)
  | 9 => .ok (.amoCas d a b c sc sz nr la, z, true)
  | 10 => .ok (.amoFadd d a b c sc sz nr la, z, true)
  | 11 => .ok (.amoFmin d a b c sc sz nr la, z, true)
  | 12 => .ok (.amoFmax d a b c sc sz nr la, z, true)
  | 13 => .ok (.amoIns d a b c sc sz nr la, z, true)
  | 14 => .ok (.amoFfcs d a b c sc sz nr la, z, true)
  | 15 => .ok (.amoPset d a b c sc sz nr la, z, true)
  | _ => .error .illegalFunction

/-- MSG family, major 0x1A (R179). -/
def decodeMsg (w0 : IWord) : Decoded :=
  let d := fD w0; let a := fA w0; let b := fB w0; let la := fLa w0
  match (fFn w0).toNat with
  | 0 => .ok (.send a b, d == 0#5, la == 0#4)
  | 1 => .ok (.sendc a b, d == 0#5, la == 0#4)
  | 2 => .ok (.chnew d a, b == 0#5, la == 0#4)
  | 3 => .ok (.chfree a, d == 0#5 && b == 0#5, la == 0#4)
  | 4 => .ok (.chbind a b, d == 0#5, la == 0#4)
  | 5 => .ok (.patadd d a, b == 0#5, la == 0#4)
  | 6 => .ok (.patdel a b, d == 0#5, la == 0#4)
  | 7 => .ok (.chstat d a, b == 0#5, la == 0#4)
  | 8 => .ok (.chmove d a b, true, la == 0#4)
  | _ => .error .illegalFunction

/-- LAUNCH family, major 0x1B (R204). -/
def decodeLaunch (w0 : IWord) : Decoded :=
  let d := fD w0; let a := fA w0; let b := fB w0; let la := fLa w0
  match (fFn w0).toNat with
  | 0 => .ok (.spawn d a, b == 0#5, la == 0#4)
  | 1 => .ok (.gang d a, b == 0#5, la == 0#4)
  | 2 => .ok (.jstat d a, b == 0#5, la == 0#4)
  | 3 => .ok (.jcancel d a, b == 0#5, la == 0#4)
  | 4 => .ok (.tnow d, a == 0#5 && b == 0#5, la == 0#4)
  | _ => .error .illegalFunction

/-- SYNC family, major 0x1C (R235). -/
def decodeSync (w0 : IWord) : Decoded :=
  let d := fD w0; let a := fA w0; let b := fB w0; let la := fLa w0
  match (fFn w0).toNat with
  | 0 => .ok (.tlwait a b, d == 0#5, la == 0#4)
  | 1 => .ok (.tlread d a b, true, la == 0#4)
  | 2 => .ok (.waitany d a, b == 0#5, la == 0#4)
  | 3 => .ok (.waitall a, d == 0#5 && b == 0#5, la == 0#4)
  | 4 => .ok (.tagfirst d a, b == 0#5, la == 0#4)
  | 5 => .ok (.tagclr a, d == 0#5 && b == 0#5, la == 0#4)
  | 6 => .ok (.tagrd d b, a == 0#5, la == 0#4)
  | _ => .error .illegalFunction

/-- VALU family, major 0x20 (R258). -/
def decodeValu (w0 : IWord) : Decoded :=
  let d := fD w0; let a := fA w0; let b := fB w0; let p := fP w0; let z := fZ w0
  match (fVfn w0).toNat with
  | 0 => .ok (.vadd d a b p z, true, true)
  | 1 => .ok (.vsub d a b p z, true, true)
  | 2 => .ok (.vmul d a b p z, true, true)
  | 3 => .ok (.vfma d a b p z, true, true)
  | 4 => .ok (.vmin d a b p z, true, true)
  | 5 => .ok (.vmax d a b p z, true, true)
  | 6 => .ok (.vabs d a p z, b == 0#5, true)
  | 7 => .ok (.vneg d a p z, b == 0#5, true)
  | 8 => .ok (.vand d a b p z, true, true)
  | 9 => .ok (.vor d a b p z, true, true)
  | 10 => .ok (.vxor d a b p z, true, true)
  | 11 => .ok (.vshl d a b p z, true, true)
  | 12 => .ok (.vshr d a b p z, true, true)
  | 13 => .ok (.vceq d a b p z, true, true)
  | 14 => .ok (.vclt d a b p z, true, true)
  | 15 => .ok (.vcle d a b p z, true, true)
  | 16 => .ok (.vsel d a b p, z == 0#1, true)
  | 17 => .ok (.vdiv d a b p z, true, true)
  | 18 => .ok (.vrcp d a p z, b == 0#5, true)
  | 19 => .ok (.vrsq d a p z, b == 0#5, true)
  | 20 => .ok (.vexp2 d a p z, b == 0#5, true)
  | 21 => .ok (.vdot d a b p z, true, true)
  | _ => .error .illegalFunction

/-- VPERM family, major 0x21 (R261–R264). -/
def decodeVperm (w0 : IWord) : Decoded :=
  let d := fD w0; let a := fA w0; let b := fB w0; let p := fP w0; let z := fZ w0
  match (fVfn w0).toNat with
  | 0 => .ok (.vperm d a b p z, true, true)
  | 1 => .ok (.vbcast d a b p z, true, true)
  | 2 => .ok (.vredadd d a p, b == 0#5 && z == 0#1, true)
  | 3 => .ok (.vredmax d a p, b == 0#5 && z == 0#1, true)
  | 4 => .ok (.vredmin d a p, b == 0#5 && z == 0#1, true)
  | 5 => .ok (.vins d a b, p == 0#3 && z == 0#1, true)
  | 6 => .ok (.vext d a b, p == 0#3 && z == 0#1, true)
  | _ => .error .illegalFunction

/-- VCVT family, major 0x22 (R273). -/
def decodeVcvt (w0 w1 w2 : IWord) : Decoded :=
  let d := fD w0; let a := fA w0; let b := fB w0; let la := fLa w0 == 0#4
  let p : BitVec 3 := fld w1 29 3; let z : BitVec 1 := fld w1 28 1; let tag : BitVec 5 := fld w1 23 5
  let rm : BitVec 2 := fld w1 21 2; let sl : BitVec 5 := fld w1 16 5; let bs : BitVec 2 := fld w1 14 2
  let sat : BitVec 1 := fld w1 13 1; let ef : BitVec 5 := fld w1 8 5
  let t := zeroAt w1 0 8 && w2 == 0#32
  let nob := b == 0#5; let norm := rm == 0#2; let nobs := bs == 0#2; let nosat := sat == 0#1; let noef := ef == 0#5
  match (fFn w0).toNat with
  | 0 => .ok (.vcvt d a p z tag rm sl sat, t && nob && nobs && noef, la)
  | 1 => .ok (.vtag d a tag, t && nob && p == 0#3 && z == 0#1 && norm && sl == 0#5 && nobs && nosat && noef, la)
  | 2 => .ok (.vwid d a b p z sl bs, t && tag == 0#5 && norm && nosat && noef, la)
  | 3 => .ok (.vnar d a b p z tag sl bs, t && norm && nosat && noef, la)
  | 4 => .ok (.vscl d a p tag sl bs ef, t && nob && z == 0#1 && norm && nosat, la)
  | _ => .error .illegalFunction

/-- VMEM family, major 0x23 (R265): word 2 is OFF32. -/
def decodeVmem (w0 w1 w2 : IWord) : Decoded :=
  let d := fD w0; let a := fA w0; let b := fB w0; let la := fLa w0
  let p : BitVec 3 := fld w1 29 3; let z : BitVec 1 := fld w1 28 1; let tag : BitVec 5 := fld w1 23 5; let scl : BitVec 2 := fld w1 21 2
  let t := zeroAt w1 0 21
  match (fFn w0).toNat with
  | 0 => .ok (.vld d a p z tag w2 la, t && b == 0#5, true)
  | 1 => .ok (.vst d a p w2, t && b == 0#5, la == 0#4)
  | 2 => .ok (.vgath d a b p z tag scl w2 la, t, true)
  | 3 => .ok (.vscat d a b p scl w2, t, la == 0#4)
  | _ => .error .illegalFunction

/-- Z, TAG and SCL of a VMEM form are zero where it has no such field (R267 item 3). -/
def vmemZeros (m : Nat) (w0 w1 : IWord) : Bool :=
  let z := zeroAt w1 28 1; let tag := zeroAt w1 23 5; let scl := zeroAt w1 21 2
  m != 0x23 || (match (fFn w0).toNat with
    | 0 => scl
    | 1 => z && tag && scl
    | 2 => true
    | _ => z && tag)

/-- PRED family, major 0x24 (R268). -/
def decodePred (w0 : IWord) : Decoded :=
  let d := fD w0; let a := fA w0; let b := fB w0; let la := fLa w0
  match (fFn w0).toNat with
  | 0 => .ok (.pand d a b, true, la == 0#4)
  | 1 => .ok (.por d a b, true, la == 0#4)
  | 2 => .ok (.pnot d a, b == 0#5, la == 0#4)
  | 3 => .ok (.pcnt d a, b == 0#5, la == 0#4)
  | 4 => .ok (.pfirst d a, b == 0#5, la == 0#4)
  | 5 => .ok (.pset d a, b == 0#5, la == 0#4)
  | _ => .error .illegalFunction

/-- TILE family, major 0x28 (R285). -/
def decodeTile (w0 w1 w2 : IWord) : Decoded :=
  let d := fD w0; let a := fA w0; let b := fB w0; let la := fLa w0 == 0#4
  let c : BitVec 5 := fld w1 27 5; let e : BitVec 5 := fld w1 22 5; let fa : BitVec 5 := fld w1 17 5; let fb : BitVec 5 := fld w1 12 5
  let sc : BitVec 1 := fld w1 11 1; let col : BitVec 1 := fld w1 10 1; let bc : BitVec 1 := fld w1 9 1
  let q : BitVec 5 := fld w2 0 5
  let t := zeroAt w1 0 9 && zeroAt w2 5 27
  let nc := c == 0#5; let ne := e == 0#5; let nfa := fa == 0#5; let nfb := fb == 0#5; let nsc := sc == 0#1; let ncol := col == 0#1; let nbc := bc == 0#1
  let nb := b == 0#5; let na := a == 0#5; let nq := q == 0#5
  match (fFn w0).toNat with
  | 0 => .ok (.tmma d a b c e fa fb sc q, t && ncol && nbc, la)
  | 1 => .ok (.tzero d fa q, t && na && nb && nc && ne && nfb && nsc && ncol && nbc, la)
  | 2 => .ok (.tst d a c fa sc q, t && nb && ne && nfb && ncol && nbc, la)
  | 3 => .ok (.tscl d a col q, t && nb && nc && ne && nfa && nfb && nsc && nbc, la)
  | 4 => .ok (.tget d a b, t && nc && ne && nfa && nfb && nsc && ncol && nbc && nq, la)
  | 5 => .ok (.tset d a b bc, t && nc && ne && nfa && nfb && nsc && ncol && nq, la)
  | _ => .error .illegalFunction

/-- LOOK family, major 0x29 (R308). -/
def decodeLook (w0 w1 w2 : IWord) : Decoded :=
  let d := fD w0; let a := fA w0; let b := fB w0; let la := fLa w0 == 0#4
  let c : BitVec 5 := fld w1 27 5; let fmt : BitVec 5 := fld w1 22 5; let mode : BitVec 1 := fld w1 21 1; let pol : BitVec 1 := fld w1 20 1
  let nt : BitVec 3 := fld w1 17 3; let sel : BitVec 1 := fld w1 16 1
  let q : BitVec 5 := fld w2 0 5
  let t := zeroAt w1 0 16 && zeroAt w2 5 27
  let nc := c == 0#5; let nf := fmt == 0#5; let nm := mode == 0#1; let np := pol == 0#1; let nnt := nt == 0#3; let ns := sel == 0#1
  let nb := b == 0#5; let na := a == 0#5; let nq := q == 0#5
  match (fFn w0).toNat with
  | 0 => .ok (.lbld d a b fmt mode pol q, t && nc && nnt && ns, la)
  | 1 => .ok (.lmm d a b c fmt nt q, t && nm && np && ns, la)
  | 2 => .ok (.linv d q, t && na && nb && nc && nf && nm && np && nnt && ns, la)
  | 3 => .ok (.lstat d b sel, t && na && nc && nf && nm && np && nnt && nq, la)
  | 4 => .ok (.lrbld d q, t && na && nb && nc && nf && nm && np && nnt && ns, la)
  | _ => .error .illegalFunction

/-- COPY family, major 0x2A (R225). -/
def decodeCopy (w0 w1 w2 : IWord) : Decoded :=
  let d := fD w0; let a := fA w0; let b := fB w0; let la := fLa w0 == 0#4
  let c : BitVec 5 := fld w1 27 5; let strm : BitVec 2 := fld w1 25 2
  let x : CopyAttr := CopyAttr.mk strm (fld w1 24 1) (fld w1 18 6) (fld w1 13 5) (fld w1 12 1)
  let t := zeroAt w1 0 12
  let t2 := t && w2 == 0#32
  let bare := x.tge == 0#1 && x.tag == 0#6 && x.e == 0#5 && x.fence == 0#1
  let na := a == 0#5; let nb := b == 0#5; let nc := c == 0#5
  let op : BitVec 4 := fld w2 2 4; let size : BitVec 1 := fld w2 6 1
  let tr := t && zeroAt w2 7 25
  match (fFn w0).toNat with
  | 0 => .ok (.cp d a b c x, t2, la)
  | 1 => .ok (.cp2d d a b c x, t2, la)
  | 2 => .ok (.cp3d d a b c x, t2, la)
  | 3 => .ok (.cpm d a b c x (fld w2 0 4), t && zeroAt w2 4 28, la)
  | 4 =>
    match (w2.extractLsb' 0 2).toNat with
    | 0 => .ok (.cpredK0 d a b c x op size, tr, la)
    | 1 => .ok (.cpredK1 d a x op size, tr && nb && nc, la)
    | 2 => .ok (.cpredK2 d a b c x op size, tr, la)
    | _ => .ok (.cpredK3 d b x op size, tr && na && nc, la)
  | 5 => .ok (.cpfill d a b c x, t2, la)
  | 6 =>
    if w2.extractLsb' 0 1 = 0#1 then .ok (.cpsigIrq d a x, t && zeroAt w2 1 31 && nb && nc, la)
    else .ok (.cpsigMsg d a b x, t && zeroAt w2 1 31 && nc, la)
  | 7 => .ok (.cpcan d a strm, t2 && nb && nc && bare, la)
  | 8 => .ok (.cpq d strm, t2 && na && nb && nc && bare, la)
  | 9 => .ok (.cpat d a b c x (fld w2 0 4) (fld w2 4 1), t && zeroAt w2 5 27, la)
  | _ => .error .illegalFunction

/-- XLAT family, major 0x2C (R366). A descriptor with OP 1 makes the word the row TLBW_SET_MISS_CHANNEL. -/
def decodeXlat (w0 : IWord) : Decoded :=
  let d := fD w0; let a := fA w0; let b := fB w0; let la := fLa w0
  match (fFn w0).toNat with
  | 0 => .ok (.tlbwInstall d a b, true, la == 0#4)
  | 1 => .ok (.tlbinv a b, d == 0#5, la == 0#4)
  | 2 => .ok (.tlbinva a, d == 0#5 && b == 0#5, la == 0#4)
  | 3 => .ok (.pgmig d a b, true, la == 0#4)
  | 4 => .ok (.ownq d a, b == 0#5, la == 0#4)
  | 5 => .ok (.stubq d a, b == 0#5, la == 0#4)
  | 6 => .ok (.rfc d a b, true, la == 0#4)
  | 7 => .ok (.fresume d a, b == 0#5, la == 0#4)
  | _ => .error .illegalFunction

/-- PRIV family, major 0x2D (R341). -/
def decodePriv (w0 : IWord) : Decoded :=
  let d := fD w0; let a := fA w0; let b := fB w0; let la := fLa w0
  match (fFn w0).toNat with
  | 0 => .ok (.actw d a b, true, la == 0#4)
  | 1 => .ok (.partwAssign d a b, true, la == 0#4)
  | 2 => .ok (.filtw d a b, true, la == 0#4)
  | 3 => .ok (.ctxsave d a b, true, la == 0#4)
  | 4 => .ok (.ctxload d a b, true, la == 0#4)
  | 5 => .ok (.preempt d a, b == 0#5, la == 0#4)
  | 6 => .ok (.tsyncStatus d a b, true, la == 0#4)
  | _ => .error .illegalFunction

/-- The levels of the forms that have an LA field (R319, R179, R341, R366); every other form needs U. -/
def laNeed : Instr → Priv
  | .chmove _ _ _ => .s
  | .tlbwInstall _ _ _ => .s
  | .tlbinv _ _ => .s
  | .tlbinva _ => .s
  | .pgmig _ _ _ => .s
  | .ownq _ _ => .s
  | .stubq _ _ => .h
  | .rfc _ _ _ => .s
  | .fresume _ _ => .s
  | .actw _ _ _ => .h
  | .partwAssign _ _ _ => .h
  | .filtw _ _ _ => .h
  | .ctxsave _ _ _ => .h
  | .ctxload _ _ _ => .h
  | .preempt _ _ => .h
  | .tsyncStatus _ _ _ => .h
  | _ => .u

/-- The majors of the opcode map (R94). -/
def majorListed (m : Nat) : Bool :=
  m ≤ 0x18 && m != 0x01 && m != 0x07 && m != 0x11 || m == 0x1A || m == 0x1B || m == 0x1C || (0x20 ≤ m && m ≤ 0x24) ||
    m == 0x28 || m == 0x29 || m == 0x2A || m == 0x2C || m == 0x2D

/-- The LEN codes a major accepts (R94): three words for the X majors, one word or word and literal for the immediates,
one word otherwise. -/
def lenAccepted (m : Nat) (l : BitVec 2) : Bool :=
  if m == 0x06 || m == 0x18 || m == 0x22 || m == 0x23 || m == 0x28 || m == 0x29 || m == 0x2A then l == 1#2
  else if (0x0A ≤ m && m ≤ 0x0D) || m == 0x0F || m == 0x10 then l == 0#2 || l == 2#2
  else l == 0#2

/-- The family decoder of a listed major. -/
def decodeMajor (m : Nat) (w0 w1 w2 : IWord) (lit : Word) : Decoded :=
  let d := fD w0; let a := fA w0; let la := fLa w0
  match m with
  | 0x00 => decodeSys w0
  | 0x02 => .ok (.br (fld w0 0 24), true, true)
  | 0x03 => .ok (.call (fld w0 0 24), true, true)
  | 0x04 => .ok (.bc d (fld w0 15 4) (fld w0 0 15), true, true)
  | 0x05 => decodeJump w0
  | 0x06 => .ok (.safept (fld w0 16 8) (fld w0 8 8) w1 w2, zeroAt w0 0 8, true)
  | 0x08 => decodeInt w0
  | 0x09 => decodeDiv w0
  | 0x0E => decodeShift w0
  | 0x12 => .ok (.ld d a (fld w0 11 3) (fld w0 4 7) la, true, true)
  | 0x13 => .ok (.st d a (fld w0 11 3) (fld w0 4 7), true, la == 0#4)
  | 0x14 => .ok (.ldacq d a (fld w0 12 2) (fld w0 10 2) (fld w0 4 6), true, la == 0#4)
  | 0x15 => .ok (.strel d a (fld w0 12 2) (fld w0 10 2) (fld w0 4 6), true, la == 0#4)
  | 0x16 => .ok (.pref a (fld w0 11 3) (fld w0 4 7), d == 0#5, la == 0#4)
  | 0x17 => .ok (.fence (fld w0 7 2) (fld w0 5 2), zeroAt w0 9 15 && zeroAt w0 4 1, la == 0#4)
  | 0x18 => decodeAmo w0 w1 w2
  | 0x1A => decodeMsg w0
  | 0x1B => decodeLaunch w0
  | 0x1C => decodeSync w0
  | 0x20 => decodeValu w0
  | 0x21 => decodeVperm w0
  | 0x22 => decodeVcvt w0 w1 w2
  | 0x23 => decodeVmem w0 w1 w2
  | 0x24 => decodePred w0
  | 0x28 => decodeTile w0 w1 w2
  | 0x29 => decodeLook w0 w1 w2
  | 0x2A => decodeCopy w0 w1 w2
  | 0x2C => decodeXlat w0
  | 0x2D => decodePriv w0
  | _ => decodeImm w0 lit

/-- The last checks, in the order of R93: reserved-field, then lookahead-misuse. -/
def decodeFinish (x : Instr × Bool × Bool) : Except DecodeFault Instr :=
  if (x.2.1 && x.1.reservedOk) = false then .error .reservedField
  else if (x.2.2 && x.1.laOk) = false then .error (.lookaheadMisuse (laNeed x.1))
  else .ok x.1

/-- The decoder, on the words and the literal of an instruction. -/
def decodeWords (w0 w1 w2 : IWord) (lit : Word) : Except DecodeFault Instr :=
  let m := (fMaj w0).toNat
  if majorListed m = false then .error .illegalMajor
  else if lenAccepted m (fLen w0) = false then .error .badLength
  else
    match decodeMajor m w0 w1 w2 lit with
    | .error e => .error e
    | .ok x =>
      match decodeFinish x with
      | .error e => .error e
      | .ok i => if vmemZeros m w0 w1 then .ok i else .error (.reservedLate w1 w2)

/-- Four bytes, lowest address first (R2). -/
def word32At (l : List Byte) (n : Nat) : IWord :=
  l.getD (n + 3) 0 ++ l.getD (n + 2) 0 ++ l.getD (n + 1) 0 ++ l.getD n 0

/-- The instruction at the start of a list of bytes, with its length (R78). Missing bytes read as zero: a fetch always
supplies the whole line (R80). -/
def decode (l : List Byte) : Except DecodeFault (Instr × Nat) :=
  let w0 := word32At l 0
  let n := lenBytes (fLen w0)
  let lit : Word := if fLen w0 = 2 then word32At l 8 ++ word32At l 4 else word32At l 16 ++ word32At l 12
  match decodeWords w0 (word32At l 4) (word32At l 8) lit with
  | .error e => .error e
  | .ok i => .ok (i, n)

/-- `n` bytes of a number, lowest first. -/
def bytesLE : Nat → Nat → List Byte
  | 0, _ => []
  | n + 1, w => BitVec.ofNat 8 w :: bytesLE n (w / 256)

/-- The instruction whose first `nbits` bits are `w`, bit 0 the least significant bit of the first word, every further bit
zero. -/
def decodeTableWord (nbits w : Nat) : Option Instr :=
  match decode (bytesLE 20 (w % 2 ^ nbits)) with
  | .ok (i, _) => some i
  | .error _ => none

/-- The words of an encoding. -/
structure Enc where
  w0 : IWord
  w1 : IWord
  w2 : IWord
  lit : Word
deriving DecidableEq, Repr

/-- Word 0 in the R layout (R84). -/
def packR (len : BitVec 2) (maj : BitVec 6) (d a b fn : BitVec 5) (la : BitVec 4) : IWord :=
  len ++ maj ++ d ++ a ++ b ++ fn ++ la
/-- Word 0 in the I layout (R84). -/
def packI (len : BitVec 2) (maj : BitVec 6) (d a : BitVec 5) (imm : BitVec 10) (la : BitVec 4) : IWord :=
  len ++ maj ++ d ++ a ++ imm ++ la
/-- Word 0 in the M layout (R84). -/
def packM (maj : BitVec 6) (d a : BitVec 5) (ty : BitVec 3) (off : BitVec 7) (la : BitVec 4) : IWord :=
  0#2 ++ maj ++ d ++ a ++ ty ++ off ++ la
/-- Word 0 in the M' layout (R84). -/
def packM' (maj : BitVec 6) (d a : BitVec 5) (size scope : BitVec 2) (off : BitVec 6) : IWord :=
  0#2 ++ maj ++ d ++ a ++ size ++ scope ++ off ++ 0#4
/-- Word 0 in the V layout (R84). -/
def packV (maj : BitVec 6) (d a b : BitVec 5) (p : BitVec 3) (z : BitVec 1) (fn : BitVec 5) : IWord :=
  0#2 ++ maj ++ d ++ a ++ b ++ p ++ z ++ fn
/-- Word 1 of the AMO family (R147). -/
def packAmo1 (c : BitVec 5) (scope : BitVec 2) (size nr : BitVec 1) : IWord := c ++ scope ++ size ++ nr ++ 0#23
/-- Word 1 of the VCVT family (R273). -/
def packCvt1 (p : BitVec 3) (z : BitVec 1) (tag : BitVec 5) (rm : BitVec 2) (sl : BitVec 5) (bs : BitVec 2) (sat : BitVec 1) (ef : BitVec 5) : IWord :=
  p ++ z ++ tag ++ rm ++ sl ++ bs ++ sat ++ ef ++ 0#8
/-- Word 1 of the VMEM family (R265). -/
def packVmem1 (p : BitVec 3) (z : BitVec 1) (tag : BitVec 5) (scl : BitVec 2) : IWord := p ++ z ++ tag ++ scl ++ 0#21
/-- Word 1 of the TILE family (R285). -/
def packTile1 (c e fa fb : BitVec 5) (sc col bc : BitVec 1) : IWord := c ++ e ++ fa ++ fb ++ sc ++ col ++ bc ++ 0#9
/-- Word 1 of the LOOK family (R308). -/
def packLook1 (c fmt : BitVec 5) (mode pol : BitVec 1) (nt : BitVec 3) (sel : BitVec 1) : IWord :=
  c ++ fmt ++ mode ++ pol ++ nt ++ sel ++ 0#16
/-- Word 1 of the COPY family (R225). -/
def packCopy1 (c : BitVec 5) (x : CopyAttr) : IWord := c ++ x.strm ++ x.tge ++ x.tag ++ x.e ++ x.fence ++ 0#12
/-- A word whose low five bits are `q` (word 2 of TILE and LOOK commands). -/
def packQ (q : BitVec 5) : IWord := 0#27 ++ q
/-- Word 0 of a CSR form (R91). -/
def packCsr (r : BitVec 5) (fn : BitVec 5) (csr : BitVec 12) : IWord :=
  0#2 ++ 0#6 ++ r ++ csr.extractLsb' 2 10 ++ fn ++ csr.extractLsb' 0 2 ++ 0#2

/-- One word. -/
def enc1 (w0 : IWord) : Option Enc := some (Enc.mk w0 0 0 0)
/-- Three words. -/
def enc3 (w0 w1 w2 : IWord) : Option Enc := some (Enc.mk w0 w1 w2 0)
/-- A word and a literal. -/
def encL (w0 : IWord) (lit : Word) : Option Enc := some (Enc.mk w0 0 0 lit)

/-- The words of an instruction, from the encoding tables; none for an event. -/
def encode : Instr → Option Enc
  | .nop => enc1 (packR 0 0x00 0 0 0 0 0)
  | .done => enc1 (packR 0 0x00 0 0 0 1 0)
  | .pause => enc1 (packR 0 0x00 0 0 0 2 0)
  | .trap code => enc1 (0#2 ++ 0#6 ++ 0#5 ++ code ++ 3#5 ++ 0#4)
  | .brk code => enc1 (0#2 ++ 0#6 ++ 0#5 ++ code ++ 4#5 ++ 0#4)
  | .eret a => enc1 (packR 0 0x00 0 a 0 5 0)
  | .csrr r csr => enc1 (packCsr r 6 csr)
  | .csrw r csr => enc1 (packCsr r 7 csr)
  | .csrs r csr => enc1 (packCsr r 8 csr)
  | .csrc r csr => enc1 (packCsr r 9 csr)
  | .idle => enc1 (packR 0 0x00 0 0 0 10 0)
  | .ftrim v a t => enc1 (0#2 ++ 0#6 ++ v ++ a ++ t ++ 0#1 ++ 11#5 ++ 0#4)
  | .br off => enc1 (0#2 ++ 0x02#6 ++ off)
  | .call off => enc1 (0#2 ++ 0x03#6 ++ off)
  | .bc a cc off => enc1 (0#2 ++ 0x04#6 ++ a ++ cc ++ off)
  | .jr a => enc1 (packR 0 0x05 0 a 0 0 0)
  | .jal d a => enc1 (packR 0 0x05 d a 0 1 0)
  | .safept tmask lmask smask vmask => enc3 (1#2 ++ 0x06#6 ++ tmask ++ lmask ++ 0#8) smask vmask
  | .add d a b => enc1 (packR 0 0x08 d a b 0 0)
  | .sub d a b => enc1 (packR 0 0x08 d a b 1 0)
  | .and d a b => enc1 (packR 0 0x08 d a b 2 0)
  | .or d a b => enc1 (packR 0 0x08 d a b 3 0)
  | .xor d a b => enc1 (packR 0 0x08 d a b 4 0)
  | .andn d a b => enc1 (packR 0 0x08 d a b 5 0)
  | .shl d a b => enc1 (packR 0 0x08 d a b 6 0)
  | .shr d a b => enc1 (packR 0 0x08 d a b 7 0)
  | .sar d a b => enc1 (packR 0 0x08 d a b 8 0)
  | .ror d a b => enc1 (packR 0 0x08 d a b 9 0)
  | .mul d a b => enc1 (packR 0 0x08 d a b 10 0)
  | .mulh d a b => enc1 (packR 0 0x08 d a b 11 0)
  | .mulhn d a b => enc1 (packR 0 0x08 d a b 12 0)
  | .min d a b => enc1 (packR 0 0x08 d a b 13 0)
  | .max d a b => enc1 (packR 0 0x08 d a b 14 0)
  | .minn d a b => enc1 (packR 0 0x08 d a b 15 0)
  | .maxn d a b => enc1 (packR 0 0x08 d a b 16 0)
  | .slt d a b => enc1 (packR 0 0x08 d a b 17 0)
  | .sltn d a b => enc1 (packR 0 0x08 d a b 18 0)
  | .seq d a b => enc1 (packR 0 0x08 d a b 19 0)
  | .clz d a => enc1 (packR 0 0x08 d a 0 20 0)
  | .ctz d a => enc1 (packR 0 0x08 d a 0 21 0)
  | .popc d a => enc1 (packR 0 0x08 d a 0 22 0)
  | .bfx d a b => enc1 (packR 0 0x08 d a b 23 0)
  | .bfi d a b => enc1 (packR 0 0x08 d a b 24 0)
  | .div d a b la => enc1 (packR 0 0x09 d a b 0 la)
  | .divn d a b la => enc1 (packR 0 0x09 d a b 1 la)
  | .rem d a b la => enc1 (packR 0 0x09 d a b 2 la)
  | .remn d a b la => enc1 (packR 0 0x09 d a b 3 la)
  | .addi d a imm => enc1 (packI 0 0xa d a imm 0)
  | .addiLiteral d a lit => encL (packI 2 0xa d a 0 0) lit
  | .andi d a imm => enc1 (packI 0 0xb d a imm 0)
  | .andiLiteral d a lit => encL (packI 2 0xb d a 0 0) lit
  | .ori d a imm => enc1 (packI 0 0xc d a imm 0)
  | .oriLiteral d a lit => encL (packI 2 0xc d a 0 0) lit
  | .xori d a imm => enc1 (packI 0 0xd d a imm 0)
  | .xoriLiteral d a lit => encL (packI 2 0xd d a 0 0) lit
  | .shli d a amt => enc1 (0#2 ++ 0x0E#6 ++ d ++ a ++ 0#2 ++ 0#2 ++ amt ++ 0#4)
  | .shri d a amt => enc1 (0#2 ++ 0x0E#6 ++ d ++ a ++ 1#2 ++ 0#2 ++ amt ++ 0#4)
  | .sari d a amt => enc1 (0#2 ++ 0x0E#6 ++ d ++ a ++ 2#2 ++ 0#2 ++ amt ++ 0#4)
  | .li d imm => enc1 (packI 0 0x0F d 0 imm 0)
  | .liLiteral d lit => encL (packI 2 0x0F d 0 0 0) lit
  | .addpc d imm => enc1 (packI 0 0x10 d 0 imm 0)
  | .addpcLiteral d lit => encL (packI 2 0x10 d 0 0 0) lit
  | .ld d a ty off la => enc1 (packM 0x12 d a ty off la)
  | .st d a ty off => enc1 (packM 0x13 d a ty off 0)
  | .pref a ty off => enc1 (packM 0x16 0 a ty off 0)
  | .ldacq d a size scope off => enc1 (packM' 0x14 d a size scope off)
  | .strel d a size scope off => enc1 (packM' 0x15 d a size scope off)
  | .fence kind scope => enc1 (0#2 ++ 0x17#6 ++ 0#15 ++ kind ++ scope ++ 0#5)
  | .amoAdd d a b c scope size nr la => enc3 (packR 1 0x18 d a b 0 la) (packAmo1 c scope size nr) 0
  | .amoMin d a b c scope size nr la => enc3 (packR 1 0x18 d a b 1 la) (packAmo1 c scope size nr) 0
  | .amoMinn d a b c scope size nr la => enc3 (packR 1 0x18 d a b 2 la) (packAmo1 c scope size nr) 0
  | .amoMax d a b c scope size nr la => enc3 (packR 1 0x18 d a b 3 la) (packAmo1 c scope size nr) 0
  | .amoMaxn d a b c scope size nr la => enc3 (packR 1 0x18 d a b 4 la) (packAmo1 c scope size nr) 0
  | .amoAnd d a b c scope size nr la => enc3 (packR 1 0x18 d a b 5 la) (packAmo1 c scope size nr) 0
  | .amoOr d a b c scope size nr la => enc3 (packR 1 0x18 d a b 6 la) (packAmo1 c scope size nr) 0
  | .amoXor d a b c scope size nr la => enc3 (packR 1 0x18 d a b 7 la) (packAmo1 c scope size nr) 0
  | .amoExch d a b c scope size nr la => enc3 (packR 1 0x18 d a b 8 la) (packAmo1 c scope size nr) 0
  | .amoCas d a b c scope size nr la => enc3 (packR 1 0x18 d a b 9 la) (packAmo1 c scope size nr) 0
  | .amoFadd d a b c scope size nr la => enc3 (packR 1 0x18 d a b 10 la) (packAmo1 c scope size nr) 0
  | .amoFmin d a b c scope size nr la => enc3 (packR 1 0x18 d a b 11 la) (packAmo1 c scope size nr) 0
  | .amoFmax d a b c scope size nr la => enc3 (packR 1 0x18 d a b 12 la) (packAmo1 c scope size nr) 0
  | .amoIns d a b c scope size nr la => enc3 (packR 1 0x18 d a b 13 la) (packAmo1 c scope size nr) 0
  | .amoFfcs d a b c scope size nr la => enc3 (packR 1 0x18 d a b 14 la) (packAmo1 c scope size nr) 0
  | .amoPset d a b c scope size nr la => enc3 (packR 1 0x18 d a b 15 la) (packAmo1 c scope size nr) 0
  | .send a b => enc1 (packR 0 0x1a 0 a b 0 0)
  | .sendc a b => enc1 (packR 0 0x1a 0 a b 1 0)
  | .chnew d a => enc1 (packR 0 0x1a d a 0 2 0)
  | .chfree a => enc1 (packR 0 0x1a 0 a 0 3 0)
  | .chbind a b => enc1 (packR 0 0x1a 0 a b 4 0)
  | .patadd d a => enc1 (packR 0 0x1a d a 0 5 0)
  | .patdel a b => enc1 (packR 0 0x1a 0 a b 6 0)
  | .chstat d a => enc1 (packR 0 0x1a d a 0 7 0)
  | .chmove d a b => enc1 (packR 0 0x1a d a b 8 0)
  | .spawn d a => enc1 (packR 0 0x1b d a 0 0 0)
  | .gang d a => enc1 (packR 0 0x1b d a 0 1 0)
  | .jstat d a => enc1 (packR 0 0x1b d a 0 2 0)
  | .jcancel d a => enc1 (packR 0 0x1b d a 0 3 0)
  | .tnow d => enc1 (packR 0 0x1b d 0 0 4 0)
  | .tlwait k b => enc1 (packR 0 0x1c 0 k b 0 0)
  | .tlread d k sel => enc1 (packR 0 0x1c d k sel 1 0)
  | .waitany d a => enc1 (packR 0 0x1c d a 0 2 0)
  | .waitall a => enc1 (packR 0 0x1c 0 a 0 3 0)
  | .tagfirst d a => enc1 (packR 0 0x1c d a 0 4 0)
  | .tagclr a => enc1 (packR 0 0x1c 0 a 0 5 0)
  | .tagrd d sel => enc1 (packR 0 0x1c d 0 sel 6 0)
  | .vadd d a b p z => enc1 (packV 0x20 d a b p z 0)
  | .vsub d a b p z => enc1 (packV 0x20 d a b p z 1)
  | .vmul d a b p z => enc1 (packV 0x20 d a b p z 2)
  | .vfma d a b p z => enc1 (packV 0x20 d a b p z 3)
  | .vmin d a b p z => enc1 (packV 0x20 d a b p z 4)
  | .vmax d a b p z => enc1 (packV 0x20 d a b p z 5)
  | .vabs d a p z => enc1 (packV 0x20 d a 0 p z 6)
  | .vneg d a p z => enc1 (packV 0x20 d a 0 p z 7)
  | .vand d a b p z => enc1 (packV 0x20 d a b p z 8)
  | .vor d a b p z => enc1 (packV 0x20 d a b p z 9)
  | .vxor d a b p z => enc1 (packV 0x20 d a b p z 10)
  | .vshl d a b p z => enc1 (packV 0x20 d a b p z 11)
  | .vshr d a b p z => enc1 (packV 0x20 d a b p z 12)
  | .vceq d a b p z => enc1 (packV 0x20 d a b p z 13)
  | .vclt d a b p z => enc1 (packV 0x20 d a b p z 14)
  | .vcle d a b p z => enc1 (packV 0x20 d a b p z 15)
  | .vsel d a b p => enc1 (packV 0x20 d a b p 0 16)
  | .vdiv d a b p z => enc1 (packV 0x20 d a b p z 17)
  | .vrcp d a p z => enc1 (packV 0x20 d a 0 p z 18)
  | .vrsq d a p z => enc1 (packV 0x20 d a 0 p z 19)
  | .vexp2 d a p z => enc1 (packV 0x20 d a 0 p z 20)
  | .vdot d a b p z => enc1 (packV 0x20 d a b p z 21)
  | .vperm d a b p z => enc1 (packV 0x21 d a b p z 0)
  | .vbcast d a code p z => enc1 (packV 0x21 d a code p z 1)
  | .vredadd d a p => enc1 (packV 0x21 d a 0 p 0 2)
  | .vredmax d a p => enc1 (packV 0x21 d a 0 p 0 3)
  | .vredmin d a p => enc1 (packV 0x21 d a 0 p 0 4)
  | .vins d a b => enc1 (packV 0x21 d a b 0 0 5)
  | .vext d a b => enc1 (packV 0x21 d a b 0 0 6)
  | .vcvt d a p z tag rm sl sat => enc3 (packR 1 0x22 d a 0 0 0) (packCvt1 p z tag rm sl 0 sat 0) 0
  | .vtag d a tag => enc3 (packR 1 0x22 d a 0 1 0) (packCvt1 0 0 tag 0 0 0 0 0) 0
  | .vwid d a b p z sl bs => enc3 (packR 1 0x22 d a b 2 0) (packCvt1 p z 0 0 sl bs 0 0) 0
  | .vnar d a b p z tag sl bs => enc3 (packR 1 0x22 d a b 3 0) (packCvt1 p z tag 0 sl bs 0 0) 0
  | .vscl d a p tag sl bs ef => enc3 (packR 1 0x22 d a 0 4 0) (packCvt1 p 0 tag 0 sl bs 0 ef) 0
  | .vld d a p z tag off la => enc3 (packR 1 0x23 d a 0 0 la) (packVmem1 p z tag 0) off
  | .vst d a p off => enc3 (packR 1 0x23 d a 0 1 0) (packVmem1 p 0 0 0) off
  | .vgath d a b p z tag scl off la => enc3 (packR 1 0x23 d a b 2 la) (packVmem1 p z tag scl) off
  | .vscat d a b p scl off => enc3 (packR 1 0x23 d a b 3 0) (packVmem1 p 0 0 scl) off
  | .pand d a b => enc1 (packR 0 0x24 d a b 0 0)
  | .por d a b => enc1 (packR 0 0x24 d a b 1 0)
  | .pnot d a => enc1 (packR 0 0x24 d a 0 2 0)
  | .pcnt d a => enc1 (packR 0 0x24 d a 0 3 0)
  | .pfirst d a => enc1 (packR 0 0x24 d a 0 4 0)
  | .pset d a => enc1 (packR 0 0x24 d a 0 5 0)
  | .tmma d a b c e fa fb sc q => enc3 (packR 1 0x28 d a b 0 0) (packTile1 c e fa fb sc 0 0) (packQ q)
  | .tzero d fa q => enc3 (packR 1 0x28 d 0 0 1 0) (packTile1 0 0 fa 0 0 0 0) (packQ q)
  | .tst d a c fa sat q => enc3 (packR 1 0x28 d a 0 2 0) (packTile1 c 0 fa 0 sat 0 0) (packQ q)
  | .tscl d a col q => enc3 (packR 1 0x28 d a 0 3 0) (packTile1 0 0 0 0 0 col 0) (packQ q)
  | .tget d a b => enc3 (packR 1 0x28 d a b 4 0) 0 0
  | .tset d a b bc => enc3 (packR 1 0x28 d a b 5 0) (packTile1 0 0 0 0 0 0 bc) 0
  | .lbld d a b fmt mode pol q => enc3 (packR 1 0x29 d a b 0 0) (packLook1 0 fmt mode pol 0 0) (packQ q)
  | .lmm d a b c fmt nt q => enc3 (packR 1 0x29 d a b 1 0) (packLook1 c fmt 0 0 nt 0) (packQ q)
  | .linv d q => enc3 (packR 1 0x29 d 0 0 2 0) 0 (packQ q)
  | .lstat d b sel => enc3 (packR 1 0x29 d 0 b 3 0) (packLook1 0 0 0 0 0 sel) 0
  | .lrbld d q => enc3 (packR 1 0x29 d 0 0 4 0) 0 (packQ q)
  | .cp d a b c x => enc3 (packR 1 0x2A d a b 0 0) (packCopy1 c x) 0
  | .cp2d d a b c x => enc3 (packR 1 0x2A d a b 1 0) (packCopy1 c x) 0
  | .cp3d d a b c x => enc3 (packR 1 0x2A d a b 2 0) (packCopy1 c x) 0
  | .cpm d a b c x nm => enc3 (packR 1 0x2A d a b 3 0) (packCopy1 c x) (0#28 ++ nm)
  | .cpredK0 d a b c x op size => enc3 (packR 1 0x2A d a b 4 0) (packCopy1 c x) (0#25 ++ size ++ op ++ 0#2)
  | .cpredK1 d a x op size => enc3 (packR 1 0x2A d a 0 4 0) (packCopy1 0 x) (0#25 ++ size ++ op ++ 1#2)
  | .cpredK2 d a b c x op size => enc3 (packR 1 0x2A d a b 4 0) (packCopy1 c x) (0#25 ++ size ++ op ++ 2#2)
  | .cpredK3 d b x op size => enc3 (packR 1 0x2A d 0 b 4 0) (packCopy1 0 x) (0#25 ++ size ++ op ++ 3#2)
  | .cpfill d a b c x => enc3 (packR 1 0x2A d a b 5 0) (packCopy1 c x) 0
  | .cpsigIrq d a x => enc3 (packR 1 0x2A d a 0 6 0) (packCopy1 0 x) 0
  | .cpsigMsg d a b x => enc3 (packR 1 0x2A d a b 6 0) (packCopy1 0 x) 1
  | .cpcan d a strm => enc3 (packR 1 0x2A d a 0 7 0) (packCopy1 0 (CopyAttr.mk strm 0 0 0 0)) 0
  | .cpq d strm => enc3 (packR 1 0x2A d 0 0 8 0) (packCopy1 0 (CopyAttr.mk strm 0 0 0 0)) 0
  | .cpat d a b c x afn size => enc3 (packR 1 0x2A d a b 9 0) (packCopy1 c x) (0#27 ++ size ++ afn)
  | .tlbwInstall d a b => enc1 (packR 0 0x2c d a b 0 0)
  | .tlbwSetMissChannel d a b => enc1 (packR 0 0x2c d a b 0 0)
  | .tlbinv a b => enc1 (packR 0 0x2c 0 a b 1 0)
  | .tlbinva a => enc1 (packR 0 0x2c 0 a 0 2 0)
  | .pgmig d a b => enc1 (packR 0 0x2c d a b 3 0)
  | .ownq d a => enc1 (packR 0 0x2c d a 0 4 0)
  | .stubq d a => enc1 (packR 0 0x2c d a 0 5 0)
  | .rfc d a b => enc1 (packR 0 0x2c d a b 6 0)
  | .fresume d a => enc1 (packR 0 0x2c d a 0 7 0)
  | .actw d a b => enc1 (packR 0 0x2d d a b 0 0)
  | .partwAssign d a b => enc1 (packR 0 0x2d d a b 1 0)
  | .partwWithdraw d a b => enc1 (packR 0 0x2d d a b 1 0)
  | .partwSetWord d a b => enc1 (packR 0 0x2d d a b 1 0)
  | .filtw d a b => enc1 (packR 0 0x2d d a b 2 0)
  | .ctxsave d a b => enc1 (packR 0 0x2d d a b 3 0)
  | .ctxload d a b => enc1 (packR 0 0x2d d a b 4 0)
  | .preempt d a => enc1 (packR 0 0x2d d a 0 5 0)
  | .preemptHalt d a => enc1 (packR 0 0x2d d a 0 5 0)
  | .tsyncStatus d a b => enc1 (packR 0 0x2d d a b 6 0)
  | .tsyncSetReference d a b => enc1 (packR 0 0x2d d a b 6 0)
  | .tsyncSetTime d a b => enc1 (packR 0 0x2d d a b 6 0)
  | .icacheLineFill _ _ => none
  | .lookaheadOpenerComplete _ _ => none
  | .storeArrival _ => none
  | .atomicExecute _ => none
  | .runAheadEnd _ => none
  | .trapSlotGrant _ => none
  | .recordWriteRetry _ => none
  | .messageArrival _ => none
  | .matchDecision _ => none
  | .admission _ => none
  | .strandRelease _ => none
  | .ringRefill _ _ => none
  | .ringReadRetry _ _ => none
  | .forwardingEntryExpiry _ _ => none
  | .spilledRecordApply _ _ => none
  | .hostChannelSend _ _ _ => none
  | .hostBar4Read _ _ => none
  | .hostBar4Write _ _ => none
  | .doorbell _ _ => none
  | .mailboxRestart _ => none
  | .mailboxManagementRequest _ => none
  | .mailboxDebugHalt _ => none
  | .mailboxDeclareDead _ => none
  | .mailboxReadSensor _ => none
  | .jobStart _ => none
  | .chunkDeal _ _ => none
  | .launchItemOffer _ => none
  | .itemEnd _ => none
  | .gangMemberUnreachable _ _ => none
  | .partitionWordApply _ => none
  | .unitWithdrawal _ => none
  | .preemptForceTimeout _ => none
  | .strandSave _ => none
  | .strandRestore _ => none
  | .debugHalt _ => none
  | .timerExpiry _ => none
  | .idleTimeout _ => none
  | .pauseEnd _ => none
  | .tagWaitGrant _ => none
  | .fenceTicketGrant _ => none
  | .fenceTicketTimeout _ => none
  | .copyBlock _ _ _ _ _ => none
  | .copyComplete _ _ _ => none
  | .copyFaultTimeout _ _ _ => none
  | .cpsigSignal _ _ _ => none
  | .remoteTimeout _ _ _ => none
  | .dteStep _ => none
  | .dteComplete _ => none
  | .kuduStep _ => none
  | .kuduComplete _ => none
  | .tlbMissTimeout _ _ _ => none
  | .frozenPageTimeout _ => none
  | .ownerLookupTimeout _ => none
  | .stubHeldTimeout _ => none
  | .stubQuietExpiry _ => none
  | .linkDead _ => none
  | .messageRetransmit _ => none
  | .messageGiveUp _ => none
  | .remoteAtomicRetransmit _ _ => none
  | .pktRead _ => none
  | .pktWrite _ => none
  | .pktAtomic _ => none
  | .pktDirq _ => none
  | .pktMigrq _ => none
  | .pktInval _ => none
  | .pktData _ => none
  | .pktDone _ => none
  | .pktBounce _ => none
  | .pktDirans _ => none
  | .pktAck _ => none
  | .pktMack _ => none
  | .pktMsg _ => none
  | .pktGang _ => none
  | .pktGack _ => none
  | .pktMsync _ => none
  | .pktResv _ => none
  | .pktContrib _ => none
  | .pktRrel _ => none
  | .pktRans _ => none
  | .pktTime _ => none
  | .pktMgmt _ => none
  | .reductionTimeout _ => none
  | .timeExchange _ => none
  | .timeSyncLost => none
  | .sensorSample _ => none
  | .bubbleRatioUpdate _ _ => none
  | .machineCheck _ => none
  | .cxlReadTimeout _ => none
  | .powerOn _ => none
  | .bootRetry _ => none
  | .powerRemoval => none
  | .illegalMajor _ _ => none
  | .fetchFault _ _ => none
  | .mailboxRequestRefused _ => none

/-- The bytes of an encoding in the order of R2. -/
def Enc.bytes (e : Enc) : List Byte :=
  let b (w : IWord) := bytesLE 4 w.toNat
  if fLen e.w0 = 0 then b e.w0
  else if fLen e.w0 = 1 then b e.w0 ++ b e.w1 ++ b e.w2
  else if fLen e.w0 = 2 then b e.w0 ++ bytesLE 8 e.lit.toNat
  else b e.w0 ++ b e.w1 ++ b e.w2 ++ bytesLE 8 e.lit.toNat

/-- The length of an instruction in bytes (R78). -/
def Instr.len (i : Instr) : Nat :=
  match encode i with
  | some e => lenBytes (fLen e.w0)
  | none => 0

/-- Word 0 of an instruction (0 for an event). -/
def Instr.word0 (i : Instr) : IWord :=
  match encode i with
  | some e => e.w0
  | none => 0

end Sys2Proof
end

