-- ==== Sys2Proof/Config.lean ====
section
/-! DEFINITION. What an implementation fixes and the spec leaves open: free values without a body. Nothing in Lean can
evaluate them, so every statement about them holds whatever they are. -/

namespace Sys2Proof

/-- Contents of a vector register at admission (R16: undefined), by a counter of State. Log 4. -/
opaque Config.freeVector : Nat → Line
/-- Contents of an accumulator tile at admission (R16: undefined), by a counter of State. Log 4. -/
opaque Config.freeTile : Nat → TileBits
/-- Contents of a table slot whose build failed (R302: undefined) or that was never built, by a counter. Log 4. -/
opaque Config.freeTable : Nat → TileBits
/-- A byte of scratchpad that a resize leaves undefined (R200), by a counter and its offset. Log 4. -/
opaque Config.freeSpadByte : Nat → Nat → Byte
/-- The anti-rollback fuses' value F, 0 to 63, as the part was made (R396). Log 5. -/
opaque Config.fuses : BitVec 6
/-- The fused SHA-384 of RSAPK and of SLHPK (R395). Log 5. -/
opaque Config.rsaFuse : BitVec 384
/-- See `Config.rsaFuse`. Log 5. -/
opaque Config.slhFuse : BitVec 384
/-- The address at which the accepted firmware body is entered (R393 stage 7; the manual gives none). Log 5. -/
opaque Config.firmwareEntry : Word
/-- The result of `vexp2` where the model's enclosure of 2^A does not decide the rounding (R258), by format code,
rounding mode and operand bits. Log 6. -/
opaque Config.exp2Undecided : Nat → Nat → Nat → Nat

/-- The cluster in which a die's thermal sensor lies (R402; the manual gives no map), taken modulo 10. Log 19. -/
opaque Config.sensorCluster : Nat → Nat

/-- A doubleword that the spec leaves open, by a counter: the send time and sender of a COUNT message that no `sendc`
preceded (R163). Log 15. -/
opaque Config.freeWord : Nat → Word
/-- The answer of another package's JMU to a management instruction (R180), which no packet format carries, by a counter.
Log 16. -/
opaque Config.remoteAnswer : Nat → Word

/-- Entries that the directory region, which management reserves, has room for (R359). Log 60. -/
opaque Config.directoryMax : Nat
/-- The page frame, in units of 64 KiB, at which the firmware keeps a unit of a GPN that this package owns and that no TLB entry
seen so far maps (R349, R361), by the GPN. Log 8. -/
opaque Config.pageFrame : Nat → Nat

/-- A page of which the package has neither a record nor an entry reaches beyond this unit of it (R349, R378). Log 77. -/
opaque Config.samePage : Nat → Bool

/-- The value below the poison of a scalar register that run-ahead writes fully poisoned (R140), by the strand's uid, the
cycle and the register. Log 13. -/
opaque Config.poisonWord : Nat → Nat → Nat → Word
/-- The same of a vector register. Log 13. -/
opaque Config.poisonLine : Nat → Nat → Nat → Line

end Sys2Proof
end

