-- ==== Sys2Proof/Machine/State.lean ====
section
/-! DEFINITION. The state of one Jorquel package as plain data: everything the spec gives the machine, and the model's
own fields (agenda, turn, cur, uid, free), which no rule names. INVENTORY.md lists each piece with its rule. -/

namespace Sys2Proof.Machine

/-- Why the machine stops. -/
inductive Fault where
  /-- `exec` of a strand's instruction while `cur` names no strand. Raised by every strand instruction; `step` never
  raises it, because it issues only live strands. Safe: the spec has no such event. -/
  | noStrand
  /-- An access to a page-frame address that R129 and R392 give no memory (outside the stacks' 384 GiB and the capacity
  tier's 4 TiB). Raised by core accesses whose TLB entry holds such a frame. Safe: the spec says no memory is there. -/
  | noFrame (pa : Nat)
deriving DecidableEq, Repr

/-- Why an instruction has no meaning here. -/
inductive Refusal where
  /-- Not modelled yet, by mnemonic. Raised by an arm of `exec` only. Safe. -/
  | notModelled (mnemonic : String)
deriving DecidableEq, Repr

/-- Byte-addressed storage: sorted, no repeats, no listed zero byte (an unlisted byte reads 0, log 2). -/
abbrev Mem := List Host.Cell

/-- A set of line or word numbers, strictly rising. -/
abbrev NatSet := List Nat

/-- Where an access lands: a byte of a core's scratchpad (R123) or of the page-frame space (R129). -/
inductive Loc where
  | spad (c : CoreId) (off : Nat)
  | mem (pa : Nat)
deriving DecidableEq, Repr

/-- An entry of a TLB (R352). `vpage` is VA[55:16]. -/
structure TlbEntry where
  dom : Nat
  vpage : Nat
  size : Nat
  gpn : Nat
  pin : Bool
  loc : Nat
  priv : Nat
  x : Bool
  w : Bool
  r : Bool
  frame : Nat
deriving DecidableEq, Repr

/-- A line held by an L1 data cache or a cluster cache (R130, R131): contents, poison, cycle of its fill (R240). -/
structure CLine where
  data : Line
  pois : Bool
  fill : Nat
  /-- The next read of the copy finds a check value that does not match (R389). -/
  bad : Bool := false
deriving DecidableEq, Repr

/-- A vector register (R33, R339): bits, tag, one poison bit per 64-bit segment. -/
structure VReg where
  bits : Line
  tag : BitVec 5
  pois : BitVec 8
deriving DecidableEq, Repr

/-- An accumulator tile (R35): elements, tag f32 or i32, sticky bit. -/
structure Tile where
  bits : TileBits
  f32 : Bool
  sticky : Bool
deriving DecidableEq, Repr

/-- Validity of a table slot (R302). -/
inductive TabState where
  | unbuilt | valid | written | restored | cleared | failed
deriving DecidableEq, Repr

/-- A table slot (R298–R304): its build record, validity and rebuild count, and the activations it was built from. -/
structure Table where
  recd : Bool
  src : Word
  stride : Word
  pol : Bool
  mode : Bool
  afmt : BitVec 5
  st : TabState
  rebuilds : Nat
  acts : TileBits
deriving DecidableEq, Repr

/-- The register state that a checkpoint of R139 keeps. -/
structure Regs where
  s : Vector Word 32
  spois : BitVec 32
  p : Vector Word 8
  fctl : Word
  v : List VReg
deriving DecidableEq, Repr

/-- Work an opener finishes when it completes (R97, R99). -/
inductive OpenerWork where
  /-- A division: the value and poison of its result, and the cycle in which it is written (R107). -/
  | div (x : Word) (pois : Bool) (due : Nat)
  /-- A load of `n` bytes at a place, sign-extended or not. -/
  | ld (loc : Loc) (va : Word) (n : Nat) (sext : Bool)
  /-- A returning atomic (R147). -/
  | amo (loc : Loc) (va : Word) (fn : Nat) (wide : Bool) (scope : Nat) (b c : Word)
  /-- A vector load or gather: per element its place (none for an inactive element), the element width in bytes, the
  tag, and the bits and poison below inactive elements. -/
  | vld (els : List (Option (Loc × Word))) (eb : Nat) (tag : BitVec 5) (old : VReg)
deriving DecidableEq, Repr

/-- An outstanding opener (R96–R99): pending destination, instructions its window still admits, whether the window
is open. -/
structure Opener where
  id : Nat
  pc : Word
  dest : Option (Bool × Nat)
  left : Nat
  isOpen : Bool
  /-- The first younger posted write of the strand: writes at or above it may land later only where they overlap (R132). -/
  seq : Nat
  /-- The fence floor in force at its issue (R245). -/
  floor : Nat
  work : OpenerWork
  /-- The same at core or cluster scope (R239). -/
  floorC : Nat := 0
deriving DecidableEq, Repr

/-- A page collected by run-ahead (R139–R141): VA[55:16], cause, write intent, fetch. -/
structure PageRec where
  vunit : Nat
  cause : Cause
  w : Bool
  x : Bool
deriving DecidableEq, Repr

/-- Shadow mode (R139–R141). -/
structure Shadow where
  saved : Regs
  iaddr : Word
  pages : List PageRec
  issued : Nat
deriving DecidableEq, Repr

/-- What a strand that is not ready waits for (R103). -/
inductive Wait where
  /-- Outstanding openers (R97–R99, R245). -/
  | openers
  /-- A place among the 32 outstanding stores (R132). -/
  | stores
  /-- A place among the 16 unaccepted messages (R181). -/
  | sends
  /-- A translation miss of the 64 KiB unit with this token (R354). -/
  | miss (token : BitVec 32)
  /-- The end of `pause` (R116). -/
  | pause (till : Nat)
  /-- An event of `idle`, or its end (R330); an event of the core sets the end to 0. -/
  | idle (till : Nat)
  /-- A full queue (R210, R282, R306): a copy stream 0 to 3, 4 of the DTE, 5 of Kudu. -/
  | queue (k : Nat)
  /-- The strand's DTE commands that name one of these tiles and Kudu commands that name one of these table slots (R284,
  R307); with `trim`, of an `ftrim`, Kudu commands that name one of the tiles too (R119). -/
  | engine (ts ls : List Nat) (trim : Bool)
  /-- `tlwait` (R236). -/
  | timeline (k : Nat) (n : Nat)
  /-- `waitany` or `waitall` with its fields D and A, its mask and the cycle since which it waits (R216, R237). -/
  | tags (any : Bool) (d a : BitVec 5) (mask : Word) (since : Nat)
  /-- The accesses before a fence or another release, at the point of a scope (R239, R245). -/
  | fence (scope : Nat)
  /-- The strand's own earlier writes and openers, among them one on the bytes of this access (R132, R149). -/
  | writes
  /-- A fence ticket, requested at a Cysyn time (R241). -/
  | ticket (scope : Nat) (at_ : Nat)
  /-- A free job table entry, with the form, D and A of the instruction, the card that it has read and checked, and the members of
  a gang (R205). -/
  | job (gang : Bool) (d a : BitVec 5) (card : List Word) (ids : List Nat)
  /-- The answer to a request (R333): the migration, directory or remote answer of a GPN. -/
  | answer (gpn : Nat)
  /-- A partition change to finish (R343, R345). -/
  | partition
deriving DecidableEq, Repr

/-- A trap that has been raised and not yet recorded (R323–R325). -/
structure TrapReq where
  cause : Cause
  detail : Word
  daddr : Word
  iaddr : Word
  pc : Word
  word0 : BitVec 32
  time : Nat
  /-- Counted in lostrep already (R325, R407); next attempt after a failed record access (R407). -/
  counted : Bool
  retryAt : Option Nat
deriving DecidableEq, Repr

/-- Where a strand stands (R17, R103, R139–R142, R323–R325). -/
inductive Status where
  | ready
  | waiting (w : Wait)
  /-- A trap raised; it waits for openers, then for a record slot. -/
  | trapping (t : TrapReq)
  /-- Run-ahead over, record not yet written (R141, R407). -/
  | faulting (pages : List PageRec) (iaddr : Word) (counted : Bool) (retryAt : Option Nat)
  /-- Suspended on a trap with its record's handle. -/
  | suspended (rech : Word)
  /-- Asleep after run-ahead with its record's handle. -/
  | asleep (rech : Word)
  /-- `done` executed; its frame is held while engine commands name it. -/
  | ended
  /-- Stopped for a `ctxsave`, with its image (R345 step 3). -/
  | saved (img : List Byte)
deriving DecidableEq, Repr

/-- How far an instruction that waits for an answer has come (R333). -/
inductive Phase where
  /-- `tlbinv`, `tlbinva`: the entries are removed, and the accesses begun before this number are waited for (R368). -/
  | removed (n : Nat)
  /-- `pgmig`: the migration runs, or has given this result (R369). -/
  | pulling (d : Option Word)
  /-- `ownq`: the home directory was asked for the owner of this page, or has named it (R370). -/
  | asked (g : Nat) (owner : Option Nat)
  /-- `partw` OP 2: the words are posted (R343). -/
  | posted
  /-- `chnew`: the entry at this index, as it was read, is being claimed for a channel of this descriptor at a home (R182). -/
  | claiming (idx : Nat) (entry : Word) (pkg : Nat) (home : CoreId) (desc : List Word)
deriving DecidableEq, Repr

/-- How a strand came to be (R21): the pattern, by index and the number of its installation, or the launch item it serves. -/
inductive Origin where
  | pattern (idx key : Nat)
  | item (job gen index : Nat)
deriving DecidableEq, Repr

/-- What a pre-emption request comes from (R332). -/
inductive SaveKind where
  | preempt | withdraw | context
deriving DecidableEq, Repr

/-- A strand (R13, R16, R19). -/
structure Strand where
  uid : Nat
  dom : Nat
  priv : Priv
  pc : Word
  /-- The transferring instruction and its word 0, when the next fetch is a target (R81); `(none)` beside `target` true
  for an entry. -/
  target : Bool
  from_ : Option (Word × BitVec 32)
  r : Regs
  tiles : List Tile
  tabs : List Table
  status : Status
  since : Nat
  readyAt : Nat
  prio : Nat
  kind : Nat
  pat : Nat
  entry : Word
  sbase : BitVec 32
  sstride : BitVec 32
  serial : Bool
  path : Word
  origin : Origin
  openers : List Opener
  shadow : Option Shadow
  /-- Writes at or above this sequence wait for every earlier access at package scope (fence.rel, R245). -/
  floor : Nat
  /-- The same at core or cluster scope: earlier accesses have reached the cluster cache (R239). -/
  floorC : Nat := 0
  /-- Single step after the next instruction (R331), breakpoints skipped for it. -/
  step1 : Bool
  skipBp : Bool
  /-- Pre-emption request with its time and origin (R332), and halt request (R340). -/
  preq : Option (Nat × SaveKind)
  halt : Bool
  /-- The next access to this 64 KiB unit is answered absent (R354). -/
  absent : List Nat
  /-- A fence ticket granted, or timed out (R241). -/
  ticket : Option Bool
  /-- A save that waits for room has been logged (R335). -/
  noted : Bool
  /-- How far an instruction that waits for an answer has come (R333). -/
  phase : Option Phase
  /-- Registers written by the vector/engine pipe and not readable yet (R100, R257): class (0 scalar, 1 predicate,
  2 vector), number, cycle. -/
  lat : List ((Nat × Nat) × Nat) := []
  /-- An instruction has issued and waits, so the strand is at no instruction boundary (R244, R333, R340). -/
  inside : Bool := false
  /-- A request found the strand inside an instruction that has now ended: it is saved before it issues again (R333). -/
  saveNow : Bool := false
  /-- Its save waits for the step under way: no engine command of it begins another step (R297, R318). -/
  stopping : Bool := false
deriving DecidableEq, Repr

/-- A posted write's effect (R137, R147). -/
inductive PWork where
  /-- Bytes at successive addresses with poison; `none` is not written. -/
  | store (bytes : List (Option (Byte × Bool)))
  /-- An atomic that returns nothing (R147). -/
  | atomic (fn : Nat) (wide : Bool) (scope : Nat) (b c : Word)
deriving DecidableEq, Repr

/-- A posted write (R132, R137, R149): its owner strand, the group it counts in, the writes it must follow, its place. -/
structure PWrite where
  seq : Nat
  grp : Nat
  ref : StrandRef
  uid : Nat
  /-- The owner's accesses below this sequence are done at package scope first (R245, R248). -/
  floor : Nat
  iaddr : Word
  va : Word
  loc : Loc
  work : PWork
  /-- The same at core or cluster scope (R239). -/
  floorC : Nat := 0
  /-- The order in which the store passed the cluster cache (R131, R239); 0 while it has not. -/
  passed : Nat := 0
deriving DecidableEq, Repr

/-- An atomic that has read its word and not yet written it (R145). -/
inductive SeenBy where
  /-- A posted or outstanding atomic, by its number. -/
  | own (id : Nat)
  /-- A returning atomic with LA 0 that a strand issues next. -/
  | next (uid : Nat)
  /-- A word of a copy command (`cpat`, `cpred` kind 0). -/
  | copy (c : CoreId) (strm num : Nat)
  /-- A remote atomic: its source and request id (R151). -/
  | remote (src : Word) (rid : Nat)
deriving DecidableEq, Repr

/-- The word that an atomic at a CAU or an HAU has read and not yet written (R145): the atomic, its unit (die and cluster,
or 4 and 0 for the HAU), its place and width, the value and its poison. -/
structure Seen where
  id : SeenBy
  unit : Nat × Nat
  loc : Loc
  wide : Bool
  old : Nat
  pois : Bool := false
deriving DecidableEq, Repr

/-- A message or record of a message (R165, R181). -/
structure Msg where
  payload : BitVec 256
  stime : Nat
  sender : Word
  handle : Word
  sc : Bool
  seq : Nat
  /-- Delivered poisoned: a line of it was damaged on the fabric (R381). -/
  pois : Bool := false
deriving DecidableEq, Repr

/-- A message posted and not yet placed (R173, R174). -/
structure Flight where
  id : Nat
  /-- The sending strand's uid, 0 for a device. -/
  uid : Nat
  m : Msg
  /-- The domain that sends (its report channel takes failures), `rep` when the message is itself a report, a trap
  message or an announcement. -/
  dom : Nat
  rep : Bool
  /-- Where it is routed next: none while it has not left the sender. -/
  at_ : Option CoreId
  /-- The strand's writes below this sequence land first (R245). -/
  floor : Nat
  /-- The core that posts it: a compute core or Markhor sends through its die's home cache (R159), hub cores, Duiker and, with
  Duiker's place, Eland and the host send through Eland (R155, R158). -/
  src : CoreId
  /-- Passed Eland's filter, or a device's message (R177, log 69). -/
  passed : Bool
  /-- The handle that the original send named, when a relay has forwarded it (R164, R166). -/
  named : Option Word
  /-- The cycle in which it reached the place where it waits (R155). -/
  reach : Nat := 0
deriving DecidableEq, Repr

/-- A channel at its home (R160–R164, R175, R176). -/
structure Chan where
  handle : Word
  count : Bool
  relay : Bool
  scope : Nat
  slots : Nat
  ringlog : Nat
  ring : Word
  held : List Msg
  head : Nat
  nring : Nat
  counter : Int
  reload : Nat
  arrivals : Nat
  /-- Sequence of a COUNT channel's present message. -/
  present : Option Nat
  lastTime : Nat
  lastSender : Word
  target : Word
  cpriv : Priv
  regions : List (Word × Word)
  spilled : Bool
  /-- A ring read failed and is retried from this time (R162). -/
  retry : Option Nat
deriving DecidableEq, Repr

/-- An installed pattern (R168, R172). -/
structure Pat where
  idx : Nat
  prio : Nat
  serial : Bool
  priv : Priv
  v : Nat
  a : Nat
  t : Nat
  body : Word
  sbase : BitVec 32
  sstride : BitVec 32
  chans : List Word
  live : Bool
  /-- The number of its installation: what a strand serves outlives a `patdel` and a `patadd` at one index (R172). -/
  key : Nat := 0
deriving DecidableEq, Repr

/-- What awaits admission (R15, R171, R193, R335). -/
inductive FireWhat where
  | pattern (p : Pat) (msgs : List Msg) (regions : List (Nat × List (Word × Word)))
  | item (job gen index base : Nat)
  /-- A saved strand whose image lies at an address of the domain's imgarea, slot number. -/
  | image (slot : Nat) (addr : Word) (dom : Nat)
deriving DecidableEq, Repr

/-- A decided firing (R15). -/
structure Firing where
  what : FireWhat
  prio : Nat
  dtime : Nat
  ord : Nat
deriving DecidableEq, Repr

/-- A forwarding entry of a moved channel (R175). -/
structure Fwd where
  handle : Word
  home : CoreId
  until_ : Nat
  /-- Another package to which the channel has moved. -/
  pkg : Option Nat := none
deriving DecidableEq, Repr

/-- A join match unit (R155). -/
structure Jmu where
  seq : Nat
  chans : List Chan
  pats : List Pat
  queue : List Firing
  fwds : List Fwd
  /-- The first cycle in which it accepts an arrival again (R155). -/
  acceptAt : Nat := 0
  /-- The first cycle in which it decides again (R14, R155). -/
  decideAt : Nat := 0
deriving DecidableEq, Repr

/-- A timeline (R210, R213): posted count, value, commands completed ahead with their success, error status. -/
structure Timeline where
  posted : Nat
  value : Nat
  ahead : List (Nat × Bool)
  err : Bool
  first : Nat
deriving DecidableEq, Repr

/-- Who issued an engine command (R217, R406). -/
structure Issuer where
  uid : Nat
  sid : Word
  dom : Nat
  priv : Priv
  iaddr : Word
  floor : Nat
deriving DecidableEq, Repr

/-- An answer received for a piece of a block (R218): read data, or a completion, with bytes and poison. -/
structure Got where
  member : Nat
  block : Nat
  piece : Nat
  data : Bool
  bytes : List (Byte × Bool)
deriving DecidableEq, Repr

/-- A command paused by a fault (R220): the block, the time, the page's address, a write, and the handle of its record:
0 not yet tried, 1 counted and without a slot. -/
structure Pause where
  member : Nat
  block : Nat
  since : Nat
  va : Word
  w : Bool
  handle : Word
  /-- The next attempt after a failed record access (R407). -/
  retryAt : Option Nat := none
deriving DecidableEq, Repr

/-- A copy command (R210–R220, R228–R232). -/
structure Copy where
  strm : Nat
  num : Nat
  fn : Nat
  tag : Option Nat
  recAddr : Word
  /-- A record register was named (R217), whatever address it held. -/
  hasRec : Bool := false
  fence : Bool
  engine : Nat
  a : Word
  b : Word
  c : Word
  w : Nat
  h : Nat
  pl : Nat
  srs : Word
  drs : Word
  sps : Word
  dps : Word
  members : List Word
  /-- `cpred` KIND, `cpsig` SK. -/
  kind : Nat
  op : Nat
  wide : Bool
  payload : BitVec 256
  who : Issuer
  issue : Nat
  start : Nat
  bytes : Nat
  done : List (Nat × Nat)
  fails : List (Nat × Nat × Cause)
  paused : Option Pause
  cancelled : Bool
  result : Word
  /-- What other packages have answered. -/
  got : List Got
  /-- The source of a `cpm`, read once (R229): the parts read, by 4 KiB page, and the bytes of the part whose lines met an error. -/
  src : List (Nat × List (Byte × Bool) × List Nat) := []
deriving DecidableEq, Repr

/-- A DTE or Kudu command (R282, R306, R336). -/
structure EngCmd where
  w0 : BitVec 32
  w1 : BitVec 32
  w2 : BitVec 32
  a : Word
  b : Word
  c : Word
  e : Word
  scl : BitVec 1024
  num : Nat
  step : Nat
  slot : Nat
  who : Issuer
  /-- A write reached the source since the issue of an `lbld`, or since the start of the rebuild under way (R304). -/
  hit : Bool
  /-- The rebuild under way (R304, R305): the slot and the contents read. -/
  build : Option (Nat × TileBits)
  /-- Cycles, bubbles apart, that its step under way still takes (R290, R305, R313, R404). -/
  left : Nat := 0
  /-- Tables that the boundary of its next step has found valid (R312). -/
  checked : List Nat := []
deriving DecidableEq, Repr

/-- Room that a strand of a core has given up: the cycle, its slot (none where it keeps it) and registers, tiles and tables; it
is offered from the next cycle (R17, R119). -/
structure Freed where
  cycle : Nat
  slot : Option Nat
  v : Nat
  a : Nat
  t : Nat
deriving DecidableEq, Repr

/-- A chunk of a job held by a core (R192). -/
structure Chunk where
  job : Nat
  gen : Nat
  base : Nat
  /-- Items not yet offered, as ranges [lo, hi). -/
  items : List (Nat × Nat)
deriving DecidableEq, Repr

/-- A core (R9, R11, R155, R199). -/
structure Core where
  dom : Option Nat
  failed : Bool
  pword : BitVec 32
  pendWord : Option (BitVec 32)
  /-- The cycle in which a new word applies (R124, R200). -/
  wordCycle : Option Nat
  /-- Being withdrawn (R201) or saved (R345). -/
  leaving : Bool
  spad : Mem
  spadPois : NatSet
  /-- Scratchpad words whose next read meets an error, true for a check value mismatch (R135, R389). -/
  spadBad : List (Nat × Bool)
  dirty : NatSet
  strands : List (Nat × Strand)
  jmu : Jmu
  tagR : BitVec 64
  tagA : BitVec 64
  tls : Vector Timeline 6
  copies : List Copy
  /-- The engines' queues of 16 (R282, R306); behind them, in order, re-posted commands of a core image for which there is no
  place yet (R297): every strand's new command waits for those. -/
  dteq : List EngCmd
  kuduq : List EngCmd
  /-- Writes of this cycle into watched blocks of a strand's table slot: (uid, slot) and the cycle (R304). -/
  tabHits : List ((Nat × Nat) × Nat)
  l1 : List (Nat × CLine)
  icache : List (Nat × Line)
  tlb : List TlbEntry
  own : List TlbEntry
  acq : Nat
  launchq : List Chunk
  bubble : Nat
  /-- The first cycle in which the vector/engine pipe is free again (R257). -/
  pipeFree : Nat := 0
  /-- The first cycle in which the send unit accepts a message again (R181). -/
  sendAt : Nat := 0
  /-- The microsecond in which the bubble ratio was last set, plus one; 0 before (R403). -/
  bubbleSet : Nat := 0
  /-- A guard cycle is due: it fell on a bubble, or its strand's pipe is occupied (R104, R105, R404). -/
  guardDue : Bool := false
  /-- The cycle of the latest acquire limited to regions, by line of the cluster cache (R176, R239, R240). -/
  regAcq : List (Nat × Nat) := []
  /-- Room freed in the latest cycle that freed any (R17, R119). -/
  freed : List Freed := []
deriving DecidableEq, Repr

/-- An outstanding miss (R354). -/
structure Miss where
  token : BitVec 32
  dom : Nat
  vunit : Nat
  time : Nat
  /-- The device and engine requesters that wait too. -/
  devs : List Nat
deriving DecidableEq, Repr

/-- A cluster (R131, R209, R350, R354). -/
structure Cluster where
  cc : List (Nat × CLine)
  tlb : List TlbEntry
  misses : List Miss
  missch : Word
  /-- L1 TLBs of the two copy engines (R350). -/
  engTlb : List (Nat × TlbEntry)
  /-- Units whose next access by a device or engine requester is answered absent: domain, unit, requester (R354). -/
  absent : List (Nat × Nat × Nat)
deriving DecidableEq, Repr

/-- A compute die (R159, R350, R354). -/
structure Die where
  llt : List TlbEntry
  homeCache : List (Word × Word)
  tokens : Nat
  /-- Requests for chunks to its launch unit, in the order made: job, generation, core (R192). -/
  asks : List (Nat × Nat × CoreId) := []
  /-- The first cycle in which its launch unit serves a request again (R192). -/
  dealAt : Nat := 0
deriving DecidableEq, Repr

/-- What a saved strand serves (R201, R336): its identity at the save, the address of its image, or of the core image that holds
it, its number, the channel of its SERIAL pattern, what it was stopped on where the image does not name it (a fault record, or a
trap or fault without a record yet), and the numbers of its incomplete commands, true for Kudu (R297). -/
structure SavedStrand where
  sid : Word
  key : Nat
  uid : Nat
  origin : Origin
  path : Word
  stopped : Option Status := none
  nums : List (Bool × Nat) := []
deriving DecidableEq, Repr

/-- The CSRs of one domain (R320) and what stands beside them. -/
structure Dom where
  chtab : Word
  trapch : Word
  repch : Word
  replog : Word
  pagerch : Word
  lostrep : Word
  trarea : Word
  imgarea : Word
  roothub : Word
  tmcmp : Word
  repseq : Word
  bkpt : Vector Word 4
  wpt : Vector Word 2
  /-- The trap slot last taken (R325). -/
  lastSlot : Option Nat
  /-- The next log entry (R166). -/
  logPos : Nat
  /-- Image slots reserved by `preempt` or holding an image. -/
  imgUsed : List Nat
  imgReserved : Nat
  /-- Slots kept by traps whose record write failed (R407): the key of the trap (a strand's uid) and the slot's address, which a
  later write of trarea does not change (R322). -/
  kept : List (Nat × Nat)
  /-- Keys of the traps and faults that wait for a slot, in the order in which they arose (R325). -/
  recq : List Nat := []
  /-- Handles of the records that are pending (R322). -/
  recs : List Word := []
  /-- The hint of `chnew` (R182). -/
  hint : Nat
  /-- Saved strands whose trap record `eret` has closed (R331), with the record and the `eret` and its word 0 (R81),
  and whose fault record `fresume` has closed, with the `fresume`. -/
  resumed : List (Word × List Byte × Option (Word × BitVec 32))
  awake : List (Word × Option (Word × BitVec 32))
  /-- Strands saved for a withdrawal, waiting for a core with room (R201). -/
  parked : List Firing
  /-- Saved strands and what they serve (R201, R336). -/
  origins : List SavedStrand
deriving DecidableEq, Repr

/-- What a job is waiting for or doing (R192, R196, R206). -/
inductive JobState where
  | held | dealing | complete
deriving DecidableEq, Repr

/-- A gang member's record at the issuing package (R197). -/
structure Member where
  pkg : Nat
  acked : Bool
  done : Bool
  sent : Nat
  ended : Nat
deriving DecidableEq, Repr

/-- An item's strand that has ended (R194): its uid, its core, and the first number after its accesses. -/
structure Ending where
  uid : Nat
  core : CoreId
  floor : Nat
deriving DecidableEq, Repr

/-- A job table entry (R189–R203). -/
structure Job where
  gen : Nat
  dom : Nat
  st : JobState
  prio : Nat
  priv : Priv
  v : Nat
  a : Nat
  t : Nat
  body : Word
  sbase : BitVec 32
  sstride : BitVec 32
  args : Word
  astride : Nat
  count : Nat
  clmask : BitVec 40
  cmask : BitVec 16
  donech : Word
  /-- AFTER: the core, the timeline and the value (R196). -/
  after : Option (CoreId × Nat × Nat)
  start : Nat
  ranges : List (Nat × Nat)
  /-- Undealt index ranges [lo, hi), ascending. -/
  undealt : List (Nat × Nat)
  dealer : Option Nat
  ended : Nat
  never : Nat
  outstanding : Nat
  cause : Cause
  late : Nat
  issuer : Word
  issued : Nat
  /-- Start order (R372). -/
  order : Nat
  /-- Gang at the issuing package. -/
  gang : Option (List Member)
  /-- The gang card's bytes. -/
  card : List Byte
  /-- A gang member's issuing package and the gang's handle there. -/
  parent : Option (Nat × Word)
  /-- `jcancel` has met the job (R207). -/
  cancelled : Bool
  /-- Strands that ended and whose accesses, and those of others that they may have read, are not all done (R194, R242). -/
  ending : List Ending
deriving DecidableEq, Repr

/-- State of a stub (R364). -/
inductive StubState where
  | relay | quiet | held
deriving DecidableEq, Repr

/-- A stub (R363, R364). -/
structure Stub where
  gpn : Nat
  owner : Nat
  st : StubState
  bcast : Bool
  pending : List Nat
  born : Nat
  since : Nat
deriving DecidableEq, Repr

/-- A directory entry (R359). -/
structure DirEntry where
  owner : Nat
  migrating : Bool
  sharers : List Nat
  bcast : Bool
  /-- Packages whose migration requests wait (R365). -/
  waiting : List Nat
deriving DecidableEq, Repr

/-- A migration this package takes part in (R362): its step, the other package and, when pulling, the frame. -/
structure Migration where
  gpn : Nat
  size : Nat
  pulling : Bool
  step : Nat
  other : Nat
  frame : Nat
  who : Option StrandRef
  /-- Writes and atomics that arrived for the page, with their arrival times and reported flags. -/
  queue : List (Packet × Nat × Bool)
  sharers : List Nat
  bcast : Bool
  copied : Nat
  /-- The frame migrated from, at the old owner. -/
  old : Nat
  /-- The domain for which a page is pulled: its copy engines act for the domain of the `pgmig` (R23). -/
  dom : Nat := 0
  /-- The strand of that `pgmig` (R369). -/
  uid : Nat := 0
deriving DecidableEq, Repr

/-- The path to a GPN's owner (R363, R364). -/
structure PathCount where
  gpn : Nat
  /-- Requests sent on the current path and not answered. -/
  inFlight : Nat
  /-- Requests held, by their numbers, in their order of issue. -/
  holding : List Nat
  /-- A redirect or a bounce has changed the path. -/
  changing : Bool
  /-- Packages whose invalidations are acknowledged once the count is 0 (R364). -/
  ackTo : List Nat
deriving DecidableEq, Repr

/-- A request of this package to a GPN's owner (R151, R218): its number, the packet, the destination and request id of its
last sending (none while held), the times of its first and last sending, and the copy block and piece it serves. -/
structure Req where
  uid : Nat
  gpn : Nat
  p : Packet
  dst : Option Nat
  rid : Nat
  first : Nat
  last : Nat
  core : CoreId
  strm : Nat
  num : Nat
  member : Nat
  block : Nat
  piece : Nat
deriving DecidableEq, Repr

/-- An atomic of a core that is relayed (R146): its number among the posted atomics and openers, its strand's core, its global
byte address, and whether it has joined the frozen queue or been sent. -/
structure Relayed where
  id : Nat
  core : CoreId
  gba : Nat
  sent : Bool
deriving DecidableEq, Repr

/-- A cached result (R152): the request id, the address, the old word and its poison, which a line of the reply shows (R381). -/
structure HauResult where
  rid : Nat
  addr : Nat
  old : Word
  pois : Bool
deriving DecidableEq, Repr

/-- Results of a remote source (R152). -/
structure HauSource where
  src : Word
  highest : Nat
  results : List HauResult
  /-- Results that came with pages (R153), beside the source's own 64, for as long as the page stays (log 67). -/
  moved : List HauResult
deriving DecidableEq, Repr

/-- A reduction slot (R382–R385). -/
structure Slot where
  gen : Nat
  used : Bool
  complete : Bool
  dom : Nat
  priv : Priv
  expect : Nat
  len : Nat
  fmt : Nat
  op : Nat
  timeout : Nat
  result : Word
  rch : Word
  members : List (Nat × Nat)
  acc : List Byte
  first : Nat
  last : Nat
  time : Nat
  pois : Bool
  /-- Completed by its timeout, at the time `closed`. -/
  late : Bool := false
  closed : Nat := 0
  /-- The completion still writes the result or has its message to send (R384); the parts left, and whether one failed. -/
  ending : Bool := false
  left : List Nat := []
  broken : Bool := false
  /-- The cycle, plus one, in which it was released; a contribution of that cycle still counts (R385). -/
  freed : Nat := 0
deriving DecidableEq, Repr

/-- A packet sent on the message virtual channel and not yet acknowledged (R380): the message in `away` that it carries, 0 for
none, and the times of its first and its last sending. -/
structure VcPacket where
  p : Packet
  id : Nat
  first : Nat
  last : Nat
deriving DecidableEq, Repr

/-- A `chmove` under way (R188): its strand, the group and the table entries it had, the homes (`pkg`: the new one is in another
package), the entry writes still to do in this stage (1 STATE 2, 2 the new home, 3 what stood there before), and the refusal
of a move that is undone. -/
structure Move where
  uid : Nat
  group : List Word
  src : CoreId
  dst : CoreId
  pkg : Option Nat
  stage : Nat
  /-- Handle, the entry that stands there, the entry to write. -/
  todo : List (Word × Word × Word)
  olds : List (Word × Word)
  /-- Channels of the group that were spilled before. -/
  spilled : List Word
  cause : Cause
deriving DecidableEq, Repr

/-- The message virtual channel toward one destination (R380): next RID, unacknowledged packets,
whether an MSYNC is due or unanswered. -/
structure VcOut where
  dst : Nat
  next : Nat
  unacked : List VcPacket
  sync : Bool
  synced : Bool
  waiting : List (Packet × Nat)
deriving DecidableEq, Repr

/-- A sequencer of `fence.sc` (R241): scope and instance, requests in order. -/
structure Ticket where
  scope : Nat
  inst : CoreId
  ref : StrandRef
  time : Nat
  cyc : Nat
deriving DecidableEq, Repr

/-- Cysyn state (R348, R386, R387). -/
structure Cysyn where
  now : Nat
  /-- Parts of a nanosecond, in 1/7000 ns. -/
  frac : Nat
  ref : Bool
  refPkg : Nat
  locked : Bool
  ever : Bool
  slew : Int
  /-- The last three offsets, the latest first, and the latest offset, in half nanoseconds (R386, R387). -/
  offsets : List Int
  last : Int
  lastExchange : Nat
  /-- The exchange in progress: parent and t1. -/
  t1 : Option (Nat × Nat)
  /-- When the last exchange began (R386). -/
  asked : Nat := 0
deriving DecidableEq, Repr

/-- Boot state (R393–R397). -/
structure Boot where
  stage : Nat
  cause : Nat
  svn : Nat
  halted : Bool
  image : List Byte
  /-- Fuses blown beyond those of `Config.fuses` (R396). -/
  blown : Nat
  /-- The time of the next attempt of stages 1 and 2. -/
  next : Nat
  /-- What stage 2 is given by the network, while Duiker is in it (R393). -/
  got : Option BootInput := none
  /-- A RESTART has been answered, and the boot restarts next (R400). -/
  again : Bool := false
deriving DecidableEq, Repr

/-- An event record (R401). -/
structure EvRec where
  time : Nat
  who : Word
  cause : BitVec 7
  data : BitVec 256
  seq : Nat
deriving DecidableEq, Repr

/-- One thing that happens outside the issue of instructions: an event row, or a choice of the part that no row names. -/
inductive Act where
  | ev (i : Instr)
  /-- The chosen strands issue and a new cycle begins (R18); with `auto`, in it every device does what it can. -/
  | cycle (auto : Bool)
  /-- A line leaves a cache (R130). -/
  | evictL1 (c : CoreId) (line : Nat)
  | evictCc (die clus line : Nat)
  | evictIcache (c : CoreId) (line : Nat)
  /-- An unpinned TLB entry is displaced (R351): level 0 L1, 1 cluster, 2 LLT, 3 own. -/
  | evictTlb (c : CoreId) (level : Nat) (dom vpage : Nat)
  /-- An entry of a home cache or of the owner cache is displaced (R159, R360). -/
  | evictHome (die : Nat) (handle : Word)
  | evictOc (gpn : Nat)
  /-- A memory line's or scratchpad word's next read meets an uncorrectable error, or a failed check value (R135, R389). -/
  | badLine (line : Nat) (check : Bool)
  | badWord (c : CoreId) (word : Nat) (check : Bool)
  /-- The same of a copy in a core's L1, or in its cluster's cache (R389). -/
  | badCopy (c : CoreId) (l1 : Bool) (line : Nat)
  /-- Duiker finds a device at a CXL port: of a supported kind with this capacity in bytes, or not (R391). -/
  | cxl (port cap : Nat) (ok : Bool)
  /-- The device at a CXL port fails and is withdrawn (R392). -/
  | cxlFail (port : Nat)
  /-- Duiker goes on with the boot, or with a restart that it has answered (R393, R400). -/
  | boot
  /-- The host posts a mailbox request, which Duiker answers later (R399, R400). -/
  | post (req : BitVec 512)
  /-- The firmware reports ready: boot stage 8 (R393). -/
  | ready
  /-- An atomic reads its word at its CAU or HAU before it is executed (R145): one that `id` names, at `pa` where it names
  a copy command or a remote atomic. -/
  | sample (id : SeenBy) (pa : Nat) (wide : Bool)
  /-- The next transfers beyond the package are handed to this fabric copy engine (R209). -/
  | fabric (n : Nat)
  /-- A posted store passes its cluster's cache before it reaches its home slice (R131, R239). -/
  | pass (seq : Nat)
  /-- The strands chosen in this cycle issue before what stands behind this in the agenda. -/
  | turn
deriving DecidableEq, Repr

/-- The state of the package. -/
structure State where
  pkg : Nat
  powered : Bool
  cycle : Nat
  cys : Cysyn
  mem : Mem
  memPois : NatSet
  /-- Lines whose next read meets an error, true for a check value mismatch. -/
  memBad : List (Nat × Bool)
  hostMem : Mem
  cores : List (CoreId × Core)
  clusters : List ((Nat × Nat) × Cluster)
  dies : List (Nat × Die)
  pend : List PWrite
  /-- Words read by atomics at CAUs and HAUs whose writes are to come (R145). -/
  seen : List Seen
  flight : List Flight
  /-- Messages handed to another package and not yet acknowledged or given up (R380). -/
  away : List Flight
  doms : List (Nat × Dom)
  bar4ap : List (Nat × Word)
  /-- Access tables: (class, inst, domain) to 4 bits, unlisted 0 (R342, R388). -/
  access : List ((Nat × Nat × Nat) × BitVec 4)
  /-- Message filter: (sending domain, channel domain) to the action word, and counts of the current interval (R177). -/
  filter : List ((Nat × Nat) × BitVec 32)
  filterCount : List ((Nat × Nat) × (Nat × Nat))
  jobs : List (Nat × Job)
  lastJob : Nat
  oc : List (Nat × Nat)
  dir : List (Nat × DirEntry)
  /-- GPNs of other homes that this package owns (R359, R362). -/
  owned : List Nat
  /-- Frames that migrations installed here: GPN to size code and frame (R362). -/
  frames : List (Nat × (Nat × Nat))
  migs : List Migration
  stubs : List Stub
  paths : List PathCount
  reqs : List Req
  /-- Parts of requests that have arrived, their last part not yet (R376, R378). -/
  halves : List Packet := []
  /-- The fabric copy engine, 0 to 31, that the next transfers are handed to (R209, R388). -/
  fab : Nat := 0
  rids : List (Nat × Nat)
  /-- Owner lookups outstanding: GPN and time (R360). -/
  lookups : List (Nat × Nat)
  /-- Migrations asked for at their home directories and not answered: GPN and time (R360, R362). -/
  asked : List (Nat × Nat)
  /-- Atomics of this package's cores that found their page frozen and go to its new owner (R146). -/
  relayed : List Relayed
  /-- Answers of other packages to accesses of channel tables (R158): address and requester, to the word or the cause. -/
  tabAns : List ((Nat × Nat) × (Word × Option Cause))
  /-- Moves of channel groups under way (R188). -/
  moves : List Move
  /-- Gang cards of other packages that wait for a job table entry (R197). -/
  cards : List Packet := []
  hau : List HauSource
  slots : List (Nat × Slot)
  vcOut : List VcOut
  vcIn : List (Nat × Nat)
  deadLinks : List Nat
  out : List Packet
  discards : Nat
  tickets : List Ticket
  evlog : List EvRec
  evseq : Nat
  boot : Boot
  mboxReq : BitVec 512
  mboxRep : BitVec 512
  mboxBusy : Bool
  sensors : List (BitVec 32)
  sensorTime : Nat
  msix : List Nat
  deadPkgs : List Nat
  /-- What the last host read through BAR4 was given: bytes with poison (R390). -/
  barData : List (Byte × Bool)
  /-- The capacity tier's usable devices, by port: their capacities (R391, R392), and the ports whose device has been withdrawn. -/
  cxl : List (Nat × Nat) := []
  cxlFailed : List Nat := []
  /-- Model's own: what happens next, strands to issue in this cycle, the issuing strand, the next unique number, the
  free-value counter. -/
  agenda : List Act
  turn : List StrandRef
  cur : StrandRef
  uid : Nat
  free : Nat
deriving DecidableEq, Repr

/-- The JMU after a core's reset (R155). -/
def Jmu.reset : Jmu := { seq := 0, chans := [], pats := [], queue := [], fwds := [] }

/-- A timeline after a core's reset (R210). -/
def Timeline.reset : Timeline := ⟨0, 0, [], false, 0⟩

/-- A core after reset (R104, R155, R210): unassigned, the default division of R11 in its pool word. -/
def Core.reset : Core :=
  { dom := none, failed := false, pword := 0x00080804#32, pendWord := none, wordCycle := none,
    leaving := false, spad := [], spadPois := [], spadBad := [], dirty := [], strands := [], jmu := Jmu.reset,
    tagR := 0, tagA := 0, tls := Vector.replicate 6 Timeline.reset, copies := [], dteq := [], kuduq := [], tabHits := [], l1 := [],
    icache := [], tlb := [], own := [], acq := 0, launchq := [], bubble := 0 }

/-- A cluster after reset. -/
def Cluster.reset : Cluster := ⟨[], [], [], 0, [], []⟩

/-- A die after reset. -/
def Die.reset : Die := { llt := [], homeCache := [], tokens := 0 }

/-- A domain's CSRs after reset: roothub 0 (R320); the others 0 as log 3 chooses. -/
def Dom.reset : Dom :=
  { chtab := 0, trapch := 0, repch := 0, replog := 0, pagerch := 0, lostrep := 0, trarea := 0, imgarea := 0,
    roothub := 0, tmcmp := 0, repseq := 0, bkpt := Vector.replicate 4 0, wpt := Vector.replicate 2 0, lastSlot := none,
    logPos := 0, imgUsed := [], imgReserved := 0, kept := [], hint := 1, resumed := [], awake := [], parked := [], origins := [] }

/-- The management processor. -/
def duikerId : CoreId := ⟨.duiker, 0, 15, 0⟩

/-- The package right after power is applied (R10, R386, R393). -/
def State.reset : State :=
  { pkg := 0, powered := true, cycle := 0,
    cys := { now := 0, frac := 0, ref := false, refPkg := 0, locked := false, ever := false, slew := 0, offsets := [],
             last := 0, lastExchange := 0, t1 := none },
    mem := [], memPois := [], memBad := [], hostMem := [], cores := [], clusters := [], dies := [], pend := [], seen := [],
    flight := [], away := [], doms := [], bar4ap := [], access := [], filter := [], filterCount := [], jobs := [], lastJob := 4095,
    oc := [], dir := [], owned := [], frames := [], migs := [], stubs := [], paths := [], reqs := [], rids := [], lookups := [],
    asked := [], relayed := [], tabAns := [], moves := [], hau := [], slots := [], vcOut := [], vcIn := [], deadLinks := [], out := [], discards := 0, tickets := [],
    evlog := [], evseq := 1,
    boot := { stage := 1, cause := 0, svn := 0, halted := false, image := [], blown := 0, next := 0 },
    mboxReq := 0, mboxRep := 0, mboxBusy := false, sensors := [], sensorTime := 0, msix := [], deadPkgs := [], barData := [],
    agenda := [], turn := [], cur := ⟨duikerId, 0⟩, uid := 1, free := 0 }

end Sys2Proof.Machine
end

