-- ==== Sys2Proof/Machine/Store.lean ====
section
/-! DEFINITION. Plain containers: association lists, sets of numbers, canonical byte memory, and little-endian bytes
(R2). An unlisted byte reads 0 (log 2). -/

namespace Sys2Proof.Machine

/-- The value listed for a key. -/
def aget {α β : Type} [DecidableEq α] (l : List (α × β)) (k : α) : Option β :=
  match l with
  | [] => none
  | (a, b) :: t => if a = k then some b else aget t k

/-- The list with a key's value replaced, or added at the end. -/
def aset {α β : Type} [DecidableEq α] (l : List (α × β)) (k : α) (v : β) : List (α × β) :=
  match l with
  | [] => [(k, v)]
  | (a, b) :: t => if a = k then (k, v) :: t else (a, b) :: aset t k v

/-- The list without a key. -/
def adel {α β : Type} [DecidableEq α] (l : List (α × β)) (k : α) : List (α × β) :=
  l.filter (fun x => x.1 ≠ k)

/-- A set with a number added; sets are strictly rising lists. -/
def setIns (l : NatSet) (n : Nat) : NatSet :=
  match l with
  | [] => [n]
  | a :: t => if n < a then n :: a :: t else if n = a then a :: t else a :: setIns t n

/-- A set with a number removed. -/
def setDel (l : NatSet) (n : Nat) : NatSet := l.filter (fun a => a ≠ n)

/-- Membership. -/
def setHas (l : NatSet) (n : Nat) : Bool := l.any (fun a => a == n)

/-- The byte at an address; an unlisted address reads 0. -/
def memRead (m : Mem) (a : Nat) : Byte :=
  match m with
  | [] => 0#8
  | (k, b) :: t => if k = a then b else memRead t a

/-- The memory with a byte written, in canonical form. -/
def memWrite (m : Mem) (a : Nat) (b : Byte) : Mem :=
  match m with
  | [] => if b = 0#8 then [] else [(a, b)]
  | (k, c) :: t =>
    if a < k then (if b = 0#8 then (k, c) :: t else (a, b) :: (k, c) :: t)
    else if a = k then (if b = 0#8 then t else (a, b) :: t)
    else (k, c) :: memWrite t a b

/-- Canonical form: addresses strictly rising from `lo`, no listed zero. -/
def memWfFrom (lo : Nat) (m : Mem) : Bool :=
  match m with
  | [] => true
  | (k, b) :: t => decide (lo ≤ k) && decide (b ≠ 0#8) && memWfFrom (k + 1) t

/-- The canonical form of memory. -/
def Memory.wf (m : Mem) : Bool := memWfFrom 0 m

/-- `n` bytes from an address upward. -/
def memBytes (m : Mem) (a n : Nat) : List Byte :=
  match n with
  | 0 => []
  | k + 1 => memRead m a :: memBytes m (a + 1) k

/-- Bytes written from an address upward. -/
def memStore (m : Mem) (a : Nat) (l : List Byte) : Mem :=
  match l with
  | [] => m
  | b :: t => memStore (memWrite m a b) (a + 1) t

/-- Bytes written where the list gives one. -/
def memStoreSome (m : Mem) (a : Nat) (l : List (Option Byte)) : Mem :=
  match l with
  | [] => m
  | none :: t => memStoreSome m (a + 1) t
  | some b :: t => memStoreSome (memWrite m a b) (a + 1) t

/-- The natural value of little-endian bytes (R2). -/
def leNat (l : List Byte) : Nat :=
  match l with
  | [] => 0
  | b :: t => b.toNat + 256 * leNat t

/-- The `n` low bytes of a value, low byte first (R2). -/
def leBytes (n : Nat) (x : Nat) : List Byte :=
  match n with
  | 0 => []
  | k + 1 => BitVec.ofNat 8 x :: leBytes k (x / 256)

/-- Little-endian word. -/
def leWord (l : List Byte) : Word := BitVec.ofNat 64 (leNat l)

/-- The 8 bytes of a doubleword. -/
def word8 (w : Word) : List Byte := leBytes 8 w.toNat

/-- Doubleword `i` of a byte list. -/
def wordAt (l : List Byte) (i : Nat) : Word := leWord ((l.drop (8 * i)).take 8)

/-- Bits [lo+n-1:lo] of a doubleword. -/
def bitsOf (w : Word) (lo n : Nat) : Nat := (w.toNat / 2 ^ lo) % 2 ^ n

/-- Sign extension of the low `n` bits of a value to 64 bits. -/
def sextN (n : Nat) (x : Nat) : Word :=
  if x % 2 ^ n < 2 ^ (n - 1) then BitVec.ofNat 64 (x % 2 ^ n) else BitVec.ofInt 64 (Int.ofNat (x % 2 ^ n) - Int.ofNat (2 ^ n))

/-- An integer read as a signed value of `n` bits. -/
def sintN (n : Nat) (x : Nat) : Int :=
  if x % 2 ^ n < 2 ^ (n - 1) then Int.ofNat (x % 2 ^ n) else Int.ofNat (x % 2 ^ n) - Int.ofNat (2 ^ n)

/-- The low `n` bits of an integer. -/
def natN (n : Nat) (x : Int) : Nat := (x % Int.ofNat (2 ^ n)).toNat

/-- The number of one bits among the low `n`. -/
def popN (n : Nat) (x : Nat) : Nat :=
  match n with
  | 0 => 0
  | k + 1 => x % 2 + popN k (x / 2)

/-- The least set bit among the low `n`, counted from `i`. -/
def lowBit (n : Nat) (x : Nat) (i : Nat) : Option Nat :=
  match n with
  | 0 => none
  | k + 1 => if x % 2 = 1 then some i else lowBit k (x / 2) (i + 1)

/-- The first element of least key, by a comparison on keys. -/
def leastBy {α : Type} (lt : α → α → Bool) (l : List α) : Option α :=
  l.foldl (fun b x => match b with | none => some x | some y => if lt x y then some x else some y) none

/-- An element put before the first that it precedes. -/
def insertBy {α : Type} (lt : α → α → Bool) (x : α) (l : List α) : List α :=
  match l with
  | [] => [x]
  | y :: t => if lt x y then x :: y :: t else y :: insertBy lt x t

/-- A list in the order of a comparison; equals keep their order. -/
def sortBy {α : Type} (lt : α → α → Bool) (l : List α) : List α := l.foldl (fun r x => insertBy lt x r) []

/-- Natural numbers `lo` to `lo + n - 1`. -/
def rangeFrom (lo n : Nat) : List Nat := (List.range n).map (fun i => lo + i)

/-- Lexicographic comparison of keys. -/
def lexLt (a b : List Nat) : Bool :=
  match a, b with
  | x :: s, y :: t => if x < y then true else if y < x then false else lexLt s t
  | [], _ :: _ => true
  | _, [] => false

end Sys2Proof.Machine
end

