-- ==== Sys2Proof/Machine/Fp.lean ====
section
/-! DEFINITION. Floating-point formats and exact arithmetic with one rounding (R29–R46): values are decoded to exact
integers times powers of two, combined exactly and rounded once. -/

namespace Sys2Proof.Machine

/-- The kinds of special values of a format (R29). -/
inductive FpKind where
  | ieee | e4m3 | noSpecial
deriving DecidableEq, Repr

/-- A floating-point format: exponent bits, mantissa bits, bias, specials. -/
structure Fmt where
  ew : Nat
  mw : Nat
  bias : Nat
  kind : FpKind
deriving DecidableEq, Repr

/-- R29. -/
def fmtF32 : Fmt := ⟨8, 23, 127, .ieee⟩
/-- R29. -/
def fmtF16 : Fmt := ⟨5, 10, 15, .ieee⟩
/-- R29. -/
def fmtBf16 : Fmt := ⟨8, 7, 127, .ieee⟩
/-- R29. -/
def fmtE5m2 : Fmt := ⟨5, 2, 15, .ieee⟩
/-- R29. -/
def fmtE4m3 : Fmt := ⟨4, 3, 7, .e4m3⟩
/-- R29, R30. -/
def fmtE2m1 : Fmt := ⟨2, 1, 1, .noSpecial⟩

/-- Width in bits. -/
def Fmt.width (f : Fmt) : Nat := 1 + f.ew + f.mw

/-- A decoded value: NaN, an infinity, or ±man·2^exp. -/
inductive FVal where
  | nan
  | inf (neg : Bool)
  | fin (neg : Bool) (man : Nat) (exp : Int)
deriving DecidableEq, Repr

/-- The value of an encoding (R29). -/
def fdec (f : Fmt) (x : Nat) : FVal :=
  let m := x % 2 ^ f.mw
  let e := (x / 2 ^ f.mw) % 2 ^ f.ew
  let neg := (x / 2 ^ (f.mw + f.ew)) % 2 = 1
  let ones := 2 ^ f.ew - 1
  if f.kind = .ieee ∧ e = ones then (if m = 0 then .inf neg else .nan)
  else if f.kind = .e4m3 ∧ e = ones ∧ m = 2 ^ f.mw - 1 then .nan
  else if e = 0 then .fin neg m (1 - (f.bias : Int) - f.mw)
  else .fin neg (2 ^ f.mw + m) ((e : Int) - f.bias - f.mw)

/-- The value of an e8m0 code (R31). -/
def fdecE8m0 (x : Nat) : FVal := if x % 256 = 255 then .nan else .fin false 1 ((x % 256 : Nat) - 127 : Int)

/-- The canonical NaN (R29, R32); a format without NaN takes +0 (R43). -/
def fnan (f : Fmt) : Nat :=
  match f.kind with
  | .ieee => (2 ^ f.ew - 1) * 2 ^ f.mw + 2 ^ (f.mw - 1)
  | .e4m3 => 2 ^ (f.mw + f.ew) - 1
  | .noSpecial => 0

/-- Mantissa (with its leading bit) of the largest finite value (R29). -/
def fmaxMan (f : Fmt) : Nat := if f.kind = .e4m3 then 2 ^ (f.mw + 1) - 2 else 2 ^ (f.mw + 1) - 1

/-- Exponent of the last place of the largest finite value. -/
def fmaxQ (f : Fmt) : Int :=
  if f.kind = .ieee then (2 ^ f.ew - 2 : Nat) - (f.bias : Int) - f.mw else (2 ^ f.ew - 1 : Nat) - (f.bias : Int) - f.mw

/-- Sign bit in place. -/
def fsign (f : Fmt) (neg : Bool) : Nat := if neg then 2 ^ (f.mw + f.ew) else 0

/-- The largest finite value's encoding. -/
def fmaxEnc (f : Fmt) (neg : Bool) : Nat :=
  fsign f neg + (if f.kind = .ieee then (2 ^ f.ew - 2) * 2 ^ f.mw + (2 ^ f.mw - 1)
                 else if f.kind = .e4m3 then 2 ^ (f.ew + f.mw) - 2 else 2 ^ (f.ew + f.mw) - 1)

/-- Infinity of a format that has one, else the largest finite value (R38). -/
def finfEnc (f : Fmt) (neg : Bool) : Nat :=
  if f.kind = .ieee then fsign f neg + (2 ^ f.ew - 1) * 2 ^ f.mw else fmaxEnc f neg

/-- Rounding modes (R36). -/
inductive RMode where
  | rne | rtz | rup | rdn
deriving DecidableEq, Repr

/-- The mode of a 2-bit code (R36). -/
def rmodeOf (n : Nat) : RMode := match n % 4 with | 0 => .rne | 1 => .rtz | 2 => .rup | _ => .rdn

/-- Flag bits of fctl (R44): NV 16, DZ 8, OF 4, UF 2, NX 1. -/
abbrev Flags := BitVec 5
/-- R44. -/
def flNV : Flags := 16#5
/-- R44. -/
def flDZ : Flags := 8#5
/-- R44. -/
def flOF : Flags := 4#5
/-- R44. -/
def flUF : Flags := 2#5
/-- R44. -/
def flNX : Flags := 1#5

/-- Number of significant bits. -/
def bitLen (n : Nat) : Nat := if n = 0 then 0 else Nat.log2 n + 1

/-- ±man·2^exp rounded to a multiple of 2^q: the multiple and whether it is inexact. With `sticky` the magnitude lies
strictly between man·2^exp and (man+1)·2^exp. -/
def roundQ (mode : RMode) (neg : Bool) (man : Nat) (exp : Int) (sticky : Bool) (q : Int) : Nat × Bool :=
  if q ≤ exp then
    let n := man * 2 ^ (exp - q).toNat
    -- only an exact value may be this coarse; a sticky one rounds by its direction
    let up := sticky && (match mode with | .rup => !neg | .rdn => neg | _ => false)
    (if up then n + 1 else n, sticky)
  else
    let k := (q - exp).toNat
    let n := man / 2 ^ k
    let r := man % 2 ^ k
    let inexact := r ≠ 0 || sticky
    let half := 2 ^ (k - 1)
    let up := match mode with
      | .rne => half < r || (r == half && (sticky || n % 2 == 1))
      | .rtz => false
      | .rup => !neg && inexact
      | .rdn => neg && inexact
    (if up then n + 1 else n, inexact)

/-- `n·2^q` is larger than the largest finite value. -/
def overMax (f : Fmt) (n : Nat) (q : Int) : Bool :=
  if q ≤ fmaxQ f then decide (fmaxMan f * 2 ^ (fmaxQ f - q).toNat < n) else decide (0 < n)

/-- The result of an overflow (R38). -/
def overflowEnc (f : Fmt) (mode : RMode) (neg : Bool) : Nat :=
  match mode with
  | .rne => finfEnc f neg
  | .rtz => fmaxEnc f neg
  | .rup => if neg then fmaxEnc f neg else finfEnc f neg
  | .rdn => if neg then finfEnc f neg else fmaxEnc f neg

/-- A nonzero exact value rounded once onto a format (R36–R39): encoding and flags. -/
def froundNz (f : Fmt) (mode : RMode) (neg : Bool) (man : Nat) (exp : Int) (sticky : Bool) : Nat × Flags :=
  let emin : Int := 1 - (f.bias : Int)
  let qn : Int := (bitLen man : Int) - 1 + exp - f.mw
  let qs : Int := emin - f.mw
  let q := if qn < qs then qs else qn
  let (n, inexact) := roundQ mode neg man exp sticky q
  if overMax f n q then (overflowEnc f mode neg, flOF ||| flNX)
  else
    let (nu, _) := roundQ mode neg man exp sticky qn
    -- nu·2^qn below 2^emin, with unbounded exponent
    let tiny := if qn < emin then decide (nu < 2 ^ (emin - qn).toNat) else false
    let fl : Flags := (if inexact then flNX else 0) ||| (if inexact && (tiny || n = 0) then flUF else 0)
    let enc :=
      if n < 2 ^ f.mw then n
      else if n < 2 ^ (f.mw + 1) then (q + f.mw + f.bias).toNat * 2 ^ f.mw + (n - 2 ^ f.mw)
      else (q + 1 + f.mw + f.bias).toNat * 2 ^ f.mw
    (fsign f neg + enc, fl)

/-- A value rounded onto a format; a zero keeps its sign (R36–R40). -/
def fround (f : Fmt) (mode : RMode) (v : FVal) (sticky : Bool := false) : Nat × Flags :=
  match v with
  | .nan => (fnan f, 0)
  | .inf neg => (finfEnc f neg, if f.kind = .ieee then 0 else flOF ||| flNX)
  | .fin neg man exp => if man = 0 ∧ sticky = false then (fsign f neg, 0) else froundNz f mode neg man exp sticky

/-- Signed integer value of a finite value at a common exponent at or below its own. -/
def scaleTo (neg : Bool) (man : Nat) (exp e : Int) : Int :=
  let m : Int := Int.ofNat (man * 2 ^ (exp - e).toNat)
  if neg then -m else m

/-- Exact product with the flag of R46. -/
def fmulX (a b : FVal) : FVal × Flags :=
  match a, b with
  | .nan, _ => (.nan, 0)
  | _, .nan => (.nan, 0)
  | .inf s, .inf t => (.inf (s != t), 0)
  | .inf s, .fin t m _ => if m = 0 then (.nan, flNV) else (.inf (s != t), 0)
  | .fin t m _, .inf s => if m = 0 then (.nan, flNV) else (.inf (s != t), 0)
  | .fin s m e, .fin t n g => (.fin (s != t) (m * n) (e + g), 0)

/-- The sign of an exact zero sum (R40): the common sign of addends that are all zeros of one sign, else the mode's. -/
def zeroSign (mode : RMode) (l : List FVal) : Bool :=
  if l.all (fun v => v == .fin true 0 0 || match v with | .fin true 0 _ => true | _ => false) then true
  else if l.all (fun v => match v with | .fin false 0 _ => true | _ => false) then false
  else mode == .rdn

/-- Exact sum of any number of values (R40, R46): a NaN among them decides before +inf with -inf does (log 24 DEDUCED). -/
def fsumX (mode : RMode) (l : List FVal) : FVal × Flags :=
  if l.any (fun v => v == .nan) then (.nan, 0)
  else
    let pos := l.any (fun v => v == .inf false)
    let neg := l.any (fun v => v == .inf true)
    if pos && neg then (.nan, flNV)
    else if pos then (.inf false, 0)
    else if neg then (.inf true, 0)
    else
      let e : Int := l.foldl (fun (b : Option Int) v => match v with
        | .fin _ (_ + 1) g => (match b with | none => some g | some c => if g < c then some g else some c)
        | _ => b) none |>.getD 0
      let t : Int := l.foldl (fun (b : Int) v => match v with
        | .fin s (m + 1) g => b + scaleTo s (m + 1) g e
        | _ => b) 0
      if t = 0 then (.fin (zeroSign mode l) 0 0, 0) else (.fin (decide (t < 0)) t.natAbs e, 0)

/-- The value with its sign inverted (R40). -/
def fneg (v : FVal) : FVal :=
  match v with
  | .nan => .nan
  | .inf s => .inf (!s)
  | .fin s m e => .fin (!s) m e

/-- `a + b` rounded once. -/
def fadd (f : Fmt) (mode : RMode) (a b : Nat) : Nat × Flags :=
  let (v, g) := fsumX mode [fdec f a, fdec f b]
  let (x, h) := fround f mode v
  (x, g ||| h)

/-- `a - b` rounded once. -/
def fsub (f : Fmt) (mode : RMode) (a b : Nat) : Nat × Flags :=
  let (v, g) := fsumX mode [fdec f a, fneg (fdec f b)]
  let (x, h) := fround f mode v
  (x, g ||| h)

/-- `a × b` rounded once. -/
def fmul (f : Fmt) (mode : RMode) (a b : Nat) : Nat × Flags :=
  let (v, g) := fmulX (fdec f a) (fdec f b)
  let (x, h) := fround f mode v
  (x, g ||| h)

/-- `a × b + c` exactly, rounded once (R50). -/
def ffma (f : Fmt) (mode : RMode) (a b c : Nat) : Nat × Flags :=
  let (p, g) := fmulX (fdec f a) (fdec f b)
  let (v, h) := fsumX mode [p, fdec f c]
  let (x, k) := fround f mode v
  (x, g ||| h ||| k)

/-- A quotient of values rounded once (R46). -/
def fdivV (f : Fmt) (mode : RMode) (v w : FVal) : Nat × Flags :=
  match v, w with
  | .nan, _ => (fnan f, 0)
  | _, .nan => (fnan f, 0)
  | .inf _, .inf _ => (fnan f, flNV)
  | .inf s, .fin t _ _ => fround f mode (.inf (s != t))
  | .fin s _ _, .inf t => (fsign f (s != t), 0)
  | .fin s m e, .fin t n g =>
    if n = 0 then (if m = 0 then (fnan f, flNV) else (finfEnc f (s != t), flDZ))
    else if m = 0 then (fsign f (s != t), 0)
    else
      let k := 2 * (f.mw + 4) + bitLen n
      let num := m * 2 ^ k
      froundNz f mode (s != t) (num / n) (e - g - k) (num % n ≠ 0)

/-- `a / b` rounded once (R46). -/
def fdiv (f : Fmt) (mode : RMode) (a b : Nat) : Nat × Flags := fdivV f mode (fdec f a) (fdec f b)

/-- Integer square root by bits: the largest r below 2^k with r² ≤ n. -/
def isqrt (k : Nat) (n : Nat) (r : Nat) : Nat :=
  match k with
  | 0 => r
  | j + 1 => let c := r + 2 ^ j; isqrt j n (if c * c ≤ n then c else r)

/-- Minimum on values: NaN wins, −0 below +0 (R41); as a comparison "a below b". -/
def fltKey (v : FVal) (w : FVal) : Bool :=
  match v, w with
  | .inf true, .inf true => false
  | .inf true, _ => true
  | _, .inf true => false
  | .inf false, _ => false
  | _, .inf false => true
  | .fin s m e, .fin t n g =>
    let b := if e < g then e else g
    let x := scaleTo s m e b
    let y := scaleTo t n g b
    if x = y then s && !t else decide (x < y)
  | _, _ => false

/-- R41 minimum or maximum; `a` when neither is below the other. -/
def fminmax (f : Fmt) (mx : Bool) (a b : Nat) : Nat :=
  let v := fdec f a
  let w := fdec f b
  if v = .nan ∨ w = .nan then fnan f
  else if (if mx then fltKey v w else fltKey w v) then b else a

/-- Numeric order of values for compares: zeros are equal (R259). -/
def fcmpLt (v w : FVal) : Bool :=
  match v, w with
  | .nan, _ => false
  | _, .nan => false
  | .inf s, .inf t => s && !t
  | .inf s, _ => s
  | _, .inf t => !t
  | .fin s m e, .fin t n g =>
    let b := if e < g then e else g
    decide (scaleTo s m e b < scaleTo t n g b)

/-- Numeric equality of values. -/
def fcmpEq (v w : FVal) : Bool :=
  match v, w with
  | .nan, _ => false
  | _, .nan => false
  | .inf s, .inf t => s == t
  | .inf _, _ => false
  | _, .inf _ => false
  | .fin s m e, .fin t n g =>
    let b := if e < g then e else g
    decide (scaleTo s m e b = scaleTo t n g b)

end Sys2Proof.Machine
end

