-- ==== Sys2Proof/Machine/Basic.lean ====
section
/-! DEFINITION. Access to the parts of the package: cores, clusters, dies, domains, strands; identity words (R23);
time (R386); the event log (R401); registers (R19, R102). -/

namespace Sys2Proof.Machine

/-- A core; one never touched is in its reset state. -/
def getCore (s : State) (c : CoreId) : Core := (aget s.cores c).getD Core.reset
/-- Write a core back. -/
def setCore (s : State) (c : CoreId) (x : Core) : State := { s with cores := aset s.cores c x }
/-- The cluster of a core's place. -/
def getClus (s : State) (die clus : Nat) : Cluster := (aget s.clusters (die, clus)).getD Cluster.reset
/-- Write a cluster back. -/
def setClus (s : State) (die clus : Nat) (x : Cluster) : State := { s with clusters := aset s.clusters (die, clus) x }
/-- A die. -/
def getDie (s : State) (d : Nat) : Die := (aget s.dies d).getD Die.reset
/-- Write a die back. -/
def setDie (s : State) (d : Nat) (x : Die) : State := { s with dies := aset s.dies d x }
/-- A domain's CSRs. -/
def getDom (s : State) (d : Nat) : Dom := (aget s.doms d).getD Dom.reset
/-- Write a domain's CSRs back. -/
def setDom (s : State) (d : Nat) (x : Dom) : State := { s with doms := aset s.doms d x }
/-- A strand. -/
def getStrand (s : State) (r : StrandRef) : Option Strand := aget (getCore s r.core).strands r.slot
/-- Write a strand back. -/
def setStrand (s : State) (r : StrandRef) (t : Strand) : State :=
  let c := getCore s r.core
  setCore s r.core { c with strands := aset c.strands r.slot t }
/-- Change a strand that exists. -/
def updStrand (s : State) (r : StrandRef) (f : Strand → Strand) : State :=
  match getStrand s r with
  | none => s
  | some t => setStrand s r (f t)
/-- Change a core. -/
def updCore (s : State) (c : CoreId) (f : Core → Core) : State := setCore s c (f (getCore s c))

/-- A compute core, by die, cluster and number. -/
def computeId (d c n : Nat) : CoreId := ⟨.compute, d, c, n⟩
/-- The 640 compute cores in ascending die, cluster and core order (R192). -/
def computeIds : List CoreId :=
  (List.range 4).flatMap (fun d => (List.range 10).flatMap (fun c => (List.range 16).map (fun n => computeId d c n)))
/-- The strands of the package in the order of its cores. -/
def allStrands (s : State) : List (StrandRef × Strand) :=
  s.cores.flatMap (fun x => x.2.strands.map (fun y => (⟨x.1, y.1⟩, y.2)))

/-- KIND of R23 of a strand's core. -/
def kindCode (k : CoreKind) : Nat := match k with | .compute => 0 | .markhor => 5 | .hub => 3 | .duiker => 4

/-- Privilege as a number: U 0, S 1, H 2. -/
def privNum (p : Priv) : Nat := match p with | .u => 0 | .s => 1 | .h => 2
/-- The privilege of a 2-bit code; 3 does not occur. -/
def privOf (n : Nat) : Priv := if n = 0 then .u else if n = 1 then .s else .h

/-- An identity word from its places (R23). -/
def sidOf (pkg die clus core slot dom kind : Nat) : Word :=
  BitVec.ofNat 64 (pkg * 2 ^ 52 + die * 2 ^ 50 + clus * 2 ^ 46 + core * 2 ^ 42 + slot * 2 ^ 36 + dom * 2 ^ 28 + kind * 2 ^ 24)

/-- The DIE, CLUS and CORE places of a core (R23). -/
def placeOf (c : CoreId) : Nat × Nat × Nat :=
  match c.kind with
  | .compute => (c.die, c.clus, c.num)
  | .markhor => (c.die, c.clus, 0)
  | .hub => (0, 15, c.num)
  | .duiker => (0, 15, 0)

/-- The identity word of a strand (R23); Duiker's domain place is zero. -/
def strandSid (s : State) (r : StrandRef) (dom : Nat) : Word :=
  let (d, c, n) := placeOf r.core
  sidOf s.pkg d c n r.slot (if r.core.kind = .duiker then 0 else dom) (kindCode r.core.kind)

/-- The identity word of a device of Eland acting for a domain: a fabric copy engine, kind 1, engine `e`. -/
def fabricSid (s : State) (e dom : Nat) : Word := sidOf s.pkg 0 15 0 e dom 1
/-- The places of a unit of Eland that is no engine, such as the gateway (R23, R401). -/
def elandSid (s : State) (dom : Nat) : Word := sidOf s.pkg 0 15 0 0 dom 0
/-- The identity word of a cluster copy engine (R23). -/
def engineSid (s : State) (c : CoreId) (e dom : Nat) : Word := sidOf s.pkg c.die c.clus 0 e dom 1
/-- Duiker's identity word. -/
def duikerSid (s : State) : Word := sidOf s.pkg 0 15 0 0 0 4
/-- The identity word of a core as a unit: SLOT 0 (R337, R401). -/
def coreSid (s : State) (c : CoreId) (dom : Nat) : Word := strandSid s ⟨c, 0⟩ dom

/-- The core that the places of an identity or home word name (R23, R182), if they name one. -/
def coreOfPlaces (w : Word) : Option CoreId :=
  let d := bitsOf w 50 2
  let c := bitsOf w 46 4
  let n := bitsOf w 42 4
  match bitsOf w 24 4 with
  | 0 => if c < 10 then some ⟨.compute, d, c, n⟩ else none
  | 5 => if c < 10 ∧ n = 0 then some ⟨.markhor, d, c, 0⟩ else none
  | 3 => if d = 0 ∧ c = 15 ∧ n < 8 then some ⟨.hub, 0, 15, n⟩ else none
  | 4 => if d = 0 ∧ c = 15 ∧ n = 0 then some duikerId else none
  | _ => none

/-- Cysyn time now (R386). -/
def now (s : State) : Nat := s.cys.now

/-- The latest offset in whole nanoseconds, rounded down (R326, R348, R386; log 80 DESIGN CHOICE). -/
def offsetNs (s : State) : Int := s.cys.last / 2

/-- The numeric code of a cause (R327). -/
def causeCode (c : Cause) : Nat :=
  match c with
  | .none => 0 | .illegalMajor => 0x01 | .illegalFunction => 0x02 | .reservedField => 0x03 | .badLength => 0x04
  | .lineCrossing => 0x05 | .notInstructionStart => 0x06 | .privileged => 0x07 | .lookaheadReadPending => 0x08
  | .lookaheadWritePending => 0x09 | .lookaheadMisuse => 0x0A | .frameRegister => 0x0B | .trapInstruction => 0x0C
  | .breakpoint => 0x0D | .singleStep => 0x0E | .watchpoint => 0x0F | .poisonConsumed => 0x10
  | .pageNotPresent => 0x11 | .pageNotLocal => 0x12 | .permissionRead => 0x13 | .permissionWrite => 0x14
  | .permissionExecute => 0x15 | .misaligned => 0x16 | .windowCrossing => 0x17 | .windowUnmapped => 0x18
  | .scratchpadBeyondPartition => 0x19 | .neighbourUnavailable => 0x1A | .accessTableDenied => 0x1B
  | .checkValueMismatch => 0x1C | .uncorrectableData => 0x1D | .atomicNotSupported => 0x1E
  | .atomicScopeInvalid => 0x1F | .atomicIndeterminate => 0x20 | .fetchFault => 0x21 | .formatMismatch => 0x22
  | .formatUnsupported => 0x23 | .scaleFormat => 0x24 | .blockSize => 0x25 | .laneFault => 0x26 | .tagReserved => 0x27
  | .operandRange => 0x28 | .tileShape => 0x29 | .tileOperandRange => 0x2A | .accumulatorFormat => 0x2B
  | .accumulatorFrame => 0x2C | .engineOperandFault => 0x2D | .tileKindUnsupported => 0x2E | .tableIndexRange => 0x2F
  | .tableStaleWritten => 0x30 | .tableStaleRestored => 0x31 | .tableSourceNotLocal => 0x32 | .tableModeMismatch => 0x33
  | .tableNotBuilt => 0x34 | .tableFrame => 0x35 | .channelHandleStale => 0x36 | .channelDestroyed => 0x37
  | .channelOverflow => 0x38 | .patternHomeMismatch => 0x39 | .patternTableFull => 0x3A | .channelQuota => 0x3B
  | .crossTenantFiltered => 0x3C | .payloadRange => 0x3D | .frameUnadmittable => 0x3E | .regionBindConflict => 0x3F
  | .channelMoved => 0x40 | .patternInvalid => 0x41 | .copySourceFault => 0x42 | .copyDestFault => 0x43
  | .multicastPartial => 0x44 | .linkDead => 0x45 | .remoteTimeout => 0x46 | .reductionSlotUnavailable => 0x47
  | .reductionTimeout => 0x48 | .tagInUse => 0x49 | .timelineInvalid => 0x4A | .copyCommandInvalid => 0x4B
  | .launchCountRange => 0x4C | .launchCardInvalid => 0x4D | .gangLate => 0x4E | .gangMemberUnreachable => 0x4F
  | .jobCancelled => 0x50 | .partitionChanged => 0x51 | .preEmption => 0x52 | .stubTableFull => 0x53
  | .migrationChain => 0x54 | .ownerLookupFailed => 0x55 | .frozenPageTimeout => 0x56 | .tlbEntryInvalid => 0x57
  | .debugHalt => 0x58 | .timer => 0x59 | .managementRequest => 0x5A | .thermalLimit => 0x5B | .machineCheck => 0x5C
  | .hostSignal => 0x5D | .eretInvalid => 0x5E | .contextImageInvalid => 0x5F | .timeSyncLost => 0x60

/-- The refusal word of a cause (R180). -/
def refusalWord (c : Cause) : Word := BitVec.ofNat 64 (0x8000 + causeCode c)
/-- The refusal of `spawn`, `gang` and `ownq` (R205, R370). -/
def refusalHigh (c : Cause) : Word := BitVec.ofNat 64 (2 ^ 63 + causeCode c)

/-- Write an event-log record (R401); the ring keeps the latest 16,384. -/
def logEvent (s : State) (who : Word) (c : Cause) (data : Nat) : State :=
  let e : EvRec := ⟨now s, who, BitVec.ofNat 7 (causeCode c), BitVec.ofNat 256 data, s.evseq⟩
  { s with evlog := (e :: s.evlog).take 16384, evseq := s.evseq + 1 }

/-- A fresh unique number. -/
def fresh (s : State) : Nat × State := (s.uid, { s with uid := s.uid + 1 })

/-- Scalar register `n`; s0 reads zero (R19). -/
def rd (r : Regs) (n : BitVec 5) : Word := if n = 0 then 0 else r.s[n.toNat]'n.isLt
/-- The poison bit of a scalar register; s0 is never poisoned (R102). -/
def rdP (r : Regs) (n : BitVec 5) : Bool := if n = 0 then false else r.spois.getLsbD n.toNat
/-- The register file with one scalar register written, value and poison; a write to s0 is discarded (R100). -/
def wr (r : Regs) (n : BitVec 5) (x : Word) (p : Bool) : Regs :=
  if n = 0 then r
  else { r with s := r.s.set n.toNat x n.isLt,
                spois := if p then r.spois ||| (1#32 <<< n.toNat) else r.spois &&& ~~~(1#32 <<< n.toNat) }

/-- Registers of a new strand: all zero, p0 all ones (R19, R44, R253). -/
def Regs.zero : Regs :=
  { s := Vector.replicate 32 0, spois := 0, p := (Vector.replicate 8 0).set 0 (~~~(0#64)), fctl := 0, v := [] }

/-- Bytes of a core's scratchpad that its pool word backs: S of R123 and R125. -/
def spadSize (c : CoreId) (x : Core) : Nat :=
  match c.kind with
  | .compute => (48 - bitsOf (x.pword.setWidth 64) 0 8 - bitsOf (x.pword.setWidth 64) 8 8 - bitsOf (x.pword.setWidth 64) 16 8) * 32768
  | _ => 524288

/-- Vector registers, tiles and table slots that a pool word provides (R11, R199); other cores have no pool (R25). -/
def poolOf (c : CoreId) (w : BitVec 32) : Nat × Nat × Nat :=
  match c.kind with
  | .compute => (bitsOf (w.setWidth 64) 0 8 * 512, bitsOf (w.setWidth 64) 8 8 * 8, bitsOf (w.setWidth 64) 16 8)
  | _ => (0, 0, 0)

/-- Vector registers, tiles and table slots that the strands of a core hold. -/
def poolUsed (x : Core) : Nat × Nat × Nat :=
  x.strands.foldl (fun b y => (b.1 + y.2.r.v.length, b.2.1 + y.2.tiles.length, b.2.2 + y.2.tabs.length)) (0, 0, 0)

/-- Room that a strand of a core gives up in this cycle (R17, R119). -/
def freeRoom (s : State) (c : CoreId) (slot : Option Nat) (v a t : Nat) : State :=
  updCore s c (fun k => { k with freed := k.freed.filter (fun f => f.cycle == s.cycle) ++ [⟨s.cycle, slot, v, a, t⟩] })

/-- The strand of a unique number, if it lives. -/
def findUid (s : State) (u : Nat) : Option (StrandRef × Strand) := (allStrands s).find? (fun x => x.2.uid == u)

/-- The cores of a domain's partition in the package (R199), in ascending order, withdrawn ones left out. -/
def partitionOf (s : State) (dom : Nat) : List CoreId :=
  computeIds.filter (fun c => match aget s.cores c with
    | some x => x.dom == some dom && !x.failed && !x.leaving
    | none => false)

/-- The domain has a partition in this package. -/
def hasPartition (s : State) (dom : Nat) : Bool := !(partitionOf s dom).isEmpty

end Sys2Proof.Machine
end

