-- ==== Sys2Proof/Machine/Paging.lean ====
section
/-! DEFINITION. Windows (R122–R126), TLB lookups (R350–R353), access tables (R342, R388) and the location of a core's
access with its faults in the order of R133. -/

namespace Sys2Proof.Machine

/-- Why an instruction's effect does not happen now. -/
inductive Stop where
  /-- A trap of this instruction: cause, DETAIL, DADDR. -/
  | trap (c : Cause) (detail daddr : Word)
  /-- A page fault of R139: cause, address, write intent, fetch. -/
  | page (c : Cause) (va : Word) (w x : Bool)
  /-- A page fault of a memory instruction outside run-ahead: the page, and the registers with which it begins (R139). -/
  | enter (p : PageRec) (skip : Regs)
  /-- A translation miss with its access code (R354). -/
  | miss (va : Word) (acc : Nat)
  /-- The instruction waits; it executes again when the wait is over. -/
  | wait (w : Wait)
  /-- In run-ahead: the run-ahead ends (R140). -/
  | endShadow
  /-- The frame is no memory (`Fault.noFrame`). -/
  | hole (pa : Nat)
deriving DecidableEq, Repr

/-- Kind of an access: load, store, atomic (R133, R148). -/
inductive Acc where
  | load | store | atomic
deriving DecidableEq, Repr

/-- 64 KiB units of a page size code (R352). -/
def sizeUnits (n : Nat) : Nat := if n = 0 then 1 else if n = 1 then 32 else 16384

/-- The entry maps the unit for the domain. -/
def tlbHit (dom vu : Nat) (e : TlbEntry) : Bool := e.dom == dom && decide (e.vpage ≤ vu) && decide (vu < e.vpage + sizeUnits e.size)

/-- Two entries of one domain overlap (R367). -/
def tlbOverlap (a b : TlbEntry) : Bool :=
  a.dom == b.dom && decide (a.vpage < b.vpage + sizeUnits b.size) && decide (b.vpage < a.vpage + sizeUnits a.size)

/-- Remove the first unpinned entry. -/
def dropUnpinned (l : List TlbEntry) : List TlbEntry :=
  match l with
  | [] => []
  | e :: t => if e.pin then e :: dropUnpinned t else t

/-- An entry put into a level of `cap` entries. Replacement is not specified (R351): the oldest unpinned entry goes; where every
entry is pinned there is no room. -/
def tlbPut (cap : Nat) (l : List TlbEntry) (e : TlbEntry) : Option (List TlbEntry) :=
  if l.length < cap then some (l ++ [e])
  else
    let d := dropUnpinned l
    if d.length < l.length then some (d ++ [e]) else none

/-- A fill of a level after a hit below it, or none where it is discarded (R351): unpinned entries that it overlaps go. -/
def tlbFill (cap : Nat) (l : List TlbEntry) (e : TlbEntry) : Option (List TlbEntry) :=
  tlbPut cap (l.filter (fun x => x.pin || !tlbOverlap x e)) e

/-- An entry that `tlbw` installs at a level (R351, R367): every entry that it overlaps goes. -/
def tlbInstall (cap : Nat) (l : List TlbEntry) (e : TlbEntry) : List TlbEntry :=
  let l := l.filter (fun x => !tlbOverlap x e)
  (tlbPut cap l e).getD l

/-- Who translates: the core (or cluster) whose TLBs serve it, an engine of the cluster, Eland, its domain, privilege. -/
structure Agent where
  core : CoreId
  eng : Option Nat
  eland : Bool
  dom : Nat
  priv : Nat
deriving DecidableEq, Repr

/-- The agent of a strand. -/
def strandAgent (r : StrandRef) (t : Strand) : Agent := ⟨r.core, none, false, t.dom, privNum t.priv⟩

/-- A lookup through the levels (R350, R351), with the fills of the levels above a hit; one whose fill is discarded is a miss. -/
def tlbLookup (s : State) (g : Agent) (vu : Nat) : Option (TlbEntry × State) :=
  if g.eland then
    -- Eland has no TLB of its own: it finds what the dies' LLTs hold (log 8)
    ((List.range 4).findSome? (fun d => (getDie s d).llt.find? (tlbHit g.dom vu))).map (fun e => (e, s))
  else
    let k := getCore s g.core
    match g.core.kind with
    | .hub | .duiker =>
      match k.tlb.find? (tlbHit g.dom vu) with
      | some e => some (e, s)
      | none =>
        match k.own.find? (tlbHit g.dom vu) with
        | some e => (tlbFill 64 k.tlb e).map (fun l => (e, setCore s g.core { k with tlb := l }))
        | none => none
    | _ =>
      let cl := getClus s g.core.die g.core.clus
      let l1 := match g.eng with
        | none => k.tlb
        | some n => (cl.engTlb.filter (fun (x : Nat × TlbEntry) => x.1 == n)).map (fun x => x.2)
      match l1.find? (tlbHit g.dom vu) with
      | some e => some (e, s)
      | none =>
        let fill (s : State) (e : TlbEntry) : Option (TlbEntry × State) :=
          (tlbFill 64 l1 e).map (fun l => (e, match g.eng with
            | none => updCore s g.core (fun k => { k with tlb := l })
            | some n =>
              let cl := getClus s g.core.die g.core.clus
              setClus s g.core.die g.core.clus
                { cl with engTlb := (cl.engTlb.filter (fun (x : Nat × TlbEntry) => x.1 != n)) ++ l.map (fun y => (n, y)) }))
        match cl.tlb.find? (tlbHit g.dom vu) with
        | some e => fill s e
        | none =>
          match (getDie s g.core.die).llt.find? (tlbHit g.dom vu) with
          | some e =>
            (tlbFill 2048 cl.tlb e).bind (fun l => fill (setClus s g.core.die g.core.clus { cl with tlb := l }) e)
          | none => none

/-- The ports of the capacity tier, rising: 1, 2, 4 or 8 with devices of one capacity; else the tier is unused (R392). -/
def tierPorts (s : State) : List Nat :=
  if [1, 2, 4, 8].contains s.cxl.length && s.cxl.all (fun d => some d.2 == (s.cxl.head?).map (fun x => x.2)) then s.cxl.map (fun d => d.1) else []

/-- Bytes of the capacity tier, at most 4 TiB (R392). -/
def tierBytes (s : State) : Nat := min (2 ^ 42) ((tierPorts s).length * ((s.cxl.head?).map (fun x => x.2)).getD 0)

/-- Memory stands at a page-frame address (R129, R392). -/
def frameExists (s : State) (pa : Nat) : Bool :=
  decide (pa < 0x6000000000) || (decide (0x8000000000 ≤ pa) && decide (pa < 0x8000000000 + tierBytes s))

/-- The address lies on a device that has been withdrawn: every access to it is answered poisoned (R392). The tier is interleaved
over its ports in units of 4 KiB. -/
def tierDead (s : State) (pa : Nat) : Bool :=
  decide (0x8000000000 ≤ pa) && (match (tierPorts s)[(pa / 4096) % (tierPorts s).length]? with
    | some p => s.cxlFailed.contains p
    | none => false)

/-- The page-frame address of a virtual address under an entry. -/
def paOf (e : TlbEntry) (va : Word) : Nat := e.frame + (va.toNat - e.vpage * 65536)

/-- The die and home slice of a line (R129). -/
def homeOf (pa : Nat) : Nat × Nat := ((pa / 2 ^ 13) % 4, (pa / 2 ^ 12) % 2 * 8 + (pa / 2 ^ 15) % 8)

/-- The access-table entry of a target for a domain (R342). -/
def accessBits (s : State) (cls inst dom : Nat) : BitVec 4 := (aget s.access (cls, inst, dom)).getD 0

/-- The home slice of a line admits the access of a domain (R388). -/
def homeAdmits (s : State) (pa dom : Nat) (a : Acc) : Bool :=
  let (d, sl) := homeOf pa
  let b := accessBits s 0 (d * 16 + sl) dom
  match a with | .load => b.getLsbD 0 | .store => b.getLsbD 1 | .atomic => b.getLsbD 2

/-- A window of the generic address space (R122). -/
inductive Win where
  | global
  | spad (c : CoreId) (own : Bool) (off : Nat)
  | unmapped
deriving DecidableEq, Repr

/-- The window of an address for a core of a kind (R122, R125). -/
def windowOf (k : CoreId) (va : Word) : Win :=
  let a := va.toNat
  if a < 2 ^ 56 then .global
  else if 0xFF00000000000000 ≤ a ∧ a < 0xFF00000000200000 then .spad k true (a - 0xFF00000000000000)
  else if 0xFF10000000000000 ≤ a ∧ a < 0xFF10000002000000 then
    match k.kind with
    | .compute | .markhor =>
      .spad (computeId k.die k.clus ((a - 0xFF10000000000000) / 0x200000)) false ((a - 0xFF10000000000000) % 0x200000)
    | _ => .unmapped
  else .unmapped

/-- A window's bytes left from an address (R126). -/
def windowRoom (k : CoreId) (va : Word) : Nat :=
  match windowOf k va with
  | .global => 2 ^ 56 - va.toNat
  | .spad _ _ off => 0x200000 - off
  | .unmapped => 0

/-- Faults of a scratchpad or cluster-window extent (R123, R124), neighbour first. -/
def spadFault (s : State) (dom : Nat) (c : CoreId) (own : Bool) (off n : Nat) : Option Cause :=
  let x := getCore s c
  if !own && (x.failed || x.dom != some dom || x.wordCycle == some s.cycle || x.leaving) then some .neighbourUnavailable
  else if spadSize c x < off + n then some .scratchpadBeyondPartition
  else none

/-- R353 permission of an entry, as the cause of a denial. -/
def permFault (e : TlbEntry) (priv : Nat) (a : Acc) : Option Cause :=
  match a with
  | .load => if priv < e.priv ∨ e.r = false then some .permissionRead else none
  | .store => if priv < e.priv ∨ e.w = false then some .permissionWrite else none
  | .atomic => if priv < e.priv ∨ e.r = false then some .permissionRead
               else if e.w = false then some .permissionWrite else none

/-- R354 access code of a core access. -/
def accCode (a : Acc) : Nat := match a with | .load => 0 | .store => 1 | .atomic => 2

/-- Items 6 to 8 of R133 for a global access of a strand: the page-frame address. -/
def locatePage (s : State) (r : StrandRef) (t : Strand) (va : Word) (a : Acc) : Except Stop (Nat × State) :=
  let vu := va.toNat / 65536
  let wr := a != .load
  if t.absent.contains vu then .error (.page .pageNotPresent va wr false)
  else
    match tlbLookup s (strandAgent r t) vu with
    | none =>
      if t.shadow.isSome then .error (.page .pageNotPresent va wr false)
      else match r.core.kind with
        | .compute => .error (.miss va (accCode a))
        | _ => .error (.page .pageNotPresent va wr false)
    | some (e, s) =>
      if e.loc = 2 then .error (.page .pageNotPresent va wr false)
      else match permFault e (privNum t.priv) a with
        | some c => .error (.trap c 0 va)
        | none =>
          if e.loc = 1 then .error (.page .pageNotLocal va wr false)
          else
            let pa := paOf e va
            if frameExists s pa then .ok (pa, s) else .error (.hole pa)

/-- A global access of a strand located: items 6 to 9 of R133 (the access table of a load is checked where it is read). -/
def locateGlobal (s : State) (r : StrandRef) (t : Strand) (va : Word) (a : Acc) : Except Stop (Nat × State) :=
  match locatePage s r t va a with
  | .error e => .error e
  | .ok (pa, s) => if a != .load && !homeAdmits s pa t.dom a then .error (.trap .accessTableDenied 0 va) else .ok (pa, s)

/-- The watchpoint of the strand's domain that the access matches (R340). -/
def watchHit (s : State) (t : Strand) (va : Word) (a : Acc) : Option Nat :=
  let d := getDom s t.dom
  let hit (w : Word) : Bool :=
    w.toNat / 64 == va.toNat / 64 && (match a with
      | .load => w.getLsbD 0 | .store => w.getLsbD 1 | .atomic => w.getLsbD 0 || w.getLsbD 1)
  if hit (d.wpt[0]) then some 0 else if hit (d.wpt[1]) then some 1 else none

/-- The place of an access of `n` bytes aligned to `al` (R133 items 2 to 9, then R340's watchpoints; the access table of a load,
item 9, is checked where it reads, after them: log 12 DESIGN CHOICE). -/
def locate (s : State) (r : StrandRef) (t : Strand) (va : Word) (n al : Nat) (a : Acc) : Except Stop (Loc × State) := do
  let w := windowOf r.core va
  if w = .unmapped then throw (.trap .windowUnmapped 0 va)
  if va.toNat % al ≠ 0 then throw (.trap .misaligned 0 va)
  if windowRoom r.core va < n then throw (.trap .windowCrossing 0 va)
  let (loc, s) ← match w with
    | .spad c own off =>
      match spadFault s t.dom c own off n with
      | some f => throw (.trap f 0 va)
      | none => pure (Loc.spad c off, s)
    | _ => do
      let (pa, s) ← locateGlobal s r t va a
      pure (Loc.mem pa, s)
  match watchHit s t va a with
  | some k => throw (.trap .watchpoint (BitVec.ofNat 64 (k + (if a = .load then 0 else 256))) va)
  | none => pure (loc, s)

end Sys2Proof.Machine
end

