-- ==== Sys2Proof/Machine/Memory.lean ====
section
/-! DEFINITION. Reading and writing storage: 64-byte blocks with poison (R134), the L1 and the cluster cache
(R130, R131, R240), a strand's own posted writes (R132), atomics (R143–R149), table invalidation (R303), data errors
(R135, R389). -/

namespace Sys2Proof.Machine

/-- A 64-byte block: 64 bytes and a poison bit per 8-byte word (all alike for a memory line). -/
structure Block where
  bytes : List Byte
  pois : BitVec 8
deriving DecidableEq, Repr

/-- Block number of a place: scratchpad offset or page-frame address divided by 64. -/
def blockOf (l : Loc) : Loc := match l with | .spad c o => .spad c (o / 64) | .mem a => .mem (a / 64)
/-- Byte within the block. -/
def blockOff (l : Loc) : Nat := match l with | .spad _ o => o % 64 | .mem a => a % 64
/-- A place further on. -/
def locAdd (l : Loc) (n : Nat) : Loc := match l with | .spad c o => .spad c (o + n) | .mem a => .mem (a + n)
/-- The place is package memory. -/
def Loc.isMem (l : Loc) : Bool := match l with | .spad _ _ => false | .mem _ => true

/-- A line's bytes. -/
def lineBytes (x : Line) : List Byte := leBytes 64 x.toNat
/-- The line of 64 bytes. -/
def bytesLine (l : List Byte) : Line := BitVec.ofNat 512 (leNat l)

/-- Poison bits of the words of a scratchpad block. -/
def spadPoisBits (x : Core) (b : Nat) : BitVec 8 :=
  (List.range 8).foldl (fun (p : BitVec 8) i => if setHas x.spadPois (8 * b + i) then p ||| (1#8 <<< i) else p) 0

/-- The bytes at the home slice, with the error that the read meets (R135, R389); a bad line becomes poisoned. A withdrawn device of
the capacity tier answers poisoned (R392). -/
def homeRead (s : State) (ln : Nat) : Block × Option Cause × State :=
  let bytes := memBytes s.mem (64 * ln) 64
  if tierDead s (64 * ln) then (⟨bytes, 0xFF#8⟩, none, s)
  else match aget s.memBad ln with
    | some ck =>
      let c := if ck then Cause.checkValueMismatch else .uncorrectableData
      (⟨bytes, 0xFF#8⟩, some c,
       logEvent { s with memPois := setIns s.memPois ln, memBad := adel s.memBad ln } (sidOf s.pkg (homeOf (64 * ln)).1 0 0 0 0 0) c ln)
    | none => (⟨bytes, if setHas s.memPois ln then 0xFF#8 else 0#8⟩, none, s)

/-- The errors that an access to words of scratchpad block `b` meets: words that have gone bad among those it uses, and the check
value of the line, whose mismatch poisons all of it (R135, R389). -/
def spadCheck (s : State) (c : CoreId) (b : Nat) (uses : Nat → Bool) : Option Cause × State :=
  let x := getCore s c
  let bad := x.spadBad.filter (fun w => w.1 / 8 == b && (w.2 || uses w.1))
  if bad.isEmpty then (none, s)
  else
    let ck := bad.any (fun w => w.2)
    let e := if ck then Cause.checkValueMismatch else .uncorrectableData
    let ws := if ck then rangeFrom (8 * b) 8 else bad.map (fun w => w.1)
    (some e, logEvent (setCore s c { x with spadBad := x.spadBad.filter (fun w => !bad.contains w), spadPois := ws.foldl setIns x.spadPois })
       (coreSid s c (x.dom.getD 0)) e (64 * b))

/-- The block that holds `n` scratchpad bytes from an offset, with the error of a bad word among them (R135). -/
def spadRead (s : State) (c : CoreId) (o n : Nat) : Block × Option Cause × State :=
  let b := o / 64
  let (e, s) := spadCheck s c b (fun w => decide (o / 8 ≤ w) && decide (w ≤ (o + n - 1) / 8))
  let x := getCore s c
  (⟨memBytes x.spad (64 * b) 64, spadPoisBits x b⟩, e, s)

/-- Poison of a block after bytes are written from an offset: the rules of R134 for words (scratchpad) or the line. -/
def mergePois (isMem : Bool) (pois : BitVec 8) (off : Nat) (l : List (Option (Byte × Bool))) : BitVec 8 :=
  let at_ (i : Nat) : Option (Byte × Bool) := if i < off then none else (l[i - off]?).getD none
  let pbit (i : Nat) : Bool := match at_ i with | some (_, p) => p | none => false
  let wrote (i : Nat) : Bool := (at_ i).isSome
  if isMem then
    if (List.range 64).any pbit then 0xFF#8 else if (List.range 64).all wrote then 0#8 else pois
  else
    (List.range 8).foldl (fun (q : BitVec 8) w =>
      if (rangeFrom (8 * w) 8).any pbit then q ||| (1#8 <<< w)
      else if (rangeFrom (8 * w) 8).all wrote then q &&& ~~~(1#8 <<< w) else q) pois

/-- Bytes merged into a block from an offset. -/
def mergeBytes (isMem : Bool) (b : Block) (off : Nat) (l : List (Option (Byte × Bool))) : Block :=
  let at_ (i : Nat) : Option (Byte × Bool) := if i < off then none else (l[i - off]?).getD none
  let bytes := (List.range 64).map (fun i => match at_ i with
    | some (x, _) => x
    | none => (b.bytes[i]?).getD 0)
  ⟨bytes, mergePois isMem b.pois off l⟩

/-- Offset in the core's scratchpad window of a table source row. -/
def rowOff (t : Table) (r : Nat) : Nat := (t.src + BitVec.ofNat 64 r * t.stride - 0xFF00000000000000#64).toNat
/-- Bytes of a source row (R299). -/
def rowLen (mode : Bool) : Nat := if mode then 128 else 32
/-- A write of `n` bytes at a scratchpad offset touches the watched set of a source (R303). -/
def watchesAt (src stride : Word) (mode : Bool) (off n : Nat) : Bool :=
  decide (0 < n) && (List.range 32).any (fun r =>
    let o := (src + BitVec.ofNat 64 r * stride - 0xFF00000000000000#64).toNat
    decide (o / 1024 ≤ (off + n - 1) / 1024) && decide (off / 1024 ≤ (o + rowLen mode - 1) / 1024))

/-- Words 0 and 1 of a LOOK command: function and mode. -/
def engFn (c : EngCmd) : Nat := (c.w0.toNat / 16) % 32

/-- A write touches the watched set of a slot's record (R303). -/
def tabHit (t : Table) (off n : Nat) : Bool := t.recd && watchesAt t.src t.stride t.mode off n

/-- Tables watched by a write are invalidated with cause WRITTEN; queued `lbld` commands and the rebuild under way note it (R303,
R304). -/
def tableWrite (x : Core) (off n cycle : Nat) : Core :=
  let hits := x.strands.flatMap (fun y => (y.2.tabs.zipIdx.filter (fun t => tabHit t.1 off n)).map (fun t => ((y.2.uid, t.2), cycle)))
  { x with
    strands := x.strands.map (fun y => (y.1, { y.2 with tabs := y.2.tabs.map (fun t => if tabHit t off n then { t with st := .written } else t) })),
    kuduq := x.kuduq.map (fun q =>
      let rebuilt := match q.build with | some (k, _) => hits.any (fun h => h.1 == (q.who.uid, k)) | none => false
      if rebuilt || (engFn q = 0 && watchesAt q.a q.b (q.w1.getLsbD 21) off n) then { q with hit := true } else q),
    tabHits := x.tabHits.filter (fun h => h.2 == cycle) ++ hits }

/-- The bytes of a written list. -/
def justBytes (l : List (Option (Byte × Bool))) : List (Option Byte) := l.map (fun x => x.map (fun y => y.1))

/-- Bytes written within one block of a scratchpad, at offset `o`: bytes, poison, dirty bits (R338), tables. -/
def spadPut (s : State) (c : CoreId) (o : Nat) (bs : List (Option (Byte × Bool))) : State :=
  let x := getCore s c
  let p := mergePois false (spadPoisBits x (o / 64)) (o % 64) bs
  let pois := (List.range 8).foldl (fun (l : NatSet) i =>
    if p.getLsbD i then setIns l (8 * (o / 64) + i) else setDel l (8 * (o / 64) + i)) x.spadPois
  let whole (w : Nat) : Bool := (rangeFrom (8 * w) 8).all (fun i => decide (o ≤ i) && ((bs[i - o]?).getD none).isSome)
  let x := { x with spad := memStoreSome x.spad o (justBytes bs), spadPois := pois, spadBad := x.spadBad.filter (fun w => !whole w.1), dirty := setIns x.dirty (o / 1024) }
  setCore s c (tableWrite x o bs.length s.cycle)

/-- The home's poison of a line. -/
def linePois (s : State) (ln : Nat) : BitVec 8 := if setHas s.memPois ln || tierDead s (64 * ln) then 0xFF#8 else 0#8

/-- The stores of a cluster that have passed its cache and not reached line `ln`'s home slice, in passing order (R131). -/
def passedOn (s : State) (d k ln : Nat) : List PWrite :=
  sortBy (fun p q => decide (p.passed < q.passed)) (s.pend.filter (fun p =>
    p.passed != 0 && p.ref.core.die == d && p.ref.core.clus == k && (match p.loc with | .mem a => a / 64 == ln | .spad _ _ => false)))

/-- A block with the bytes of posted stores on its line merged in turn. -/
def mergeStores (b : Block) (l : List PWrite) : Block :=
  l.foldl (fun b p => match p.work with | .store bs => mergeBytes true b (blockOff p.loc) bs | .atomic _ _ _ _ _ => b) b

/-- Cluster caches that filled the line in this cycle hold what its home slice holds at the end of the cycle (R131, R240,
log 25), with their own stores on the way. -/
def freshen (s : State) (ln : Nat) : State :=
  { s with clusters := s.clusters.map (fun c => (c.1, match aget c.2.cc ln with
      | some x =>
        if x.fill = s.cycle then
          let b := mergeStores ⟨memBytes s.mem (64 * ln) 64, linePois s ln⟩ (passedOn s c.1.1 c.1.2 ln)
          { c.2 with cc := aset c.2.cc ln ⟨bytesLine b.bytes, b.pois != 0, x.fill, x.bad⟩ }
        else c.2
      | none => c.2)) }

/-- Bytes written within one line of package memory, at address `a`; a withdrawn device takes none (R392). -/
def memPut (s : State) (a : Nat) (bs : List (Option (Byte × Bool))) : State :=
  if tierDead s a then s
  else
    let pois := if mergePois true (linePois s (a / 64)) (a % 64) bs = 0 then setDel s.memPois (a / 64) else setIns s.memPois (a / 64)
    freshen { s with mem := memStoreSome s.mem a (justBytes bs), memPois := pois } (a / 64)

/-- A cached copy of the line updated by a store that passes through (R130, R131): owner core's L1, its cluster cache. A store of
the whole line recomputes the copy's check value; after another the next read verifies it (R389, log 25). -/
def cachePut (s : State) (c : CoreId) (ln : Nat) (whole : Bool) (f : Block → Block) : State :=
  match c.kind with
  | .hub | .duiker => s
  | _ =>
    let up (x : CLine) : CLine :=
      let b := f ⟨lineBytes x.data, if x.pois then 0xFF#8 else 0#8⟩
      ⟨bytesLine b.bytes, b.pois != 0, x.fill, x.bad && !whole⟩
    let s := match aget (getCore s c).l1 ln with
      | some x => updCore s c (fun k => { k with l1 := aset k.l1 ln (up x) })
      | none => s
    match aget (getClus s c.die c.clus).cc ln with
    | some x => let cl := getClus s c.die c.clus; setClus s c.die c.clus { cl with cc := aset cl.cc ln (up x) }
    | none => s

/-- Extent written by a list of optional bytes: first index and length to the last. -/
def extentOf (l : List (Option (Byte × Bool))) : Nat := (l.filter (fun x => x.isSome)).length

/-- A write of a whole block from offset `o` in it. -/
def wholeBlock (o : Nat) (bs : List (Option (Byte × Bool))) : Bool := o % 64 == 0 && extentOf bs == 64

/-- Words that a write at scratchpad offset `o` covers in part. -/
def partWord (o : Nat) (bs : List (Option (Byte × Bool))) (w : Nat) : Bool :=
  let has (i : Nat) : Bool := decide (o ≤ i) && ((bs[i - o]?).getD none).isSome
  (rangeFrom (8 * w) 8).any has && !(rangeFrom (8 * w) 8).all has

/-- Bytes landed at their home within one block (R134, R137), through the caches of `via` when a core stores. -/
def landBytes (s : State) (via : Option CoreId) (l : Loc) (bs : List (Option (Byte × Bool))) : State × Option Cause :=
  if extentOf bs = 0 then (s, none)
  else match l with
    -- a partial write verifies the old line's check first (R389)
    | .spad c o =>
      let (e, s) : Option Cause × State := if wholeBlock o bs then (none, s) else spadCheck s c (o / 64) (partWord o bs)
      (spadPut s c o bs, e)
    | .mem a =>
      let (e, s) : Option Cause × State :=
        if wholeBlock a bs then (none, { s with memBad := adel s.memBad (a / 64) })
        else let (_, e, s) := homeRead s (a / 64); (e, s)
      let s := memPut s a bs
      (match via with
       | some c => cachePut s c (a / 64) (wholeBlock a bs) (fun b => mergeBytes true b (a % 64) bs)
       | none => s, e)

/-- R147: the new word, and the value that `amo.ffcs` returns. -/
def amoOp (fn : Nat) (wide : Bool) (old b c : Nat) (c64 : Nat) : Nat × Word :=
  let w := if wide then 64 else 32
  let m := 2 ^ w
  let o := old % m
  let b := b % m
  let c := c % m
  let keep : Word := 0
  match fn with
  | 0 => ((o + b) % m, keep)
  | 1 => (if sintN w b < sintN w o then b else o, keep)
  | 2 => (if b < o then b else o, keep)
  | 3 => (if sintN w o < sintN w b then b else o, keep)
  | 4 => (if o < b then b else o, keep)
  | 5 => (o &&& b, keep)
  | 6 => (o ||| b, keep)
  | 7 => (o ^^^ b, keep)
  | 8 => (b, keep)
  | 9 => (if o = b then c else o, keep)
  | 10 => ((fadd fmtF32 .rne o b).1, keep)
  | 11 => (fminmax fmtF32 false o b, keep)
  | 12 => (fminmax fmtF32 true o b, keep)
  | 13 => ((o &&& (m - 1 - c)) ||| (b &&& c), keep)
  | 14 =>
    match lowBit w (b &&& (m - 1 - o)) 0 with
    | none => (o, ~~~(0#64))
    | some i => (o ||| 2 ^ i, BitVec.ofNat 64 i)
  | _ => (if popN w (o ||| b) ≤ c64 then o ||| b else o, keep)

/-- D of a returning atomic (R147). -/
def amoRet (fn : Nat) (wide : Bool) (old : Nat) (ret : Word) : Word :=
  if fn = 14 then ret
  else if wide then BitVec.ofNat 64 old
  else if fn = 2 ∨ fn = 4 ∨ fn = 10 ∨ fn = 11 ∨ fn = 12 then BitVec.ofNat 64 (old % 2 ^ 32)
  else sextN 32 old

/-- The strand's posted writes and openers: number of distinct groups outstanding (R132). -/
def outstanding (s : State) (uid : Nat) : Nat :=
  ((s.pend.filter (fun p => p.uid == uid)).map (fun p => p.grp)).dedup.length

/-- Split bytes at 64-byte blocks: pieces of a posted store. -/
def splitBlocks (l : Loc) (bs : List (Option (Byte × Bool))) (fuel : Nat := 4) : List (Loc × List (Option (Byte × Bool))) :=
  match fuel with
  | 0 => []
  | k + 1 =>
    match bs with
    | [] => []
    | _ :: _ =>
      let m := 64 - blockOff l
      (l, bs.take m) :: splitBlocks (locAdd l m) (bs.drop m) k

/-- Post a store (R137): it lands at STORE_ARRIVAL. -/
def postStore (s : State) (r : StrandRef) (t : Strand) (floor floorC grp : Nat) (va : Word) (l : Loc)
    (bs : List (Option (Byte × Bool))) : State :=
  (splitBlocks l bs).foldl (fun s p =>
    if extentOf p.2 = 0 then s
    else
      let (q, s) := fresh s
      { s with pend := s.pend ++ [⟨q, grp, r, t.uid, floor, t.pc, va, p.1, .store p.2, floorC, 0⟩] }) s

end Sys2Proof.Machine
end

