-- ==== Sys2Proof/Machine/Message.lean ====
section
/-! DEFINITION. The device's own accesses to a domain's memory (R406), translation misses (R354), posting messages
(R173, R181), reports (R165–R167) and the channel table (R156–R158). -/

namespace Sys2Proof.Machine

/-- Why a device access does not happen: it waits on a miss, or it meets a fault. -/
inductive DevErr where
  | miss
  | fault (c : Cause)
deriving DecidableEq, Repr

/-- A message posted from a core; it is placed at MESSAGE_ARRIVAL. -/
def postMsg (s : State) (uid : Nat) (m : Msg) (dom : Nat) (floor : Nat) (src : CoreId) : State :=
  let (i, s) := fresh s
  { s with flight := s.flight ++ [⟨i, uid, m, dom, false, none, floor, src, false, none, 0⟩] }

/-- A device's own message posted: a trap message, an announcement, a miss message, a slot's result, or, with `rep`, a report
(R167). No filter stands in its way (log 69). -/
def postDev (s : State) (uid : Nat) (m : Msg) (dom : Nat) (rep : Bool) (floor : Nat) (src : CoreId) : State :=
  let (i, s) := fresh s
  { s with flight := s.flight ++ [⟨i, uid, m, dom, rep, none, floor, src, true, none, 0⟩] }

/-- Four doublewords as a payload, the first lowest (R19). -/
def payload4 (a b c d : Word) : BitVec 256 := d ++ c ++ b ++ a

/-- Doubleword `i` of a payload. -/
def payWord (p : BitVec 256) (i : Nat) : Word := p.extractLsb' (64 * i) 64

/-- Saturating increment of a 64-bit counter (R320). -/
def satInc (w : Word) : Word := if w = ~~~(0#64) then w else w + 1

/-- A failure that no message reports: counted in lostrep and logged (R167). -/
def lostReport (s : State) (dom : Nat) (who : Word) (c : Cause) (data : Nat) : State :=
  let d := getDom s dom
  logEvent (setDom s dom { d with lostrep := satInc d.lostrep }) who c data

/-- A translation miss started or joined in a cluster (R354): its token, or none when it is answered absent at once. `dev` is the
key of the device or engine requester that waits. -/
def startMiss (s : State) (die clus dom : Nat) (requester va : Word) (acc : Nat) (dev : Option Nat) : Option (BitVec 32) × State :=
  let cl := getClus s die clus
  let vu := va.toNat / 65536
  match cl.misses.find? (fun m => m.dom == dom && m.vunit == vu) with
  | some m =>
    (some m.token, setClus s die clus { cl with misses := cl.misses.map (fun x =>
      if x.token = m.token then { x with devs := x.devs ++ (dev.toList.filter (fun k => !x.devs.contains k)) } else x) })
  | none =>
    if cl.missch = 0 then (none, logEvent s requester .pageNotPresent va.toNat)
    else
      let d := getDie s die
      let n := d.tokens % (2 ^ 30 - 1) + 1
      let token := BitVec.ofNat 32 (die * 2 ^ 30 + n)
      let s := setDie s die { d with tokens := n }
      let s := setClus s die clus { cl with misses := cl.misses ++ [⟨token, dom, vu, now s, dev.toList⟩] }
      let m : Msg := ⟨payload4 va requester (BitVec.ofNat 64 acc) (token.setWidth 64), now s, requester, cl.missch, false, 0, false⟩
      (some token, postDev s 0 m dom false 0 (computeId die clus 0))

/-- The answer of an absent page that a requester's miss has brought (R354), used up when it is met. -/
def takeAbsent (s : State) (die clus dom vu key : Nat) : Option State :=
  let cl := getClus s die clus
  if cl.absent.contains (dom, vu, key) then
    some (setClus s die clus { cl with absent := cl.absent.filter (fun x => x != (dom, vu, key)) })
  else none

/-- The requester key of a device agent of a core; those of copy commands are larger than 2^64 (R354). -/
def agentKey (g : Agent) : Nat := let (d, k, n) := placeOf g.core; d * 256 + k * 16 + n

/-- A device access translated (R406), at the page-frame address. A miss of a device agent that is no copy engine carries the
identity word of copy engine 0 of its cluster (log 66). An access to a channel table (`tab`) is served as an engine read, whatever
it does, and for Eland too, which has the miss message sent in cluster 0 of die 0 (R158, log 66). -/
def devXlate (s : State) (g : Agent) (va : Word) (a : Acc) (tab : Bool := false) : Except (DevErr × State) (Nat × State) :=
  let at_ : CoreId := if g.eland then computeId 0 0 0 else g.core
  let vu := va.toNat / 65536
  if 2 ^ 56 ≤ va.toNat then .error (.fault .windowUnmapped, s)
  else match tlbLookup s g vu with
    | none =>
      if (if g.eland then !tab else g.core.kind != .compute) then .error (.fault .pageNotPresent, s)
      else
        match takeAbsent s at_.die at_.clus g.dom vu (agentKey g) with
        | some s => .error (.fault .pageNotPresent, s)
        | none =>
          match startMiss s at_.die at_.clus g.dom (if g.eland then fabricSid s s.fab g.dom else engineSid s g.core 0 g.dom) va
              (if a = .load ∨ tab then 4 else 5) (some (agentKey g)) with
          | (none, s) => .error (.fault .pageNotPresent, s)
          | (some _, s) => .error (.miss, s)
    | some (e, s) =>
      if e.loc = 2 then .error (.fault .pageNotPresent, s)
      else match permFault e g.priv a with
        | some c => .error (.fault c, s)
        | none =>
          if e.loc = 1 then .error (.fault .pageNotLocal, s)
          else
            let pa := paOf e va
            if frameExists s pa then .ok (pa, s) else .error (.fault .uncorrectableData, s)

/-- A device read of bytes within one page: served at home; a data error is a fault (R407, R162). -/
def devRead (s : State) (g : Agent) (va : Word) (n : Nat) (tab : Bool := false) : Except (DevErr × State) (List Byte × Bool × State) :=
  match devXlate s g va .load tab with
  | .error x => .error x
  | .ok (pa, s) =>
    let lines := rangeFrom (pa / 64) ((pa + n - 1) / 64 + 1 - pa / 64)
    let (err, p, s) := lines.foldl (fun (z : Option Cause × Bool × State) ln =>
      let (b, e, s) := homeRead z.2.2 ln
      ((match z.1 with | some c => some c | none => e), z.2.1 || b.pois != 0, s)) (none, false, s)
    match err with
    | some c => .error (.fault c, s)
    | none => .ok (memBytes s.mem pa n, p, s)

/-- A device write of bytes within one page, line by line at home. -/
def devStore (s : State) (pa : Nat) (l : List Byte) : State :=
  (splitBlocks (.mem pa) (l.map (fun b => some (b, false))) 80).foldl (fun s p => (landBytes s none p.1 p.2).1) s

/-- A device write of one line, with poison (R134). -/
def devWriteP (s : State) (g : Agent) (va : Word) (l : List (Byte × Bool)) : Except (DevErr × State) State :=
  match devXlate s g va .store with
  | .error x => .error x
  | .ok (pa, s) => .ok (landBytes s none (.mem pa) (l.map some)).1

/-- A device write of bytes within one page. -/
def devWrite (s : State) (g : Agent) (va : Word) (l : List Byte) : Except (DevErr × State) State :=
  match devXlate s g va .store with
  | .error x => .error x
  | .ok (pa, s) => .ok (devStore s pa l)

/-- Eland as an agent of a domain at privilege S (R406, log 8). -/
def elandAgent (dom priv : Nat) : Agent := ⟨duikerId, none, true, dom, priv⟩

/-- The base and the log of an area CSR (R321). -/
def areaBase (w : Word) : Nat := bitsOf w 12 44 * 4096
/-- R321. -/
def areaLog (w : Word) : Nat := bitsOf w 0 5

/-- A message record of 64 bytes (R165). -/
def msgRecord (m : Msg) (c : Cause) (seq : Nat) : List Byte :=
  leBytes 32 m.payload.toNat ++ leBytes 8 m.stime ++ word8 m.sender ++
    leBytes 8 ((m.handle.toNat / 65536) * 65536 + (if m.sc then 256 else 0) + causeCode c) ++ leBytes 8 seq

/-- The message of a record. Bits of its seventh doubleword that R165 leaves zero, and a report's CAUSE, are not looked at
(log 81 DESIGN CHOICE). -/
def recordMsg (l : List Byte) : Msg :=
  let h := wordAt l 6
  ⟨BitVec.ofNat 256 (leNat (l.take 32)), (wordAt l 4).toNat, wordAt l 5,
   BitVec.ofNat 64 ((h.toNat / 65536) * 65536), h.getLsbD 8, (wordAt l 7).toNat, false⟩

/-- The next report-log entry written (R166, R407): its address, 0 when there is no log or the write fails. -/
def writeLog (s : State) (dom : Nat) (rec : List Byte) : Word × State :=
  let d := getDom s dom
  if areaBase d.replog = 0 then (0, s)
  else
    let n := d.logPos % 2 ^ areaLog d.replog
    let a := BitVec.ofNat 64 (areaBase d.replog + 64 * n)
    match devWrite s (elandAgent dom 1) a rec with
    | .error (e, s) => (0, logEvent s (elandSid s dom) (match e with | .miss => .pageNotPresent | .fault c => c) a.toNat)
    | .ok s => let d := getDom s dom; (a, setDom s dom { d with logPos := (n + 1) % 2 ^ areaLog d.replog })

/-- A report to a domain (R166): the log record with its cause, then the message on repch with s17 and s19 as given by
the rule that makes it (`s19` none: the record's address). -/
def reportWith (s : State) (dom : Nat) (c : Cause) (m : Msg) (s17 : Word) (s19 : Option Word) (log : Bool) : State :=
  let (a, s) := if log then writeLog s dom (msgRecord m c 0) else (0, s)
  let d := getDom s dom
  let s16 := BitVec.ofNat 64 ((d.repseq.toNat % 2 ^ 32) * 2 ^ 32 + causeCode c)
  let s := setDom s dom { d with repseq := d.repseq + 1 }
  if d.repch = 0 then lostReport s dom m.sender c s17.toNat
  else
    let r : Msg := ⟨payload4 s16 s17 (BitVec.ofNat 64 (now s)) (s19.getD a), m.stime, m.sender, d.repch, false, 0, false⟩
    postDev s 0 r dom true 0 duikerId

/-- A message not placed is reported to its sending domain, under the handle that its original send named (R161, R164, R166); a
report itself is only counted (R167). -/
def reportSend (s : State) (f : Flight) (c : Cause) : State :=
  let h := f.named.getD f.m.handle
  if f.rep then lostReport s f.dom f.m.sender c h.toNat
  else reportWith s f.dom c { f.m with handle := h } h none true

/-- A data error of a load, an opener or a store is reported (R135). -/
def reportData (s : State) (dom : Nat) (sid : Word) (c : Cause) (iaddr va : Word) : State :=
  let m : Msg := ⟨payload4 iaddr va 0 0, now s, sid, 0, false, 0, false⟩
  reportWith s dom c m va none true

/-- A data error of a strand's access, if any, reported. -/
def reportDataOpt (s : State) (dom : Nat) (sid : Word) (c : Option Cause) (iaddr va : Word) : State :=
  match c with
  | none => s
  | some c => reportData s dom sid c iaddr va

/-- An asynchronous event report from Duiker (R326). -/
def reportEvent (s : State) (dom : Nat) (c : Cause) (s17 : Word) : State :=
  reportWith s dom c ⟨0, now s, duikerSid s, 0, false, 0, false⟩ s17 none true

/-- Parts of a channel handle (R156). -/
def hGen (h : Word) : Nat := bitsOf h 48 16
/-- R156. -/
def hIdx (h : Word) : Nat := bitsOf h 24 24
/-- R156. -/
def hDom (h : Word) : Nat := bitsOf h 16 8
/-- A handle (R156). -/
def mkHandle (gen idx dom : Nat) : Word := BitVec.ofNat 64 (gen * 2 ^ 48 + idx * 2 ^ 24 + dom * 2 ^ 16)

/-- Bits [15:0] of a handle in a structure the device reads are zero (R156, R3; log 78 DEDUCED). -/
def handleZeros (h : Word) : Bool := bitsOf h 0 16 == 0

/-- A channel table entry (R157). -/
def mkEntry (gen st : Nat) (count relay : Bool) (scope pkg : Nat) (c : CoreId) (cpriv : Nat) : Word :=
  let (d, k, n) := placeOf c
  BitVec.ofNat 64 (gen * 2 ^ 48 + st * 2 ^ 46 + (if count then 2 ^ 45 else 0) + (if relay then 2 ^ 44 else 0) +
    scope * 2 ^ 42 + pkg * 2 ^ 30 + d * 2 ^ 28 + k * 2 ^ 24 + n * 2 ^ 20 + kindCode c.kind * 2 ^ 16 + cpriv * 2 ^ 14)

/-- STATE of an entry (R157). -/
def entState (e : Word) : Nat := bitsOf e 46 2
/-- The home core of an entry (R157). -/
def entHome (e : Word) : Option CoreId :=
  coreOfPlaces (BitVec.ofNat 64 (bitsOf e 28 2 * 2 ^ 50 + bitsOf e 24 4 * 2 ^ 46 + bitsOf e 20 4 * 2 ^ 42 + bitsOf e 16 4 * 2 ^ 24))

/-- Address of an entry of a domain's table; none while chtab is unset or the index lies outside (R157). -/
def entAddr (s : State) (dom idx : Nat) : Option Word :=
  let w := (getDom s dom).chtab
  if areaBase w = 0 ∨ 2 ^ areaLog w ≤ idx then none else some (BitVec.ofNat 64 (areaBase w + 8 * idx))

/-- An entry read from memory; an entry that does not exist reads free (R157–R159). -/
def entRead (s : State) (g : Agent) (dom idx : Nat) : Except (DevErr × State) (Word × State) :=
  match entAddr s dom idx with
  | none => .ok (0, s)
  | some a =>
    match devRead s { g with dom := dom, priv := 1 } a 8 true with
    | .error x => .error x
    | .ok (l, _, s) => .ok (leWord l, s)

/-- Bytes written by an engine or another package's agent, line by line; an error of an old line is reported to its domain (R389). -/
def landAll (s : State) (dom : Nat) (sid va : Word) (l : Loc) (bs : List (Byte × Bool)) : State :=
  (splitBlocks l (bs.map some) (bs.length / 64 + 2)).foldl (fun s p =>
    let (s, e) := landBytes s none p.1 p.2
    reportDataOpt s dom sid e 0 va) s

/-- An entry written by the device: a domain-scope atomic at the HAU (R158). -/
def entWrite (s : State) (g : Agent) (dom idx : Nat) (e : Word) : Except (DevErr × State) State :=
  match entAddr s dom idx with
  | none => .ok s
  | some a =>
    match devXlate s { g with dom := dom, priv := 1 } a .atomic true with
    | .error x => .error x
    | .ok (pa, s) => .ok (landAll s dom (elandSid s dom) a (.mem pa) ((word8 e).map (fun b => (b, false))))

/-- After a JMU arrival, a ready tag or an advancing timeline the core's `idle` strands may go on (R330). -/
def wakeCore (s : State) (c : CoreId) : State :=
  updCore s c (fun k => { k with strands := k.strands.map (fun y => (y.1, match y.2.status with
    | .waiting (.idle _) => { y.2 with status := .waiting (.idle 0) }
    | _ => y.2)) })

end Sys2Proof.Machine
end

