-- ==== Sys2Proof/Machine/Access.lean ====
section
/-! DEFINITION. Accesses of cores to storage on the way through the caches: when a posted write may pass its cluster's
cache and when it lands (R131, R132, R137, R239, R245), reads (R130, R131, R240, R247) with a strand's own writes (R132),
and atomics at their execution points (R143–R149). -/

namespace Sys2Proof.Machine

/-- Two extents overlap. -/
def locOverlap (a : Loc) (n : Nat) (b : Loc) (m : Nat) : Bool :=
  match a, b with
  | .mem x, .mem y => decide (x < y + m) && decide (y < x + n)
  | .spad c x, .spad d y => c == d && decide (x < y + m) && decide (y < x + n)
  | _, _ => false

/-- Bytes that a posted write covers. -/
def pwLen (p : PWrite) : Nat :=
  match p.work with
  | .store l => l.length
  | .atomic _ w _ _ _ => if w then 8 else 4

/-- An opener touches the extent. -/
def openerTouches (o : Opener) (l : Loc) (n : Nat) : Bool :=
  match o.work with
  | .div _ _ _ => false
  | .ld a _ m _ => locOverlap a m l n
  | .amo a _ _ w _ _ _ => locOverlap a (if w then 8 else 4) l n
  | .vld els eb _ _ => els.any (fun e => match e with | some (a, _) => locOverlap a eb l n | none => false)

/-- An outstanding opener of the strand on the extent: a later read of it waits (R132, R149). -/
def openerOn (t : Strand) (l : Loc) (n : Nat) : Bool := t.openers.any (fun o => openerTouches o l n)

/-- The core has an L1 and a cluster cache (R125, R131). -/
def cached (c : CoreId) : Bool := match c.kind with | .compute | .markhor => true | .hub | .duiker => false

/-- A posted write has reached the point of a scope (R239): at core and cluster scope a store that has passed the cluster
cache, at wider scopes none that is still posted. -/
def reached (scope : Nat) (p : PWrite) : Bool := decide (scope ≤ 1) && p.passed != 0

/-- The accesses below a floor are done at a scope (R239, R242, R245): the strand's posted writes, its messages, its
openers; at package scope and wider also the stores of its cluster that had passed the cluster cache before, which it may
have read or acquired. -/
def belowDone (s : State) (c : CoreId) (uid floor : Nat) (os : List Opener) (scope : Nat) : Bool :=
  !(s.pend.any (fun p => p.uid == uid && decide (p.seq < floor) && !reached scope p)) &&
  !((s.flight ++ s.away).any (fun f => f.uid == uid && decide (f.id < floor))) &&
  !(os.any (fun o => decide (o.id < floor))) &&
  (decide (scope ≤ 1) || !(s.pend.any (fun p => p.passed != 0 && decide (p.passed < floor) && p.ref.core.die == c.die && p.ref.core.clus == c.clus)))

/-- The strand's earlier reads are done (R239, R245): its openers, and its posted atomics, which count as reads too. -/
def readsDone (s : State) (t : Strand) : Bool :=
  t.openers.isEmpty && !(s.pend.any (fun p => p.uid == t.uid && (match p.work with | .atomic _ _ _ _ _ => true | .store _ => false)))

/-- The openers of the strand that owns a write. -/
def ownOpeners (s : State) (uid : Nat) : List Opener := match findUid s uid with | some (_, t) => t.openers | none => []

/-- What a posted write waits for wherever it goes (R132, R149, R245): its floors, and the strand's earlier openers on the
same bytes, which still read them. -/
def writeFree (s : State) (p : PWrite) : Bool :=
  let os := ownOpeners s p.uid
  belowDone s p.ref.core p.uid p.floor os 2 && belowDone s p.ref.core p.uid p.floorC os 1 &&
  !(os.any (fun o => decide (o.id < p.seq) && openerTouches o p.loc (pwLen p)))

/-- A posted store may pass its cluster's cache (R131): no earlier write of the strand on the same bytes is behind it. -/
def canPass (s : State) (p : PWrite) : Bool :=
  p.passed == 0 && cached p.ref.core && p.loc.isMem && (match p.work with | .store _ => true | .atomic _ _ _ _ _ => false) &&
  writeFree s p &&
  !(s.pend.any (fun q => q.uid == p.uid && decide (q.seq < p.seq) && q.passed == 0 && locOverlap q.loc (pwLen q) p.loc (pwLen p)))

/-- A posted write may land (R132, R149, R245): no earlier write of the strand on the same bytes, and no store of its cluster
on them that passed the cluster cache before it, is outstanding. -/
def canLand (s : State) (p : PWrite) : Bool :=
  writeFree s p &&
  !(s.pend.any (fun q => q.seq != p.seq && locOverlap q.loc (pwLen q) p.loc (pwLen p) &&
      ((q.uid == p.uid && decide (q.seq < p.seq)) ||
       (q.passed != 0 && (p.passed == 0 || decide (q.passed < p.passed)) && q.ref.core.die == p.ref.core.die && q.ref.core.clus == p.ref.core.clus))))

/-- The domain and identity word of a posted write's owner, for reports. -/
def ownerOf (s : State) (p : PWrite) : Nat × Word :=
  match findUid s p.uid with
  | some (r, t) => (t.dom, strandSid s r t.dom)
  | none => let d := ((getCore s p.ref.core).dom).getD 0; (d, strandSid s p.ref d)

/-- A posted store passes its cluster's cache: present copies are updated (R130, R131). -/
def passStore (s : State) (p : PWrite) : State :=
  match p.work, p.loc with
  | .store bs, .mem a =>
    let (n, s) := fresh s
    let s := { s with pend := s.pend.map (fun q => if q.seq = p.seq then { q with passed := n } else q) }
    cachePut s p.ref.core (a / 64) (wholeBlock a bs) (fun b => mergeBytes true b (a % 64) bs)
  | _, _ => s

/-- A posted store applied at its home (R137); an error of the old line is reported (R135, R389). -/
def landStore (s : State) (p : PWrite) : State :=
  match p.work with
  | .store bs =>
    let (dom, sid) := ownerOf s p
    let (s, e) := landBytes { s with pend := s.pend.filter (fun q => q.seq != p.seq) } (if p.passed = 0 then some p.ref.core else none) p.loc bs
    reportDataOpt s dom sid e p.iaddr p.va
  | .atomic _ _ _ _ _ => s

/-- The stores of a cluster that have passed its cache on a line reach the home slice before what the cluster sends there
next (R131). -/
def flushLine (s : State) (d k ln : Nat) : State := (passedOn s d k ln).foldl landStore s

/-- A line filled into a cluster's cache from its home slice (R131, R240). -/
def fillCc (s : State) (c : CoreId) (ln : Nat) : Block × Option Cause × State :=
  let (b, e, s) := homeRead (flushLine s c.die c.clus ln) ln
  let cl := getClus s c.die c.clus
  (b, e, setClus s c.die c.clus { cl with cc := aset cl.cc ln ⟨bytesLine b.bytes, b.pois != 0, s.cycle, false⟩ })

/-- The cycle of the core's latest acquire that covers a line of the cluster cache (R239, R240). -/
def acqOf (k : Core) (ln : Nat) : Nat := max k.acq ((aget k.regAcq ln).getD 0)

/-- A copy in a cache as a read finds it: one whose check value does not match is poisoned, and the event logged (R389). -/
def copyRead (s : State) (who : Word) (ln : Nat) (x : CLine) (put : State → CLine → State) : Block × Option Cause × State :=
  if x.bad then (⟨lineBytes x.data, 0xFF#8⟩, some .checkValueMismatch,
                 logEvent (put s { x with pois := true, bad := false }) who .checkValueMismatch ln)
  else (⟨lineBytes x.data, if x.pois then 0xFF#8 else 0#8⟩, none, s)

/-- A line as a core's read finds it. `level` 0 through the L1, 1 from the cluster cache or below, 2 from the home slice
(R130, R131, R240, R247). Cores without caches read at home (R125). -/
def lineRead (s : State) (c : CoreId) (level ln : Nat) : Block × Option Cause × State :=
  let k := getCore s c
  if !cached c then homeRead s ln
  else match (if level = 0 then aget k.l1 ln else none) with
    | some x => copyRead s (coreSid s c (k.dom.getD 0)) ln x (fun s y => updCore s c (fun k => { k with l1 := aset k.l1 ln y }))
    | none =>
      if level = 2 then homeRead (flushLine s c.die c.clus ln) ln
      else
        let (b, err, s) : Block × Option Cause × State :=
          match aget (getClus s c.die c.clus).cc ln with
          | some x =>
            if acqOf k ln ≤ x.fill then
              copyRead s (sidOf s.pkg c.die c.clus 0 0 0 0) ln x
                (fun s y => let cl := getClus s c.die c.clus; setClus s c.die c.clus { cl with cc := aset cl.cc ln y })
            else fillCc s c ln
          | none => fillCc s c ln
        if level = 0 then
          (b, err, updCore s c (fun k => { k with l1 := aset k.l1 ln ⟨bytesLine b.bytes, b.pois != 0, s.cycle, false⟩ }))
        else (b, err, s)

/-- The read will reach the home slice, whose access table then applies (R388). -/
def reachesHome (s : State) (c : CoreId) (level ln : Nat) : Bool :=
  let k := getCore s c
  if !cached c then true
  else if level = 0 && (aget k.l1 ln).isSome then false
  else if level = 2 then true
  else match aget (getClus s c.die c.clus).cc ln with
    | some x => !decide (acqOf k ln ≤ x.fill)
    | none => true

/-- The strand's own posted stores below a sequence that no cache has seen, merged into a block (R132). -/
def ownMerge (s : State) (uid limit : Nat) (blk : Loc) (b : Block) : Block :=
  s.pend.foldl (fun b p =>
    match p.work with
    | .store l => if p.uid = uid ∧ p.seq < limit ∧ p.passed = 0 ∧ blockOf p.loc = blk then mergeBytes p.loc.isMem b (blockOff p.loc) l else b
    | .atomic _ _ _ _ _ => b) b

/-- An own posted atomic still outstanding on the block (R149): a load waits for it. -/
def ownAtomic (s : State) (uid limit : Nat) (l : Loc) (n : Nat) : Bool :=
  s.pend.any (fun p => p.uid == uid && decide (p.seq < limit) && (match p.work with
    | .atomic _ _ _ _ _ => locOverlap p.loc (pwLen p) l n
    | .store _ => false))

/-- The block at a place as a strand's read of `n` bytes finds it. -/
def viewBlock (s : State) (c : CoreId) (uid limit level : Nat) (l : Loc) (n : Nat) : Block × Option Cause × State :=
  let (b, e, s') := match l with
    | .mem a => lineRead s c level (a / 64)
    | .spad k o => spadRead s k o n
  (ownMerge s uid limit (blockOf l) b, e, s')

/-- Poison of `n` bytes at an offset of a block. -/
def poisIn (b : Block) (off n : Nat) : Bool := (rangeFrom off n).any (fun i => b.pois.getLsbD (i / 8))

/-- `n` bytes at a place, with poison and the first error met; blocks are read whole. -/
def readLoc (s : State) (c : CoreId) (uid limit level : Nat) (l : Loc) (n : Nat) (fuel : Nat := 4) :
    List Byte × Bool × Option Cause × State :=
  match fuel with
  | 0 => ([], false, none, s)
  | k + 1 =>
    if n = 0 then ([], false, none, s)
    else
      let off := blockOff l
      let m := if n ≤ 64 - off then n else 64 - off
      let (b, e, s) := viewBlock s c uid limit level l m
      let here := (b.bytes.drop off).take m
      let (rest, p, e', s) := readLoc s c uid limit level (locAdd l m) (n - m) k
      (here ++ rest, poisIn b off m || p, (match e with | some x => some x | none => e'), s)

/-- The CAU or the HAU at which a global atomic of a scope executes (R143, R145); `via` is the issuing core, none for a remote
atomic. -/
def amoUnit (via : Option CoreId) (scope : Nat) : Option (Nat × Nat) :=
  match via with
  | some k => if scope ≤ 1 then some (k.die, k.clus) else if scope = 3 then some (4, 0) else none
  | none => some (4, 0)

/-- The word that a unit's atomic works on, with its poison: what it has read already, else what stands there (R145). -/
def amoOld (s : State) (id : SeenBy) (l : Loc) (now : Nat × Bool) : Nat × Bool :=
  match s.seen.find? (fun x => x.id == id && x.loc == l) with
  | some x => (x.old, x.pois)
  | none => now

/-- Words read ahead at a unit are read again once another of its atomics is applied to them (R145). -/
def unsee (s : State) (unit : Option (Nat × Nat)) (id : SeenBy) (l : Loc) (n : Nat) : State :=
  { s with seen := s.seen.filter (fun x =>
      !(x.id == id && x.loc == l) && !(some x.unit == unit && locOverlap x.loc (if x.wide then 8 else 4) l n)) }

/-- Copies of a line dropped from a core's L1 and its cluster's cache (R149). -/
def dropCopies (s : State) (c : CoreId) (ln : Nat) : State :=
  if cached c then
    let s := updCore s c (fun k => { k with l1 := adel k.l1 ln })
    let cl := getClus s c.die c.clus
    setClus s c.die c.clus { cl with cc := adel cl.cc ln }
  else s

/-- An atomic executed at its point (R143, R147, R149). Answers D's value, its poison, an error met (then nothing is
applied), and the state. `via` is the issuing core, none for a remote atomic. An atomic that executes at the home slice or
the HAU finds no copy of its line in the issuing core's caches afterwards, so the strand's later reads see it (R132). -/
def amoExecute (s : State) (via : Option CoreId) (id : SeenBy) (l : Loc) (fn : Nat) (wide : Bool) (scope : Nat) (b c : Word) :
    Word × Bool × Option Cause × State :=
  let n := if wide then 8 else 4
  let (blk, e, s) := match l with
    | .mem a => homeRead (match via with | some k => flushLine s k.die k.clus (a / 64) | none => s) (a / 64)
    | .spad k o => spadRead s k o n
  match e with
  | some x => (0, true, some x, unsee s none id l n)
  | none =>
    let off := blockOff l
    let (old, p) := amoOld s id l (leNat ((blk.bytes.drop off).take n), poisIn blk off n)
    let s := unsee s (amoUnit via scope) id l n
    let (new, ret) := amoOp fn wide old b.toNat c.toNat c.toNat
    let clears := fn = 8 ∧ wide ∧ !l.isMem
    let bs : List (Option (Byte × Bool)) := (leBytes n new).map (fun x => some (x, p && !clears))
    let s := match l with
      | .spad k o => spadPut s k o bs
      | .mem a =>
        let s := memPut s a bs
        match via with
        | none => s
        | some k =>
          if scope ≤ 1 then cachePut s k (a / 64) false (fun b => mergeBytes true b (a % 64) bs) else dropCopies s k (a / 64)
    (amoRet fn wide old ret, p, none, s)

end Sys2Proof.Machine
end

