-- ==== Sys2Proof/Machine/Operands.lean ====
section
/-! DEFINITION. What each instruction needs before its effect: privilege (R319, R320, R366), the registers it reads and
writes for the lookahead checks (R98), the frame names it uses (R16), whether it closes a window (R97), and what it does
in run-ahead (R140). -/

namespace Sys2Proof.Machine

/-- What an instruction does in shadow mode (R140); memory accesses and branches decide in their own meanings. -/
inductive ShadowClass where
  | exec | suppress | ends
deriving DecidableEq, Repr

/-- The needs of an instruction. Vector, tile and table numbers are natural, for `v(D+1)` may lie beyond v31. -/
structure Need where
  priv : Priv
  sr : List (BitVec 5)
  sw : List (BitVec 5)
  vr : List Nat
  vw : List Nat
  vn : List Nat
  ts : List Nat
  ls : List Nat
  closes : Bool
  shadow : ShadowClass
  /-- Registers beside a named one, whose frame check is an item of the entry (R287). -/
  vlate : List Nat := []
deriving DecidableEq, Repr

/-- A form of major 0x00, or `safept` (R97, R140). -/
def sys (c : ShadowClass) : Need := ⟨.u, [], [], [], [], [], [], [], true, c, []⟩
/-- A branch or jump. -/
def ctl (r w : List (BitVec 5)) : Need := ⟨.u, r, w, [], [], [], [], [], true, .exec, []⟩
/-- A scalar instruction that executes in shadow mode. -/
def sca (r w : List (BitVec 5)) : Need := ⟨.u, r, w, [], [], [], [], [], false, .exec, []⟩
/-- An instruction with a class in shadow mode. -/
def mem (c : ShadowClass) (r w : List (BitVec 5)) : Need := ⟨.u, r, w, [], [], [], [], [], false, c, []⟩
/-- A vector instruction; under merging it also reads its destination (R253). -/
def vec (r w : List (BitVec 5)) (merges : Bool) : Need :=
  ⟨.u, [], [], (if merges then r ++ w else r).map (fun x => x.toNat), w.map (fun x => x.toNat), [], [], [], false, .exec, []⟩

/-- Numbers of the set bits among the low `n`. -/
def maskNames (m n : Nat) : List Nat := (List.range n).filter (fun i => m.testBit i)

/-- Level to read a CSR (R320). -/
def csrReadLevel (c : BitVec 12) : Priv := if c.toNat < 0x100 then .u else if 0x180 ≤ c.toNat then .h else .s
/-- A CSR has a write level (R320). -/
def csrWritable (c : BitVec 12) : Bool :=
  !(c == 0x002#12 || c == 0x003#12 || c == 0x004#12 || c == 0x005#12 || c == 0x10A#12)
/-- Level to write a CSR (R320); a CSR without one is refused by R322 at any level. -/
def csrWriteLevel (c : BitVec 12) : Priv :=
  if !csrWritable c then .u
  else if c.toNat < 0x100 then .u else if c == 0x107#12 || c == 0x108#12 || decide (0x180 ≤ c.toNat) then .h else .s
/-- Level of `csrs` and `csrc`, which read and write. -/
def csrBothLevel (c : BitVec 12) : Priv :=
  if privNum (csrReadLevel c) < privNum (csrWriteLevel c) then csrWriteLevel c else csrReadLevel c

/-- The needs of each row; event rows need nothing. -/
def need (i : Instr) : Need :=
  match i with
  | .nop => sys .exec
  | .done => sys .ends
  | .pause => sys .exec
  | .trap _ => sys .ends
  | .brk _ => sys .ends
  | .eret a => { sys .ends with priv := .s, sr := [a] }
  | .csrr r csr => { sys .ends with priv := csrReadLevel csr, sw := [r] }
  | .csrw r csr => { sys .ends with priv := csrWriteLevel csr, sr := [r] }
  | .csrs r csr => { sys .ends with priv := csrBothLevel csr, sr := [r] }
  | .csrc r csr => { sys .ends with priv := csrBothLevel csr, sr := [r] }
  | .idle => sys .ends
  | .ftrim _ _ _ => sys .ends
  | .br _ => ctl [] []
  | .call _ => ctl [] [1#5]
  | .bc a _ _ => ctl [a] []
  | .jr a => ctl [a] []
  | .jal d a => ctl [a] [d]
  | .safept tmask lmask _ vmask => { sys .ends with vn := maskNames vmask.toNat 32, ts := maskNames tmask.toNat 8, ls := maskNames lmask.toNat 8 }
  | .add d a b => sca [a, b] [d]
  | .sub d a b => sca [a, b] [d]
  | .and d a b => sca [a, b] [d]
  | .or d a b => sca [a, b] [d]
  | .xor d a b => sca [a, b] [d]
  | .andn d a b => sca [a, b] [d]
  | .shl d a b => sca [a, b] [d]
  | .shr d a b => sca [a, b] [d]
  | .sar d a b => sca [a, b] [d]
  | .ror d a b => sca [a, b] [d]
  | .mul d a b => sca [a, b] [d]
  | .mulh d a b => sca [a, b] [d]
  | .mulhn d a b => sca [a, b] [d]
  | .min d a b => sca [a, b] [d]
  | .max d a b => sca [a, b] [d]
  | .minn d a b => sca [a, b] [d]
  | .maxn d a b => sca [a, b] [d]
  | .slt d a b => sca [a, b] [d]
  | .sltn d a b => sca [a, b] [d]
  | .seq d a b => sca [a, b] [d]
  | .clz d a => sca [a] [d]
  | .ctz d a => sca [a] [d]
  | .popc d a => sca [a] [d]
  | .bfx d a b => sca [a, b] [d]
  | .bfi d a b => sca [d, a, b] [d]
  | .div d a b _ => sca [a, b] [d]
  | .divn d a b _ => sca [a, b] [d]
  | .rem d a b _ => sca [a, b] [d]
  | .remn d a b _ => sca [a, b] [d]
  | .addi d a _ => sca [a] [d]
  | .addiLiteral d a _ => sca [a] [d]
  | .andi d a _ => sca [a] [d]
  | .andiLiteral d a _ => sca [a] [d]
  | .ori d a _ => sca [a] [d]
  | .oriLiteral d a _ => sca [a] [d]
  | .xori d a _ => sca [a] [d]
  | .xoriLiteral d a _ => sca [a] [d]
  | .shli d a _ => sca [a] [d]
  | .shri d a _ => sca [a] [d]
  | .sari d a _ => sca [a] [d]
  | .li d _ => sca [] [d]
  | .liLiteral d _ => sca [] [d]
  | .addpc d _ => sca [] [d]
  | .addpcLiteral d _ => sca [] [d]
  | .ld d a _ _ _ => mem .exec [a] [d]
  | .st d a _ _ => mem .exec [d, a] []
  | .pref a _ _ => mem .exec [a] []
  | .ldacq d a _ _ _ => mem .exec [a] [d]
  | .strel d a _ _ _ => mem .exec [d, a] []
  | .fence _ _ => mem .exec [] []
  | .amoAdd d a b c _ _ nr _ => mem .exec [a, b, c] (if nr = 1 then [] else [d])
  | .amoMin d a b c _ _ nr _ => mem .exec [a, b, c] (if nr = 1 then [] else [d])
  | .amoMinn d a b c _ _ nr _ => mem .exec [a, b, c] (if nr = 1 then [] else [d])
  | .amoMax d a b c _ _ nr _ => mem .exec [a, b, c] (if nr = 1 then [] else [d])
  | .amoMaxn d a b c _ _ nr _ => mem .exec [a, b, c] (if nr = 1 then [] else [d])
  | .amoAnd d a b c _ _ nr _ => mem .exec [a, b, c] (if nr = 1 then [] else [d])
  | .amoOr d a b c _ _ nr _ => mem .exec [a, b, c] (if nr = 1 then [] else [d])
  | .amoXor d a b c _ _ nr _ => mem .exec [a, b, c] (if nr = 1 then [] else [d])
  | .amoExch d a b c _ _ nr _ => mem .exec [a, b, c] (if nr = 1 then [] else [d])
  | .amoCas d a b c _ _ nr _ => mem .exec [a, b, c] (if nr = 1 then [] else [d])
  | .amoFadd d a b c _ _ nr _ => mem .exec [a, b, c] (if nr = 1 then [] else [d])
  | .amoFmin d a b c _ _ nr _ => mem .exec [a, b, c] (if nr = 1 then [] else [d])
  | .amoFmax d a b c _ _ nr _ => mem .exec [a, b, c] (if nr = 1 then [] else [d])
  | .amoIns d a b c _ _ nr _ => mem .exec [a, b, c] (if nr = 1 then [] else [d])
  | .amoFfcs d a b c _ _ nr _ => mem .exec [a, b, c] (if nr = 1 then [] else [d])
  | .amoPset d a b c _ _ nr _ => mem .exec [a, b, c] (if nr = 1 then [] else [d])
  | .send a b => mem .suppress (a :: (if b = 0 then [] else [b, b + 1, b + 2, b + 3])) []
  | .sendc a b => mem .suppress [a, b] []
  | .chnew d a => mem .suppress [a] [d]
  | .chfree a => mem .suppress [a] []
  | .chbind a b => mem .suppress [a, b] []
  | .patadd d a => mem .suppress [a] [d]
  | .patdel a b => mem .suppress [a, b] []
  | .chstat d a => mem .suppress [a] [d]
  | .chmove d a b => { mem .suppress [a, b] [d] with priv := .s }
  | .spawn d a => mem .suppress [a] [d]
  | .gang d a => mem .suppress [a] [d]
  | .jstat d a => mem .suppress [a] [d]
  | .jcancel d a => mem .suppress [a] [d]
  | .tnow d => sca [] [d]
  | .tlwait _ b => mem .ends [b] []
  | .tlread d _ _ => sca [] [d]
  | .waitany d a => mem .ends [a] [d]
  | .waitall a => mem .ends [a] []
  | .tagfirst d a => sca [a] [d]
  | .tagclr a => mem .suppress [a] []
  | .tagrd d _ => sca [] [d]
  | .vadd d a b _ z => vec [a, b] [d] (z = 0)
  | .vsub d a b _ z => vec [a, b] [d] (z = 0)
  | .vmul d a b _ z => vec [a, b] [d] (z = 0)
  | .vfma d a b _ _ => vec [a, b, d] [d] false
  | .vmin d a b _ z => vec [a, b] [d] (z = 0)
  | .vmax d a b _ z => vec [a, b] [d] (z = 0)
  | .vabs d a _ z => vec [a] [d] (z = 0)
  | .vneg d a _ z => vec [a] [d] (z = 0)
  | .vand d a b _ z => vec [a, b] [d] (z = 0)
  | .vor d a b _ z => vec [a, b] [d] (z = 0)
  | .vxor d a b _ z => vec [a, b] [d] (z = 0)
  | .vshl d a b _ z => vec [a, b] [d] (z = 0)
  | .vshr d a b _ z => vec [a, b] [d] (z = 0)
  | .vceq _ a b _ _ => vec [a, b] [] false
  | .vclt _ a b _ _ => vec [a, b] [] false
  | .vcle _ a b _ _ => vec [a, b] [] false
  | .vsel d a b _ => vec [a, b] [d] false
  | .vdiv d a b _ z => vec [a, b] [d] (z = 0)
  | .vrcp d a _ z => vec [a] [d] (z = 0)
  | .vrsq d a _ z => vec [a] [d] (z = 0)
  | .vexp2 d a _ z => vec [a] [d] (z = 0)
  | .vdot d a b _ _ => vec [a, b, d] [d] false
  | .vperm d a b _ z => vec [a, b] [d] (z = 0)
  | .vbcast d a _ _ z => { vec [] [d] (z = 0) with sr := [a] }
  | .vredadd d a _ => vec [a] [d] false
  | .vredmax d a _ => vec [a] [d] false
  | .vredmin d a _ => vec [a] [d] false
  | .vins d a b => { vec [d] [d] false with sr := [a, b] }
  | .vext d a b => { vec [a] [] false with sr := [b], sw := [d] }
  | .vcvt d a _ z _ _ _ _ => vec [a] [d] (z = 0)
  | .vtag d a _ => vec [a] [d] false
  | .vwid d a b _ z _ _ => vec [a, b] [d] (z = 0)
  | .vnar d a b _ _ _ _ _ => vec [a, b] [d, b] true
  | .vscl d a _ _ _ bs _ => { vec [a] [d] true with vr := a.toNat :: d.toNat :: (if bs = 2 then [a.toNat + 1] else []) }
  | .vld d a _ z _ _ _ => { vec [] [d] (z = 0) with sr := [a] }
  | .vst d a _ _ => { vec [d] [] false with sr := [a] }
  | .vgath d a b _ z _ _ _ _ => { vec [b] [d] (z = 0) with sr := [a] }
  | .vscat d a b _ _ _ => { vec [d, b] [] false with sr := [a] }
  | .pand _ _ _ => sca [] []
  | .por _ _ _ => sca [] []
  | .pnot _ _ => sca [] []
  | .pcnt d _ => sca [] [d]
  | .pfirst d _ => sca [] [d]
  | .pset _ a => sca [a] []
  | .tmma d a b c e _ _ _ q => { mem .suppress [a, b, c, e] [q] with ts := [d.toNat] }
  | .tzero d _ q => { mem .suppress [] [q] with ts := [d.toNat] }
  | .tst d a c _ _ q => { mem .suppress [a, c] [q] with ts := [d.toNat] }
  | .tscl d a _ q => { mem .suppress [] [q] with ts := [d.toNat], vr := [a.toNat, a.toNat + 1], vlate := [a.toNat + 1] }
  | .tget d a b => { mem .suppress [b] [] with ts := [a.toNat], vw := [d.toNat, d.toNat + 1], vlate := [d.toNat + 1] }
  | .tset d a b _ => { mem .suppress [b] [] with ts := [d.toNat], vr := [a.toNat, a.toNat + 1], vlate := [a.toNat + 1] }
  | .lbld d a b _ _ _ q => { mem .suppress [a, b] [q] with ls := [d.toNat] }
  | .lmm d a b c _ _ q => { mem .suppress [a, c] [q] with ts := [d.toNat], ls := [b.toNat] }
  | .linv d q => { mem .suppress [] [q] with ls := [d.toNat] }
  | .lstat d b _ => { mem .suppress [] [d] with ls := [b.toNat] }
  | .lrbld d q => { mem .suppress [] [q] with ls := [d.toNat] }
  | .cp d a b c x => mem .suppress [a, b, c, x.e] [d]
  | .cp2d d a b c x => mem .suppress [a, b, c, x.e] [d]
  | .cp3d d a b c x => mem .suppress [a, b, c, x.e] [d]
  | .cpm d a b c x _ => mem .suppress [a, b, c, x.e] [d]
  | .cpredK0 d a b c x _ _ => mem .suppress [a, b, c, x.e] [d]
  | .cpredK1 d a x _ _ => mem .suppress [a, x.e] [d]
  | .cpredK2 d a b c x _ _ => mem .suppress [a, b, c, x.e] [d]
  | .cpredK3 d b x _ _ => mem .suppress [b, x.e] [d]
  | .cpfill d a b c x => mem .suppress [a, b, c, x.e] [d]
  | .cpsigIrq d a x => mem .suppress [a, x.e] [d]
  | .cpsigMsg d a b x => mem .suppress (a :: x.e :: (if b = 0 then [] else [b, b + 1, b + 2, b + 3])) [d]
  | .cpcan d a _ => mem .suppress [a] [d]
  | .cpq d _ => mem .suppress [] [d]
  | .cpat d a b c x _ _ => mem .suppress [a, b, c, x.e] [d]
  | .tlbwInstall d a b => { mem .ends [a, b] [d] with priv := .s }
  | .tlbwSetMissChannel d a b => { mem .ends [a, b] [d] with priv := .s }
  | .tlbinv a b => { mem .ends [a, b] [] with priv := .s }
  | .tlbinva a => { mem .ends [a] [] with priv := .s }
  | .pgmig d a b => { mem .ends [a, b] [d] with priv := .s }
  | .ownq d a => { mem .ends [a] [d] with priv := .s }
  | .stubq d a => { mem .ends [a] [d] with priv := .h }
  | .rfc d a b => { mem .ends [a, b] [d] with priv := .s }
  | .fresume d a => { mem .ends [a] [d] with priv := .s }
  | .actw d a b => { mem .ends [a, b] [d] with priv := .h }
  | .partwAssign d a b => { mem .ends [a, b] [d] with priv := .h }
  | .partwWithdraw d a b => { mem .ends [a, b] [d] with priv := .h }
  | .partwSetWord d a b => { mem .ends [a, b] [d] with priv := .h }
  | .filtw d a b => { mem .ends [a, b] [d] with priv := .h }
  | .ctxsave d a b => { mem .ends [a, b] [d] with priv := .h }
  | .ctxload d a b => { mem .ends [a, b] [d] with priv := .h }
  | .preempt d a => { mem .ends [a] [d] with priv := .h }
  | .preemptHalt d a => { mem .ends [a] [d] with priv := .h }
  | .tsyncStatus d a b => { mem .ends [a, b] [d] with priv := .h }
  | .tsyncSetReference d a b => { mem .ends [a, b] [d] with priv := .h }
  | .tsyncSetTime d a b => { mem .ends [a, b] [d] with priv := .h }
  | .icacheLineFill _ _ => mem .exec [] []
  | .lookaheadOpenerComplete _ _ => mem .exec [] []
  | .storeArrival _ => mem .exec [] []
  | .atomicExecute _ => mem .exec [] []
  | .runAheadEnd _ => mem .exec [] []
  | .trapSlotGrant _ => mem .exec [] []
  | .recordWriteRetry _ => mem .exec [] []
  | .messageArrival _ => mem .exec [] []
  | .matchDecision _ => mem .exec [] []
  | .admission _ => mem .exec [] []
  | .strandRelease _ => mem .exec [] []
  | .ringRefill _ _ => mem .exec [] []
  | .ringReadRetry _ _ => mem .exec [] []
  | .forwardingEntryExpiry _ _ => mem .exec [] []
  | .spilledRecordApply _ _ => mem .exec [] []
  | .hostChannelSend _ _ _ => mem .exec [] []
  | .hostBar4Read _ _ => mem .exec [] []
  | .hostBar4Write _ _ => mem .exec [] []
  | .doorbell _ _ => mem .exec [] []
  | .mailboxRestart _ => mem .exec [] []
  | .mailboxManagementRequest _ => mem .exec [] []
  | .mailboxDebugHalt _ => mem .exec [] []
  | .mailboxDeclareDead _ => mem .exec [] []
  | .mailboxReadSensor _ => mem .exec [] []
  | .jobStart _ => mem .exec [] []
  | .chunkDeal _ _ => mem .exec [] []
  | .launchItemOffer _ => mem .exec [] []
  | .itemEnd _ => mem .exec [] []
  | .gangMemberUnreachable _ _ => mem .exec [] []
  | .partitionWordApply _ => mem .exec [] []
  | .unitWithdrawal _ => mem .exec [] []
  | .preemptForceTimeout _ => mem .exec [] []
  | .strandSave _ => mem .exec [] []
  | .strandRestore _ => mem .exec [] []
  | .debugHalt _ => mem .exec [] []
  | .timerExpiry _ => mem .exec [] []
  | .idleTimeout _ => mem .exec [] []
  | .pauseEnd _ => mem .exec [] []
  | .tagWaitGrant _ => mem .exec [] []
  | .fenceTicketGrant _ => mem .exec [] []
  | .fenceTicketTimeout _ => mem .exec [] []
  | .copyBlock _ _ _ _ _ => mem .exec [] []
  | .copyComplete _ _ _ => mem .exec [] []
  | .copyFaultTimeout _ _ _ => mem .exec [] []
  | .cpsigSignal _ _ _ => mem .exec [] []
  | .remoteTimeout _ _ _ => mem .exec [] []
  | .dteStep _ => mem .exec [] []
  | .dteComplete _ => mem .exec [] []
  | .kuduStep _ => mem .exec [] []
  | .kuduComplete _ => mem .exec [] []
  | .tlbMissTimeout _ _ _ => mem .exec [] []
  | .frozenPageTimeout _ => mem .exec [] []
  | .ownerLookupTimeout _ => mem .exec [] []
  | .stubHeldTimeout _ => mem .exec [] []
  | .stubQuietExpiry _ => mem .exec [] []
  | .linkDead _ => mem .exec [] []
  | .messageRetransmit _ => mem .exec [] []
  | .messageGiveUp _ => mem .exec [] []
  | .remoteAtomicRetransmit _ _ => mem .exec [] []
  | .pktRead _ => mem .exec [] []
  | .pktWrite _ => mem .exec [] []
  | .pktAtomic _ => mem .exec [] []
  | .pktDirq _ => mem .exec [] []
  | .pktMigrq _ => mem .exec [] []
  | .pktInval _ => mem .exec [] []
  | .pktData _ => mem .exec [] []
  | .pktDone _ => mem .exec [] []
  | .pktBounce _ => mem .exec [] []
  | .pktDirans _ => mem .exec [] []
  | .pktAck _ => mem .exec [] []
  | .pktMack _ => mem .exec [] []
  | .pktMsg _ => mem .exec [] []
  | .pktGang _ => mem .exec [] []
  | .pktGack _ => mem .exec [] []
  | .pktMsync _ => mem .exec [] []
  | .pktResv _ => mem .exec [] []
  | .pktContrib _ => mem .exec [] []
  | .pktRrel _ => mem .exec [] []
  | .pktRans _ => mem .exec [] []
  | .pktTime _ => mem .exec [] []
  | .pktMgmt _ => mem .exec [] []
  | .reductionTimeout _ => mem .exec [] []
  | .timeExchange _ => mem .exec [] []
  | .timeSyncLost => mem .exec [] []
  | .sensorSample _ => mem .exec [] []
  | .bubbleRatioUpdate _ _ => mem .exec [] []
  | .machineCheck _ => mem .exec [] []
  | .cxlReadTimeout _ => mem .exec [] []
  | .powerOn _ => mem .exec [] []
  | .bootRetry _ => mem .exec [] []
  | .powerRemoval => mem .exec [] []
  | .illegalMajor _ _ => mem .exec [] []
  | .fetchFault _ _ => mem .exec [] []
  | .mailboxRequestRefused _ => mem .exec [] []
end Sys2Proof.Machine
end

