-- ==== Sys2Proof/Machine/Flags.lean ====
section
/-! DEFINITION. The float control register (R44, R45), format tags and vector elements (R33, R252), and the result of an
element-wise instruction with its predicate, mode, poison and flags (R252–R256). -/

namespace Sys2Proof.Machine

/-- fctl.RM (R44). -/
def rmOf (r : Regs) : RMode := rmodeOf (bitsOf r.fctl 5 2)
/-- Flags ORed into fctl (R45). -/
def orFlags (r : Regs) (f : Flags) : Regs := { r with fctl := r.fctl ||| f.setWidth 64 }

/-- Element bits of a tag code (R33); raw counts as 8 (R252). -/
def tagWidth (t : Nat) : Nat :=
  match t with
  | 3 | 4 | 10 | 11 => 16
  | 5 | 6 | 12 => 32
  | 7 => 64
  | 13 | 15 => 4
  | 16 => 2
  | 17 => 1
  | _ => 8
/-- Bits governed by one predicate bit: an element, or the byte that holds narrower ones (R252). -/
def unitWidth (t : Nat) : Nat := if tagWidth t < 8 then 8 else tagWidth t
/-- Integer tags of the VALU (i8 to i64). -/
def tagInt (t : Nat) : Bool := decide (1 ≤ t) && decide (t ≤ 7)
/-- Signed integer tags. -/
def tagSigned (t : Nat) : Bool := t == 1 || t == 3 || t == 5 || t == 7
/-- Float tags of the VALU (f16, bf16, f32). -/
def tagFloat (t : Nat) : Bool := decide (10 ≤ t) && decide (t ≤ 12)
/-- The format of a float tag, narrow ones included. -/
def tagFmt (t : Nat) : Fmt :=
  match t with
  | 8 => fmtE4m3
  | 9 => fmtE5m2
  | 10 => fmtF16
  | 11 => fmtBf16
  | 13 => fmtE2m1
  | _ => fmtF32
/-- A tag of width 8 to 64: codes 1 to 12 and 14 (R261, R262, R264). -/
def tagWide (t : Nat) : Bool := (decide (1 ≤ t) && decide (t ≤ 12)) || t == 14

/-- Element `e` of width `w`. -/
def elemOf (b : Line) (w e : Nat) : Nat := (b.toNat / 2 ^ (w * e)) % 2 ^ w
/-- A register of elements, element 0 first. -/
def ofElems (w : Nat) (l : List Nat) : Nat :=
  match l with
  | [] => 0
  | x :: t => x % 2 ^ w + 2 ^ w * ofElems w t
/-- The 64-bit segment of an element. -/
def segOf (w e : Nat) : Nat := w * e / 64
/-- Poison of the segment that holds an element. -/
def elemPois (v : VReg) (w e : Nat) : Bool := v.pois.getLsbD (segOf w e)
/-- Vector register `n` of a strand; the frame check has passed. -/
def vreg (r : Regs) (n : BitVec 5) : VReg := (r.v[n.toNat]?).getD ⟨0, 0, 0⟩
/-- A vector register written. -/
def wrV (r : Regs) (n : BitVec 5) (x : VReg) : Regs := { r with v := r.v.set n.toNat x }
/-- A predicate register. -/
def preg (r : Regs) (n : Nat) : Word := (r.p.toList[n]?).getD 0
/-- A predicate written; writes to p0 are discarded (R253). -/
def wrP (r : Regs) (n : Nat) (x : Word) : Regs := if n = 0 then r else { r with p := r.p.setIfInBounds n x }

/-- Poison of a register written by elements (R255): `act` the governing bits, `pz` the poison of active elements. -/
def mergeSegs (old : BitVec 8) (w : Nat) (act pz : Nat → Bool) (z : Bool) : BitVec 8 :=
  let n := 512 / w
  (List.range 8).foldl (fun (q : BitVec 8) g =>
    let es := (List.range n).filter (fun e => segOf w e == g)
    if es.any (fun e => act e && pz e) || (!z && old.getLsbD g && es.any (fun e => !act e)) then q ||| (1#8 <<< g) else q) 0

/-- A register written element by element under a predicate (R253, R255), with the flags of its active elements (R45). -/
def vwrite (old : VReg) (w : Nat) (tag : BitVec 5) (p : Word) (z : Bool) (f : Nat → Nat × Flags) (pz : Nat → Bool) : VReg × Flags :=
  let n := 512 / w
  let act (e : Nat) : Bool := p.getLsbD e
  let res := (List.range n).map (fun e => if act e then f e else (if z then 0 else elemOf old.bits w e, 0))
  (⟨BitVec.ofNat 512 (ofElems w (res.map (fun x => x.1))), tag, mergeSegs old.pois w act pz z⟩,
   res.foldl (fun (g : Flags) x => g ||| x.2) 0)

/-- A trap with no recorded detail. -/
def plainTrap (c : Cause) : Stop := .trap c 0 0

/-- A condition or a trap (R254's order is the order of the calls). -/
def orTrap (ok : Bool) (c : Cause) : Except Stop Unit := if ok then pure () else throw (plainTrap c)

end Sys2Proof.Machine
end

