-- ==== Sys2Proof/Machine/Timing.lean ====
section
/-! DEFINITION. Latency and occupancy of the vector/engine pipe (R100, R257, the entries of the VCVT family, of `tget`,
`tset` and `lstat`): when the registers that an instruction writes can be read, and how long it keeps the pipe. -/

namespace Sys2Proof.Machine

/-- Predicates that an instruction reads (R253, R268); p0 is constant. A compare under merging keeps old bits of pD (R259). -/
def predReads (i : Instr) : List Nat :=
  match i with
  | .vadd _ _ _ p _ | .vsub _ _ _ p _ | .vmul _ _ _ p _ | .vfma _ _ _ p _ | .vmin _ _ _ p _ | .vmax _ _ _ p _
  | .vand _ _ _ p _ | .vor _ _ _ p _ | .vxor _ _ _ p _ | .vshl _ _ _ p _ | .vshr _ _ _ p _ | .vdiv _ _ _ p _
  | .vdot _ _ _ p _ | .vperm _ _ _ p _ => [p.toNat]
  | .vceq d _ _ p z | .vclt d _ _ p z | .vcle d _ _ p z => if z = 0 then [p.toNat, d.toNat] else [p.toNat]
  | .vabs _ _ p _ | .vneg _ _ p _ | .vrcp _ _ p _ | .vrsq _ _ p _ | .vexp2 _ _ p _ => [p.toNat]
  | .vsel _ _ _ p | .vbcast _ _ _ p _ | .vredadd _ _ p | .vredmax _ _ p | .vredmin _ _ p => [p.toNat]
  | .vcvt _ _ p _ _ _ _ _ | .vwid _ _ _ p _ _ _ | .vnar _ _ _ p _ _ _ _ | .vscl _ _ p _ _ _ _ => [p.toNat]
  | .vld _ _ p _ _ _ _ | .vst _ _ p _ | .vgath _ _ _ p _ _ _ _ _ | .vscat _ _ _ p _ _ => [p.toNat]
  | .pand _ a b | .por _ a b => [a.toNat, b.toNat]
  | .pnot _ a | .pcnt _ a | .pfirst _ a => [a.toNat]
  | _ => []

/-- Predicates that an instruction writes. -/
def predWrites (i : Instr) : List Nat :=
  match i with
  | .vceq d _ _ _ _ | .vclt d _ _ _ _ | .vcle d _ _ _ _ => [d.toNat]
  | .pand d _ _ | .por d _ _ => [d.toNat]
  | .pnot d _ | .pset d _ => [d.toNat]
  | _ => []

/-- Latency of integer and of float element arithmetic whose tag is that of register `a` (R257). -/
def tagLat (r : Regs) (a : BitVec 5) : Nat := if tagInt (vreg r a).tag.toNat then 2 else 4

/-- Latency of an instruction's results, 1 where R257 and the entries give none; `r` are the registers at its issue. -/
def latency (r : Regs) (i : Instr) : Nat :=
  match i with
  | .vand _ _ _ _ _ | .vor _ _ _ _ _ | .vxor _ _ _ _ _ | .vsel _ _ _ _ | .vbcast _ _ _ _ _ | .vins _ _ _ => 2
  | .vadd _ a _ _ _ | .vsub _ a _ _ _ | .vmin _ a _ _ _ | .vmax _ a _ _ _ | .vabs _ a _ _ | .vneg _ a _ _ => tagLat r a
  | .vshl _ _ _ _ _ | .vshr _ _ _ _ _ | .vceq _ _ _ _ _ | .vclt _ _ _ _ _ | .vcle _ _ _ _ _ => 2
  | .pand _ _ _ | .por _ _ _ | .pnot _ _ | .pcnt _ _ | .pfirst _ _ | .pset _ _ => 2
  | .vmul _ _ _ _ _ | .vfma _ _ _ _ _ | .vdot _ _ _ _ _ => 4
  | .vperm _ _ _ _ _ | .vext _ _ _ => 3
  | .vredadd _ a _ | .vredmax _ a _ | .vredmin _ a _ => 2 * Nat.log2 (512 / tagWidth (vreg r a).tag.toNat) + 2
  | .vdiv _ _ _ _ _ | .vrcp _ _ _ _ | .vrsq _ _ _ _ | .vexp2 _ _ _ _ => 16
  | .vtag _ _ _ => 2
  | .vcvt _ _ _ _ _ _ _ _ | .vwid _ _ _ _ _ _ _ => 4
  | .vnar _ _ _ _ _ _ _ _ | .vscl _ _ _ _ _ _ _ => 6
  | .tget _ _ _ | .lstat _ _ _ => 4
  | _ => 1

/-- Cycles for which an instruction keeps the core's vector/engine pipe (R257). -/
def occupancy (i : Instr) : Nat :=
  match i with
  | .vdiv _ _ _ _ _ | .vrcp _ _ _ _ | .vrsq _ _ _ _ | .vexp2 _ _ _ _ | .vgath _ _ _ _ _ _ _ _ _ | .vscat _ _ _ _ _ _ => 4
  | .vnar _ _ _ _ _ _ _ _ | .vscl _ _ _ _ _ _ _ | .tget _ _ _ | .tset _ _ _ _ => 2
  | _ => 1

/-- Registers that an instruction reads, by class: 0 scalar, 1 predicate, 2 vector. -/
def readsOf (i : Instr) : List (Nat × Nat) :=
  (need i).sr.map (fun n => (0, n.toNat)) ++ (predReads i).map (fun n => (1, n)) ++ (need i).vr.map (fun n => (2, n))

/-- Registers that an instruction writes, by class; a write of s0 or p0 is discarded (R100, R253). -/
def writesOf (i : Instr) : List (Nat × Nat) :=
  ((need i).sw.map (fun (n : BitVec 5) => (0, n.toNat)) ++ (predWrites i).map (fun n => (1, n))).filter (fun x => x.2 != 0) ++
    (need i).vw.map (fun n => (2, n))

/-- Every register that the instruction reads can be read in the cycle (R100, R257). -/
def readable (lat : List ((Nat × Nat) × Nat)) (i : Instr) (cycle : Nat) : Bool :=
  lat.all (fun e => decide (e.2 ≤ cycle) || !(readsOf i).contains e.1)

/-- The registers not readable yet after an instruction issued in a cycle with registers `r`. -/
def newLat (r : Regs) (i : Instr) (cycle : Nat) (lat : List ((Nat × Nat) × Nat)) : List ((Nat × Nat) × Nat) :=
  lat.filter (fun e => decide (cycle + 1 < e.2) && !(writesOf i).contains e.1) ++
    (if latency r i ≤ 1 then [] else (writesOf i).map (fun w => (w, cycle + latency r i)))

/-- Majors of the vector/engine pipe (R95). -/
def vectorPipe (w0 : BitVec 32) : Bool := decide (0x20 ≤ (fMaj w0).toNat) && decide ((fMaj w0).toNat ≤ 0x2A)

/-- An instruction that waits for an answer (R333); the strand is saved before its next instruction when a request found it
waiting. -/
def answers (i : Instr) : Bool :=
  match i with
  | .chnew _ _ | .chfree _ | .chbind _ _ | .patadd _ _ | .patdel _ _ | .chstat _ _ | .chmove _ _ _ | .jstat _ _ | .jcancel _ _
  | .csrw _ _ | .csrs _ _ | .csrc _ _ | .tlbinv _ _ | .tlbinva _ | .ownq _ _ | .fresume _ _ | .ldacq _ _ _ _ _ | .fence _ _ => true
  | _ => false

end Sys2Proof.Machine
end

