-- ==== Sys2Proof/Machine/Ops.lean ====
section
/-! DEFINITION. Taking an exception and returning from one (R323–R325, R331, R356, R407), run-ahead (R139–R142), the
checks every instruction shares (R93, R97, R98, R140), and the acquire action of R239. -/

namespace Sys2Proof.Machine

/-- The three outcomes. -/
abbrev Out := Host.Outcome State Fault Refusal

/-- Where a completed instruction goes on. -/
inductive Next where
  /-- The next instruction in sequence. -/
  | seq
  /-- A transfer of control to a target (R81). -/
  | goto (a : Word)
  /-- The instruction has not completed: it waits and executes again. -/
  | hold (w : Wait)
  /-- The strand's place is already set. -/
  | stay
deriving DecidableEq, Repr

/-- The strand that executes, as its instruction sees it. -/
structure Ctx where
  r : StrandRef
  t : Strand
  /-- Length of the instruction in bytes. -/
  len : Nat
  word0 : BitVec 32
deriving DecidableEq, Repr

/-- The latest package acquire of a core's cluster, and the latest one of each line by an acquire limited to regions: what
another core of the cluster acquired before it released at cluster scope is then acquired here (R242, log 25). -/
def clusStamps (s : State) (c : CoreId) : Nat × List (Nat × Nat) :=
  s.cores.foldl (fun n x => if cached x.1 && x.1.die == c.die && x.1.clus == c.clus then
    (max n.1 x.2.acq, x.2.regAcq.foldl (fun l e => aset l e.1 (max e.2 ((aget l e.1).getD 0))) n.2) else n) (0, [])

/-- Stamps of lines joined with those of the cluster. -/
def joinStamps (own : List (Nat × Nat)) (all : Nat × List (Nat × Nat)) (lns : List Nat) : List (Nat × Nat) :=
  lns.foldl (fun l ln => aset l ln (max ((aget l ln).getD 0) (max all.1 ((aget all.2 ln).getD 0)))) own

/-- The acquire action of a scope on a core (R239, R240): 0 core, 1 cluster, 2 package, 3 domain. Hub cores and Duiker
have nothing to invalidate (R125). The cluster cache's lines filled before this cycle become misses for the core. -/
def acquire (s : State) (c : CoreId) (scope : Nat) : State :=
  match c.kind with
  | .hub | .duiker => s
  | _ =>
    if scope = 0 then s
    else if scope = 1 then updCore s c (fun k => { k with l1 := [], acq := (clusStamps s c).1, regAcq := (clusStamps s c).2 })
    else updCore s c (fun k => { k with l1 := [], acq := s.cycle, regAcq := [] })

/-- The device agent for a strand's records: its core's TLBs at privilege S (R406). -/
def recAgent (r : StrandRef) (dom : Nat) : Agent := ⟨r.core, none, false, dom, 1⟩

/-- The first slot of trarea, in ring order after the one last taken, whose STATE is not 1 and which no other trap keeps
(R325, R407), with its address and word 0: `.ok none` when there is none. `n` slots are tried from slot `k`. -/
def findSlot (s : State) (g : Agent) (kept : List Nat) (base k total : Nat) (n : Nat) : Except (DevErr × State) (Option (Nat × Word) × State) :=
  match n with
  | 0 => .ok (none, s)
  | m + 1 =>
    match devRead s g (BitVec.ofNat 64 (base + 512 * (k % total))) 8 with
    | .error x => .error x
    | .ok (l, _, s) =>
      let w := leWord l
      let a := base + 512 * (k % total)
      if bitsOf w 16 2 = 1 ∨ kept.contains a then findSlot s g kept base (k + 1) total m else .ok (some (a, w), s)

/-- Outcome of giving a trap or fault record its slot (R325, R407). -/
inductive RecOut where
  /-- Written: the record handle. -/
  | done (h : Word)
  /-- trarea unset, or every slot pending. -/
  | noSlot
  /-- A miss is being served. -/
  | later
  /-- A record access met a fault. -/
  | failed
deriving DecidableEq, Repr

/-- The command key of R219. -/
def copyKey (s : State) (c : CoreId) (q : Copy) : Word :=
  let (d, k, n) := placeOf c
  sidOf s.pkg d k n 0 0 0 + BitVec.ofNat 64 (q.strm % 4 * 2 ^ 40 + q.num % 2 ^ 40)

/-- The key under which a paused command waits for a record; strands' uids are smaller. -/
def pauseKey (s : State) (c : CoreId) (q : Copy) : Nat := 2 ^ 64 + (copyKey s c q).toNat

/-- What a key of `Dom.recq` names still waits: a strand's trap or fault without a record, or a paused command. -/
def recWaits (s : State) (key : Nat) : Bool :=
  (allStrands s).any (fun y => y.2.uid == key && (match y.2.status with | .trapping _ | .faulting _ _ _ _ => true | _ => false)) ||
  s.cores.any (fun c => c.2.copies.any (fun q => q.paused.isSome && pauseKey s c.1 q == key))

/-- A trap joins those that wait for a slot (R325). -/
def queueRecord (s : State) (dom key : Nat) : State :=
  let d := getDom s dom
  if d.recq.contains key then s else setDom s dom { d with recq := d.recq ++ [key] }

/-- Another trap or fault of the domain has waited longer for a slot (R325). -/
def recBehind (s : State) (dom key : Nat) : Bool :=
  ((getDom s dom).recq.takeWhile (fun k => k != key)).any (recWaits s)

/-- A slot taken and a record written (R324, R325, R356, R407). `uid` is the key of the trap, `rest` is bytes 8 to 511;
`low` is word 0 below STATE's field together with PRIV and CAUSE. -/
def writeRecord (s : State) (r : StrandRef) (uid dom : Nat) (low : Nat) (rest : List Byte) : RecOut × State :=
  let d := getDom s dom
  let base := areaBase d.trarea
  if (base = 0 ∨ recBehind s dom uid) ∧ (aget d.kept uid).isNone then (.noSlot, queueRecord s dom uid)
  else
    let g := recAgent r dom
    let total := 2 ^ areaLog d.trarea
    let found := match aget d.kept uid with
      | some a =>
        match devRead s g (BitVec.ofNat 64 a) 8 with
        | .error x => Except.error x
        | .ok (l, _, s) => .ok (some (a, leWord l), s)
      | none => findSlot s g (d.kept.map (fun (x : Nat × Nat) => x.2)) base (match d.lastSlot with | none => 0 | some k => k + 1) total total
    match found with
    | .error (.miss, s) => (.later, s)
    | .error (.fault _, s) => (.failed, s)
    | .ok (none, s) => (.noSlot, queueRecord s dom uid)
    | .ok (some (a, w), s) =>
      let gen := (bitsOf w 48 16 + 1) % 2 ^ 16
      -- a slot kept since before a write of trarea is none of the present ring
      let last (d : Dom) : Option Nat := if base ≤ a ∧ a < base + 512 * total then some ((a - base) / 512) else d.lastSlot
      let bytes := leBytes 8 (gen * 2 ^ 48 + 2 ^ 16 + low) ++ rest
      let d := getDom s dom
      match devWrite s g (BitVec.ofNat 64 a) bytes with
      | .error (.miss, s) => (.later, s)
      | .error (.fault _, s) => (.failed, setDom s dom { d with kept := aset d.kept uid a, lastSlot := last d })
      | .ok s =>
        let d := getDom s dom
        let h := BitVec.ofNat 64 (gen * 2 ^ 48 + a)
        (.done h, setDom s dom { d with kept := adel d.kept uid, lastSlot := last d, recq := d.recq.filter (fun x => x != uid),
                                        recs := d.recs.filter (fun (x : Word) => bitsOf x 0 48 != a) ++ [h] })

/-- A key that waits for a record no more gives up the slot that it kept (R407). -/
def giveUpRecord (s : State) (dom key : Nat) : State :=
  let d := getDom s dom
  setDom s dom { d with kept := adel d.kept key, recq := d.recq.filter (fun k => k != key) }

/-- Scalar registers, as the record holds them. -/
def regBytes (r : Regs) : List Byte := (List.range 32).flatMap (fun i => word8 (rd r (BitVec.ofNat 5 i)))
/-- Predicates p1 to p7. -/
def predBytes (r : Regs) : List Byte := (r.p.toList.drop 1).flatMap word8

/-- Bytes 8 to 511 of a trap record (R324). -/
def trapBody (t : Strand) (q : TrapReq) (sid : Word) : List Byte :=
  word8 q.iaddr ++ word8 q.pc ++ leBytes 8 q.word0.toNat ++ word8 q.detail ++ word8 q.daddr ++ leBytes 8 q.time ++
    word8 sid ++ leBytes 8 (t.r.spois.toNat) ++ word8 t.r.fctl ++ predBytes t.r ++ regBytes t.r ++ leBytes 120 0

/-- Counted once in lostrep and logged once while a trap has no record (R325, R407). -/
def countOnce (s : State) (dom : Nat) (sid : Word) (c : Cause) (counted : Bool) : State :=
  if counted then s else lostReport s dom sid c 0

/-- R323 steps 2 to 5 for a strand whose trap is raised and whose openers are done: the record, the suspension, the trap
message; without a slot or with a failed record access the strand stays trapping (R325, R407). -/
def takeTrap (s : State) (r : StrandRef) (t : Strand) (q : TrapReq) : State :=
  let sid := strandSid s r t.dom
  let low := privNum t.priv * 2 ^ 14 + causeCode q.cause
  let (o, s) := writeRecord s r t.uid t.dom low (trapBody t q sid)
  match o with
  | .done h =>
    let s := setStrand s r { t with status := .suspended h }
    let ch := (getDom s t.dom).trapch
    if ch = 0 then lostReport s t.dom sid q.cause h.toNat
    else
      let m : Msg := ⟨payload4 h (BitVec.ofNat 64 (causeCode q.cause)) q.iaddr q.daddr, q.time, sid, ch, false, 0, false⟩
      postDev s t.uid m t.dom false s.uid r.core
  | .noSlot =>
    setStrand (countOnce s t.dom sid q.cause q.counted) r { t with status := .trapping { q with counted := true } }
  | .later => setStrand s r { t with status := .trapping q }
  | .failed =>
    setStrand (countOnce s t.dom sid q.cause q.counted) r
      { t with status := .trapping { q with counted := true, retryAt := some (now s + 1000000) } }

/-- TAKING AN EXCEPTION (R323): the strand's trap is raised; it waits for its openers (R99), then takes its record. -/
def raiseTrap (s : State) (r : StrandRef) (t : Strand) (q : TrapReq) : State :=
  let t := { t with step1 := false, skipBp := false, inside := false, saveNow := false,
                    openers := t.openers.map (fun o => { o with isOpen := false }) }
  let s := { s with tabAns := s.tabAns.filter (fun x => x.1.2 != t.uid) }
  if t.openers.isEmpty then takeTrap s r t q else setStrand s r { t with status := .trapping q }

/-- A trap request with R327's default PC, the instruction itself. -/
def trapReq (s : State) (c : Cause) (detail daddr iaddr pc : Word) (word0 : BitVec 32) : TrapReq :=
  ⟨c, detail, daddr, iaddr, pc, word0, now s, false, none⟩

/-- Bytes 8 to 511 of a batch fault record (R356). -/
def faultBody (s : State) (iaddr sid key : Word) (pages : List PageRec) : List Byte :=
  let pg (p : PageRec) : List Byte :=
    leBytes 8 ((p.vunit % 2 ^ 40) * 65536 + causeCode p.cause * 256 + (if p.w then 2 else 0) + (if p.x then 1 else 0))
  word8 iaddr ++ word8 sid ++ leBytes 8 (now s) ++ word8 key ++ leBytes 24 0 ++ pages.flatMap pg ++
    leBytes (8 * (32 - pages.length)) 0 ++ leBytes 192 0

/-- Cause of page 0. -/
def firstCause (pages : List PageRec) : Cause := match pages with | [] => .none | p :: _ => p.cause

/-- The announcement of a fault record on the pager channel (R356), or the count of R167. -/
def announce (s : State) (uid dom : Nat) (sid h : Word) (pages : List PageRec) (src : CoreId) : State :=
  let ch := (getDom s dom).pagerch
  let c := firstCause pages
  let v := match pages with | [] => 0 | p :: _ => p.vunit * 65536
  if ch = 0 then lostReport s dom sid c h.toNat
  else
    let m : Msg := ⟨payload4 h (BitVec.ofNat 64 (pages.length * 256 + causeCode c)) (BitVec.ofNat 64 v) sid, now s, sid, ch, false, 0, false⟩
    postDev s uid m dom false s.uid src

/-- R141 steps 2 and 3: the batch fault record of a strand, its announcement, and its sleep. -/
def takeFault (s : State) (r : StrandRef) (t : Strand) (pages : List PageRec) (iaddr : Word) (counted : Bool) : State :=
  let sid := strandSid s r t.dom
  let c := firstCause pages
  let low := pages.length * 2 ^ 42 + privNum t.priv * 2 ^ 14 + causeCode c
  let (o, s) := writeRecord s r t.uid t.dom low (faultBody s iaddr sid 0 pages)
  match o with
  | .done h => announce (setStrand s r { t with status := .asleep h }) t.uid t.dom sid h pages r.core
  | .noSlot => setStrand (countOnce s t.dom sid c counted) r { t with status := .faulting pages iaddr true none }
  | .later => setStrand s r { t with status := .faulting pages iaddr counted none }
  | .failed =>
    setStrand (countOnce s t.dom sid c counted) r { t with status := .faulting pages iaddr true (some (now s + 1000000)) }

/-- Entering run-ahead (R139): the checkpoint is taken and the first page collected; it goes on after the instruction with
the registers `r`, in which the instruction's destinations are poisoned, and has a new ready-since (R103). -/
def enterShadow (s : State) (x : Ctx) (p : PageRec) (r : Regs) : State :=
  setStrand s x.r { x.t with shadow := some ⟨x.t.r, x.t.pc, [p], 0⟩, r := r, pc := x.t.pc + BitVec.ofNat 64 x.len,
                             target := false, inside := false, since := s.cycle + 1, readyAt := s.cycle + 1,
                             absent := x.t.absent.filter (fun v => v != p.vunit) }

/-- The end of run-ahead (R141): the checkpoint restored, with what a division in run-ahead has still to write dropped, then the
record. -/
def endShadow (s : State) (r : StrandRef) (t : Strand) : State :=
  match t.shadow with
  | none => s
  | some h => takeFault s r { t with shadow := none, r := h.saved, pc := h.iaddr, target := false, absent := [], inside := false,
                                        openers := [], lat := [] } h.pages h.iaddr false

/-- A page collected (R140, R141): distinct units in the order met. -/
def collect (h : Shadow) (p : PageRec) : Shadow :=
  if h.pages.any (fun q => q.vunit == p.vunit) then
    { h with pages := h.pages.map (fun q => if q.vunit = p.vunit then { q with w := q.w || p.w } else q) }
  else { h with pages := h.pages ++ [p] }

/-- Registers with scalar destinations written fully poisoned (R140); the value below the poison is free, by the
strand's uid `u` and the cycle `c` (log 13). -/
def poisonScalars (u c : Nat) (r : Regs) (l : List (BitVec 5)) : Regs :=
  l.foldl (fun r n => wr r n (Config.poisonWord u c n.toNat) true) r
/-- Registers with vector destinations fully poisoned. -/
def poisonVecs (u c : Nat) (r : Regs) (l : List Nat) : Regs :=
  { r with v := l.foldl (fun v n => match v[n]? with | some x => v.set n { x with bits := Config.poisonLine u c n, pois := 0xFF#8 } | none => v) r.v }

/-- The pending destination of an open window that a list of registers meets (R98). -/
def pendingHit (os : List Opener) (sr : List (BitVec 5)) (vr : List Nat) : Option (Bool × Nat) :=
  os.findSome? (fun o => match o.dest with
    | some (false, n) => if sr.any (fun x => x.toNat == n) then some (false, n) else none
    | some (true, n) => if vr.contains n then some (true, n) else none
    | none => none)

/-- DETAIL naming a register (R327). -/
def regDetail (x : Bool × Nat) : Word := BitVec.ofNat 64 (x.2 + (if x.1 then 32 else 0))

/-- Faults 8, 10 and 11 of R93 for an instruction with its needs. -/
def sharedFault (t : Strand) (n : Need) : Option (Cause × Word) :=
  if privNum t.priv < privNum n.priv then some (.privileged, 0)
  else if (n.vr ++ n.vw ++ n.vn).any (fun v => decide (t.r.v.length ≤ v) && !n.vlate.contains v) || n.ts.any (fun a => decide (t.tiles.length ≤ a)) ||
      n.ls.any (fun a => decide (t.tabs.length ≤ a)) then some (.frameRegister, 0)
  else match pendingHit t.openers n.sr n.vr with
    | some x => some (.lookaheadReadPending, regDetail x)
    | none => match pendingHit t.openers n.sw n.vw with
      | some x => some (.lookaheadWritePending, regDetail x)
      | none => none

/-- A window after one more instruction has issued (R97). -/
def tickOpener (o : Opener) : Opener :=
  if o.left ≤ 1 then { o with left := 0, isOpen := false } else { o with left := o.left - 1 }

/-- Windows after an instruction: those open before it are counted down, its own stays whole. -/
def tickWindows (old now : List Opener) : List Opener :=
  now.map (fun o => if old.any (fun q => q.id == o.id) then tickOpener o else o)

/-- Spacing to the strand's next instruction in cycles (R101); 1 where R101 gives none. -/
def spacing (i : Instr) (n : Next) : Nat :=
  match i with
  | .mul _ _ _ | .mulh _ _ _ | .mulhn _ _ _ => 3
  | .div _ _ _ la | .divn _ _ _ la | .rem _ _ _ la | .remn _ _ _ la => if la = 0 then 24 else 1
  | .br _ | .call _ | .jr _ | .jal _ _ => 3
  | .bc _ _ _ => match n with | .goto _ => 3 | _ => 2
  | _ => 1

/-- A strand that waits (R103). -/
def waitStrand (s : State) (r : StrandRef) (t : Strand) (w : Wait) : State := setStrand s r { t with status := .waiting w }

/-- Waiting for `w` an instruction has begun: the strand is at no boundary until it ends (R244, R333, R340). One that waits
for a queue, a place or a job table entry has done nothing yet. -/
def waitsInside (w : Wait) : Bool :=
  match w with
  | .queue _ | .stores | .sends | .job _ _ _ _ _ => false
  | _ => true

/-- Run-ahead entered once the strand has no openers (R99, R139). -/
def enterWhenClean (s : State) (x : Ctx) (p : PageRec) (r : Regs) : State :=
  if x.t.openers.isEmpty then enterShadow s x p r
  else waitStrand s x.r { x.t with openers := x.t.openers.map (fun o => { o with isOpen := false }) } .openers

/-- What a stopped instruction does to its strand: trap, run-ahead, wait, miss (R93, R139, R323, R354). In run-ahead a fault
that is none of the two page faults ends it (R140), `poison-consumed` of a gather or scatter index, of a compare or of a
predicate source among them (log 63). Where the read of a descriptor begins run-ahead, the destination keeps its value (log 13). -/
def stopped (s : State) (x : Ctx) (e : Stop) : Out :=
  match e with
  | .hole pa => .fault (.noFrame pa)
  | .wait w => .next (waitStrand s x.r { x.t with inside := waitsInside w } w)
  | .endShadow => .next (endShadow s x.r x.t)
  | .trap c d a =>
    match x.t.shadow with
    | some _ => .next (endShadow s x.r x.t)
    | none => .next (raiseTrap s x.r x.t (trapReq s c d a x.t.pc x.t.pc x.word0))
  | .page c va w f =>
    match x.t.shadow with
    | some _ => .next (endShadow s x.r x.t)
    | none =>
      .next (enterWhenClean s x ⟨va.toNat / 65536 % 2 ^ 40, c, w, f⟩ x.t.r)
  | .enter p r => .next (enterWhenClean s x p r)
  | .miss va acc =>
    match startMiss s x.r.core.die x.r.core.clus x.t.dom (strandSid s x.r x.t.dom) va acc none with
    | (some tok, s) => .next (waitStrand s x.r x.t (.miss tok))
    | (none, s) => .next (updStrand s x.r (fun t => { t with absent := (va.toNat / 65536) :: t.absent, since := s.cycle + 1,
                                                             readyAt := s.cycle + 1 }))

/-- The core's vector/engine pipe after an instruction has issued to it (R257). -/
def occupy (s : State) (c : CoreId) (i : Instr) : State :=
  if occupancy i ≤ 1 then s else updCore s c (fun k => { k with pipeFree := s.cycle + occupancy i })

/-- The strand after an instruction that completed: place, windows, spacing, latencies, single step (R97, R101, R257, R331).
A save that found it waiting for an answer comes before the next instruction (R333). A step that began run-ahead is taken
once the instruction has executed outside it. -/
def finish (i : Instr) (s : State) (x : Ctx) (n : Next) : State :=
  match getStrand s x.r with
  | none => s
  | some t =>
    match n with
    | .stay => s
    | .hold w => setStrand s x.r { t with status := .waiting w, inside := true }
    | _ =>
      let pc := match n with | .goto a => a | _ => x.t.pc + BitVec.ofNat 64 x.len
      let at_ := s.cycle + spacing i n
      let t := { t with pc := pc, target := (match n with | .goto _ => true | _ => false),
                        from_ := some (x.t.pc, x.word0), status := .ready, readyAt := at_, since := at_, skipBp := t.skipBp && t.shadow.isSome,
                        openers := tickWindows x.t.openers t.openers, lat := newLat x.t.r i s.cycle t.lat, inside := false,
                        saveNow := t.inside && t.preq.isSome && answers i,
                        shadow := t.shadow.map (fun h => { h with issued := h.issued + 1 }) }
      let s := occupy s x.r.core i
      if t.step1 && t.shadow.isNone then raiseTrap s x.r t (trapReq s .singleStep 0 0 x.t.pc pc x.word0)
      else match t.shadow with
        | some h => if 4096 ≤ h.issued ∨ 32 ≤ h.pages.length then endShadow s x.r t else setStrand s x.r t
        | none => setStrand s x.r t

/-- An instruction of the current strand: the checks of R93 from item 8, lookahead windows (R97, R98), run-ahead (R140),
then its own effect `body`. R97 closes the window when `jal` is reached, so that `jal` waits and its link write never meets a
pending destination (log 64). -/
def issue (i : Instr) (s : State) (body : State → Ctx → Except Stop (State × Next)) : Out :=
  match getStrand s s.cur with
  | none => .fault .noStrand
  | some t =>
    let n := need i
    let x : Ctx := ⟨s.cur, t, i.len, i.word0⟩
    let os := if n.closes then t.openers.map (fun o => { o with isOpen := false }) else t.openers
    if os.any (fun o => !o.isOpen) then .next (waitStrand s s.cur { t with openers := os } .openers)
    else match sharedFault t n with
      | some (c, d) => stopped s x (.trap c d 0)
      | none =>
        match t.shadow, n.shadow with
        | some _, .ends => stopped s x .endShadow
        | some _, .suppress =>
          .next (finish i (setStrand s s.cur { t with r := poisonVecs t.uid s.cycle (poisonScalars t.uid s.cycle t.r n.sw) n.vw }) x .seq)
        | _, _ =>
          match body s x with
          | .ok (s', nx) => .next (finish i s' x nx)
          | .error e => stopped s x e

/-- The strand's registers written back. -/
def setRegs (s : State) (x : Ctx) (r : Regs) : State := setStrand s x.r { x.t with r := r }

/-- An instruction that computes registers from registers and goes on. -/
def compute (i : Instr) (s : State) (f : Ctx → Except Stop Regs) : Out :=
  issue i s (fun s x => (f x).map (fun r => (setRegs s x r, .seq)))

/-- `poison-consumed` for a scalar register (R327, R339). -/
def needClean (r : Regs) (n : BitVec 5) : Except Stop Unit :=
  if rdP r n then throw (.trap .poisonConsumed (BitVec.ofNat 64 n.toNat) 0) else pure ()

/-- `poison-consumed` for the first poisoned of several registers. -/
def needCleanAll (r : Regs) (l : List (BitVec 5)) : Except Stop Unit :=
  match l with
  | [] => pure ()
  | n :: t => do needClean r n; needCleanAll r t

end Sys2Proof.Machine
end

