-- ==== Sys2Proof/Machine/Scalar.lean ====
section
/-! DEFINITION. Integer, division and immediate instructions (R102, R106–R111). -/

namespace Sys2Proof.Machine

/-- A register instruction of two sources: D := f A B, poisoned when either source is (R102). -/
def int2 (i : Instr) (d a b : BitVec 5) (f : Word → Word → Word) (s : State) : Out :=
  compute i s (fun x => .ok (wr x.t.r d (f (rd x.t.r a) (rd x.t.r b)) (rdP x.t.r a || rdP x.t.r b)))

/-- A register instruction of one source. -/
def int1 (i : Instr) (d a : BitVec 5) (f : Word → Word) (s : State) : Out :=
  compute i s (fun x => .ok (wr x.t.r d (f (rd x.t.r a)) (rdP x.t.r a)))

/-- The low six bits of an amount (R106). -/
def amt6 (b : Word) : Nat := bitsOf b 0 6
/-- 1 or 0. -/
def bool01 (c : Bool) : Word := if c then 1 else 0
/-- The number of leading zero bits; 64 for 0. -/
def clzOf (a : Word) : Nat := 64 - bitLen a.toNat
/-- The number of trailing zero bits; 64 for 0. -/
def ctzOf (a : Word) : Nat := (lowBit 64 a.toNat 0).getD 64
/-- High 64 bits of a signed product. -/
def mulhOf (a b : Word) : Word := ((a.signExtend 128) * (b.signExtend 128)).extractLsb' 64 64
/-- High 64 bits of a natural product. -/
def mulhnOf (a b : Word) : Word := ((a.setWidth 128) * (b.setWidth 128)).extractLsb' 64 64
/-- The last bit of a field, min(63, pos + len − 1). -/
def bfHi (pos len : Nat) : Nat := if 63 < pos + len - 1 then 63 else pos + len - 1
/-- The mask of bits lo to hi, for lo ≤ hi ≤ 63. -/
def bfMask (lo hi : Nat) : Word := BitVec.ofNat 64 ((2 ^ (hi - lo + 1) - 1) * 2 ^ lo)
/-- `bfx` (R106). -/
def bfxOf (a b : Word) : Word :=
  let pos := bitsOf b 0 6
  let len := bitsOf b 8 7
  if len = 0 then 0 else (a >>> pos) &&& bfMask 0 (bfHi pos len - pos)
/-- `bfi` (R106). -/
def bfiOf (d a b : Word) : Word :=
  let pos := bitsOf b 0 6
  let len := bitsOf b 8 7
  if len = 0 then d
  else let m := bfMask pos (bfHi pos len); (d &&& ~~~m) ||| ((a <<< pos) &&& m)

/-- R106. -/
def execAdd (d a b : BitVec 5) (s : State) : Out := int2 (.add d a b) d a b (fun x y => x + y) s
/-- R106. -/
def execSub (d a b : BitVec 5) (s : State) : Out := int2 (.sub d a b) d a b (fun x y => x - y) s
/-- R106. -/
def execAnd (d a b : BitVec 5) (s : State) : Out := int2 (.and d a b) d a b (fun x y => x &&& y) s
/-- R106. -/
def execOr (d a b : BitVec 5) (s : State) : Out := int2 (.or d a b) d a b (fun x y => x ||| y) s
/-- R106. -/
def execXor (d a b : BitVec 5) (s : State) : Out := int2 (.xor d a b) d a b (fun x y => x ^^^ y) s
/-- R106. -/
def execAndn (d a b : BitVec 5) (s : State) : Out := int2 (.andn d a b) d a b (fun x y => x &&& ~~~y) s
/-- R106. -/
def execShl (d a b : BitVec 5) (s : State) : Out := int2 (.shl d a b) d a b (fun x y => x <<< amt6 y) s
/-- R106. -/
def execShr (d a b : BitVec 5) (s : State) : Out := int2 (.shr d a b) d a b (fun x y => x >>> amt6 y) s
/-- R106. -/
def execSar (d a b : BitVec 5) (s : State) : Out := int2 (.sar d a b) d a b (fun x y => x.sshiftRight (amt6 y)) s
/-- R106. -/
def execRor (d a b : BitVec 5) (s : State) : Out := int2 (.ror d a b) d a b (fun x y => x.rotateRight (amt6 y)) s
/-- R106. -/
def execMul (d a b : BitVec 5) (s : State) : Out := int2 (.mul d a b) d a b (fun x y => x * y) s
/-- R106. -/
def execMulh (d a b : BitVec 5) (s : State) : Out := int2 (.mulh d a b) d a b mulhOf s
/-- R106. -/
def execMulhn (d a b : BitVec 5) (s : State) : Out := int2 (.mulhn d a b) d a b mulhnOf s
/-- R106. -/
def execMin (d a b : BitVec 5) (s : State) : Out := int2 (.min d a b) d a b (fun x y => if y.slt x then y else x) s
/-- R106. -/
def execMax (d a b : BitVec 5) (s : State) : Out := int2 (.max d a b) d a b (fun x y => if x.slt y then y else x) s
/-- R106. -/
def execMinn (d a b : BitVec 5) (s : State) : Out := int2 (.minn d a b) d a b (fun x y => if y.ult x then y else x) s
/-- R106. -/
def execMaxn (d a b : BitVec 5) (s : State) : Out := int2 (.maxn d a b) d a b (fun x y => if x.ult y then y else x) s
/-- R106. -/
def execSlt (d a b : BitVec 5) (s : State) : Out := int2 (.slt d a b) d a b (fun x y => bool01 (x.slt y)) s
/-- R106. -/
def execSltn (d a b : BitVec 5) (s : State) : Out := int2 (.sltn d a b) d a b (fun x y => bool01 (x.ult y)) s
/-- R106. -/
def execSeq (d a b : BitVec 5) (s : State) : Out := int2 (.seq d a b) d a b (fun x y => bool01 (x == y)) s
/-- R106. -/
def execClz (d a : BitVec 5) (s : State) : Out := int1 (.clz d a) d a (fun x => BitVec.ofNat 64 (clzOf x)) s
/-- R106. -/
def execCtz (d a : BitVec 5) (s : State) : Out := int1 (.ctz d a) d a (fun x => BitVec.ofNat 64 (ctzOf x)) s
/-- R106. -/
def execPopc (d a : BitVec 5) (s : State) : Out := int1 (.popc d a) d a (fun x => BitVec.ofNat 64 (popN 64 x.toNat)) s
/-- R106. -/
def execBfx (d a b : BitVec 5) (s : State) : Out := int2 (.bfx d a b) d a b bfxOf s
/-- R106; the old value of D is read, with its poison (R102). -/
def execBfi (d a b : BitVec 5) (s : State) : Out :=
  compute (.bfi d a b) s (fun x => .ok (wr x.t.r d (bfiOf (rd x.t.r d) (rd x.t.r a) (rd x.t.r b))
    (rdP x.t.r d || rdP x.t.r a || rdP x.t.r b)))

/-- A new opener of the strand (R97): eight at most (R98), else the instruction waits. -/
def openWindow (s : State) (x : Ctx) (dest : Option (Bool × Nat)) (la : BitVec 4) (work : OpenerWork) : Except Stop State :=
  if 8 ≤ x.t.openers.length then .error (.wait .openers)
  else
    let (i, s) := fresh s
    let o : Opener := ⟨i, x.t.pc, dest, la.toNat, true, s.uid, x.t.floor, work, x.t.floorC⟩
    .ok (updStrand s x.r (fun t => { t with openers := t.openers ++ [o] }))

/-- The pending destination of a scalar opener: s0 is none (R96). -/
def pendS (d : BitVec 5) : Option (Bool × Nat) := if d = 0 then none else some (false, d.toNat)

/-- A division: at once with LA 0, else an opener whose result is written 24 cycles after its issue (R97, R101, R107). -/
def divOp (i : Instr) (d a b : BitVec 5) (la : BitVec 4) (f : Word → Word → Word) (s : State) : Out :=
  issue i s (fun s x =>
    let v := f (rd x.t.r a) (rd x.t.r b)
    let p := rdP x.t.r a || rdP x.t.r b
    if la = 0 then .ok (setRegs s x (wr x.t.r d v p), .seq)
    else (openWindow s x (pendS d) la (.div v p (s.cycle + 24))).map (fun s => (s, .seq)))

/-- R107: quotient truncated toward zero, −1 by zero; −2⁶³ / −1 wraps to −2⁶³. -/
def divOf (a b : Word) : Word := if b = 0 then ~~~(0#64) else BitVec.ofInt 64 (Int.tdiv a.toInt b.toInt)
/-- R107. -/
def divnOf (a b : Word) : Word := if b = 0 then ~~~(0#64) else BitVec.ofNat 64 (a.toNat / b.toNat)
/-- R107: the remainder takes the sign of the dividend. -/
def remOf (a b : Word) : Word := if b = 0 then a else BitVec.ofInt 64 (Int.tmod a.toInt b.toInt)
/-- R107. -/
def remnOf (a b : Word) : Word := if b = 0 then a else BitVec.ofNat 64 (a.toNat % b.toNat)

/-- R107. -/
def execDiv (d a b : BitVec 5) (la : BitVec 4) (s : State) : Out := divOp (.div d a b la) d a b la divOf s
/-- R107. -/
def execDivn (d a b : BitVec 5) (la : BitVec 4) (s : State) : Out := divOp (.divn d a b la) d a b la divnOf s
/-- R107. -/
def execRem (d a b : BitVec 5) (la : BitVec 4) (s : State) : Out := divOp (.rem d a b la) d a b la remOf s
/-- R107. -/
def execRemn (d a b : BitVec 5) (la : BitVec 4) (s : State) : Out := divOp (.remn d a b la) d a b la remnOf s

/-- R108. -/
def execAddi (d a : BitVec 5) (imm : BitVec 10) (s : State) : Out := int1 (.addi d a imm) d a (fun x => x + imm.signExtend 64) s
/-- R108. -/
def execAddiLiteral (d a : BitVec 5) (lit : BitVec 64) (s : State) : Out := int1 (.addiLiteral d a lit) d a (fun x => x + lit) s
/-- R108. -/
def execAndi (d a : BitVec 5) (imm : BitVec 10) (s : State) : Out := int1 (.andi d a imm) d a (fun x => x &&& imm.signExtend 64) s
/-- R108. -/
def execAndiLiteral (d a : BitVec 5) (lit : BitVec 64) (s : State) : Out := int1 (.andiLiteral d a lit) d a (fun x => x &&& lit) s
/-- R108. -/
def execOri (d a : BitVec 5) (imm : BitVec 10) (s : State) : Out := int1 (.ori d a imm) d a (fun x => x ||| imm.signExtend 64) s
/-- R108. -/
def execOriLiteral (d a : BitVec 5) (lit : BitVec 64) (s : State) : Out := int1 (.oriLiteral d a lit) d a (fun x => x ||| lit) s
/-- R108. -/
def execXori (d a : BitVec 5) (imm : BitVec 10) (s : State) : Out := int1 (.xori d a imm) d a (fun x => x ^^^ imm.signExtend 64) s
/-- R108. -/
def execXoriLiteral (d a : BitVec 5) (lit : BitVec 64) (s : State) : Out := int1 (.xoriLiteral d a lit) d a (fun x => x ^^^ lit) s
/-- R109. -/
def execShli (d a : BitVec 5) (amt : BitVec 6) (s : State) : Out := int1 (.shli d a amt) d a (fun x => x <<< amt.toNat) s
/-- R109. -/
def execShri (d a : BitVec 5) (amt : BitVec 6) (s : State) : Out := int1 (.shri d a amt) d a (fun x => x >>> amt.toNat) s
/-- R109. -/
def execSari (d a : BitVec 5) (amt : BitVec 6) (s : State) : Out := int1 (.sari d a amt) d a (fun x => x.sshiftRight amt.toNat) s
/-- R110; never poisoned. -/
def execLi (d : BitVec 5) (imm : BitVec 10) (s : State) : Out :=
  compute (.li d imm) s (fun x => .ok (wr x.t.r d (imm.signExtend 64) false))
/-- R110. -/
def execLiLiteral (d : BitVec 5) (lit : BitVec 64) (s : State) : Out :=
  compute (.liLiteral d lit) s (fun x => .ok (wr x.t.r d lit false))
/-- R111: relative to this instruction's word 0. -/
def execAddpc (d : BitVec 5) (imm : BitVec 10) (s : State) : Out :=
  compute (.addpc d imm) s (fun x => .ok (wr x.t.r d (x.t.pc + imm.signExtend 64) false))
/-- R111. -/
def execAddpcLiteral (d : BitVec 5) (lit : BitVec 64) (s : State) : Out :=
  compute (.addpcLiteral d lit) s (fun x => .ok (wr x.t.r d (x.t.pc + lit) false))

end Sys2Proof.Machine
end

