-- ==== Sys2Proof/Machine/Control.lean ====
section
/-! DEFINITION. Branches and jumps (R112–R114) and strand control (R115–R120), with the traps of R118 and R328, decode
and fetch faults (R81, R82, R93). -/

namespace Sys2Proof.Machine

/-- R112. -/
def execBr (off : BitVec 24) (s : State) : Out :=
  issue (.br off) s (fun s x => .ok (s, .goto (x.t.pc + (off.signExtend 64 <<< 2))))
/-- R112: the link is written before the target is fetched. -/
def execCall (off : BitVec 24) (s : State) : Out :=
  issue (.call off) s (fun s x =>
    .ok (setRegs s x (wr x.t.r 1#5 (x.t.pc + 4) false), .goto (x.t.pc + (off.signExtend 64 <<< 2))))

/-- The condition of `bc` (R113). -/
def condTaken (cc : BitVec 4) (a : Word) : Bool :=
  match cc.toNat with
  | 0 => a == 0
  | 1 => a != 0
  | 2 => a.slt 0
  | 3 => !a.slt 0
  | 4 => (0#64).slt a
  | 5 => !(0#64).slt a
  | 6 => a.getLsbD 0
  | _ => !a.getLsbD 0

/-- A use of a register as a branch condition or target: `poison-consumed`, or the end of run-ahead (R102, R140). -/
def branchUse (x : Ctx) (a : BitVec 5) : Except Stop Unit :=
  if rdP x.t.r a then (if x.t.shadow.isSome then throw .endShadow else needClean x.t.r a) else pure ()

/-- R113. -/
def execBc (a : BitVec 5) (cc : BitVec 4) (off : BitVec 15) (s : State) : Out :=
  issue (.bc a cc off) s (fun s x => do
    branchUse x a
    pure (s, if condTaken cc (rd x.t.r a) then .goto (x.t.pc + (off.signExtend 64 <<< 2)) else .seq))
/-- R114. -/
def execJr (a : BitVec 5) (s : State) : Out :=
  issue (.jr a) s (fun s x => do
    branchUse x a
    pure (s, .goto (rd x.t.r a)))
/-- R114: the target is read before the link is written. -/
def execJal (d a : BitVec 5) (s : State) : Out :=
  issue (.jal d a) s (fun s x => do
    branchUse x a
    pure (setRegs s x (wr x.t.r d (x.t.pc + 4) false), .goto (rd x.t.r a)))

/-- R115. -/
def execNop (s : State) : Out := issue .nop s (fun s _ => .ok (s, .seq))

/-- R116: not ready for 32 cycles, so the next instruction issues at c + 33 (R101). -/
def execPause (s : State) : Out := issue .pause s (fun s _ => .ok (s, .hold (.pause (s.cycle + 33))))

/-- R330: not ready until an event of the core, a pre-emption request, or 65,536 cycles. -/
def execIdle (s : State) : Out :=
  issue .idle s (fun s _ => .ok (s, .hold (.idle (s.cycle + 65536))))

/-- The end of a `pause` or an `idle`: the instruction is complete, and the strand has a new ready-since (R103, R116,
R330). -/
def endWait (i : Instr) (s : State) (r : StrandRef) (t : Strand) : State :=
  updStrand (finish i s ⟨r, t, 4, i.word0⟩ .seq) r (fun t => { t with since := s.cycle, readyAt := s.cycle })

/-- PAUSE_END (R116). -/
def execPauseEnd (r : StrandRef) (s : State) : Out :=
  .next (match getStrand s r with
    | some t => (match t.status with
      | .waiting (.pause till) => if till ≤ s.cycle then endWait .pause s r t else s
      | _ => s)
    | none => s)

/-- The events that end an `idle` of the strand (R330). -/
def idleOver (s : State) (t : Strand) (till : Nat) : Bool := t.preq.isSome || decide (till ≤ s.cycle)

/-- IDLE_TIMEOUT (R330). -/
def execIdleTimeout (r : StrandRef) (s : State) : Out :=
  .next (match getStrand s r with
    | some t => (match t.status with
      | .waiting (.idle till) => if idleOver s t till then endWait .idle s r t else s
      | _ => s)
    | none => s)

/-- Engine commands of the strand not complete: tiles and tables that a command names (R17, R119). -/
def engTiles (c : EngCmd) (kudu : Bool) : List Nat :=
  let d := (c.w0.toNat / 2 ^ 19) % 32
  if kudu then (if engFn c = 1 then [d, d + 1, d + 2, d + 3] else []) else [d]
/-- Table slots that a Kudu command names (R306, R311): D of the builds, B and up of `lmm`. -/
def engTabs (c : EngCmd) : List Nat :=
  let d := (c.w0.toNat / 2 ^ 19) % 32
  if engFn c = 1 then rangeFrom ((c.w0.toNat / 2 ^ 9) % 32) ((c.w1.toNat / 2 ^ 17) % 8 + 1) else [d]

/-- An incomplete DTE command of the strand names a tile in `ts`, or a Kudu command a table in `ls`, or with `trim` a tile in
`ts` (R119, R284, R307). -/
def engNames (k : Core) (uid : Nat) (ts ls : List Nat) (trim : Bool) : Bool :=
  k.dteq.any (fun c => c.who.uid == uid && (engTiles c false).any (fun n => ts.contains n)) ||
  k.kuduq.any (fun c => c.who.uid == uid && ((engTabs c).any (fun n => ls.contains n) || (trim && (engTiles c true).any (fun n => ts.contains n))))

/-- R117: after the openers (a form of major 0x00 waits for them) the strand ends; its slot and frame are freed at
STRAND_RELEASE (R17). -/
def execDone (s : State) : Out :=
  issue .done s (fun s x => .ok (setStrand s x.r { x.t with status := .ended, step1 := false }, .stay))

/-- R118: raised after the instruction, with the next instruction as PC. -/
def execTrap (code : BitVec 10) (s : State) : Out :=
  issue (.trap code) s (fun s x =>
    .ok (raiseTrap s x.r x.t (trapReq s .trapInstruction (code.setWidth 64) 0 x.t.pc (x.t.pc + 4) x.word0), .stay))

/-- R328: the resume address is the `brk` itself. -/
def execBrk (code : BitVec 10) (s : State) : Out :=
  issue (.brk code) s (fun _ _ => .error (.trap .breakpoint (code.setWidth 64) 0))

/-- R119. -/
def execFtrim (v : BitVec 6) (a t : BitVec 4) (s : State) : Out :=
  issue (.ftrim v a t) s (fun s x =>
    if x.t.r.v.length < v.toNat ∨ x.t.tiles.length < a.toNat ∨ x.t.tabs.length < t.toNat then
      .error (.trap .operandRange 0 0)
    else if engNames (getCore s x.r.core) x.t.uid (rangeFrom a.toNat (x.t.tiles.length - a.toNat))
        (rangeFrom t.toNat (x.t.tabs.length - t.toNat)) true then
      .error (.wait (.engine (rangeFrom a.toNat (x.t.tiles.length - a.toNat)) (rangeFrom t.toNat (x.t.tabs.length - t.toNat)) true))
    else .ok (freeRoom (setStrand s x.r { x.t with r := { x.t.r with v := x.t.r.v.take v.toNat }, tiles := x.t.tiles.take a.toNat,
                                                   tabs := x.t.tabs.take t.toNat })
      x.r.core none (x.t.r.v.length - v.toNat) (x.t.tiles.length - a.toNat) (x.t.tabs.length - t.toNat), .seq))

/-- The cause of a decode fault for a strand's level (R93 items 4 to 9). -/
def faultCause (p : Priv) (e : DecodeFault) : Cause :=
  match e with
  | .illegalMajor => .illegalMajor
  | .badLength => .badLength
  | .illegalFunction => .illegalFunction
  | .reservedField => .reservedField
  | .lookaheadMisuse n => if privNum p < privNum n then .privileged else .lookaheadMisuse
  | .reservedLate _ _ => .reservedField

/-- A fetch fault (R81, R82). A page fault makes the batch record of that one page, with no run-ahead. After a transfer,
`not-instruction-start` names the transferring instruction and DADDR the target (R324, R327); at an entry, and for every
other cause, the address fetched and a WORD0 of zero. In run-ahead any fetch fault, a missing page among them, ends it (log 63). -/
def execFetchFault (why : Cause) (addr : BitVec 64) (s : State) : Out :=
  match getStrand s s.cur with
  | none => .fault .noStrand
  | some t =>
    match t.shadow with
    | some _ => .next (endShadow s s.cur t)
    | none =>
      if why = .pageNotPresent ∨ why = .pageNotLocal then
        if t.openers.isEmpty then
          let vu := addr.toNat / 65536
          .next (takeFault s s.cur { t with absent := t.absent.filter (fun v => v != vu) }
            [⟨vu % 2 ^ 40, why, false, true⟩] addr false)
        else .next (waitStrand s s.cur { t with openers := t.openers.map (fun o => { o with isOpen := false }) } .openers)
      else if why = .notInstructionStart then
        match t.target, t.from_ with
        | true, some (ia, w) => .next (raiseTrap s s.cur t (trapReq s why 0 addr ia ia w))
        | _, _ => .next (raiseTrap s s.cur t (trapReq s why 0 addr addr addr 0))
      else .next (raiseTrap s s.cur t (trapReq s why 0 addr addr addr 0))

end Sys2Proof.Machine
end

