-- ==== Sys2Proof/Machine/LoadStore.lean ====
section
/-! DEFINITION. Scalar loads, stores and prefetches (R132–R138), acquire loads, release stores and fences (R239–R249),
the landing of posted stores (R135, R137). -/

namespace Sys2Proof.Machine

/-- STORE_ARRIVAL (R137): a posted store is applied at its home. -/
def execStoreArrival (seq : Nat) (s : State) : Out :=
  .next (match s.pend.find? (fun p => p.seq == seq) with
    | some p => if canLand s p then landStore s p else s
    | none => s)

/-- An access of a strand located; in run-ahead a page fault collects the page and the destinations become poisoned
(R140), and outside it those with which run-ahead begins (R139). -/
def access (s : State) (x : Ctx) (va : Word) (n al : Nat) (a : Acc) (skip : Regs)
    (k : Loc → State → Except Stop (State × Next)) : Except Stop (State × Next) :=
  match locate s x.r x.t va n al a with
  | .ok (l, s) => k l s
  | .error (.page c va w f) =>
    (match x.t.shadow with
     | some h =>
       .ok (setStrand s x.r { x.t with r := skip, shadow := some (collect h ⟨va.toNat / 65536 % 2 ^ 40, c, w, f⟩) }, .seq)
     | none => .error (.enter ⟨va.toNat / 65536 % 2 ^ 40, c, w, f⟩ skip))
  | .error e => .error e

/-- A base register used (R133 item 1): in run-ahead the access is skipped with its destinations poisoned (R140). -/
def withBase (s : State) (x : Ctx) (a : BitVec 5) (skip : Regs) (k : Word → Except Stop (State × Next)) :
    Except Stop (State × Next) :=
  if rdP x.t.r a then
    (if x.t.shadow.isSome then .ok (setRegs s x skip, .seq)
     else .error (.trap .poisonConsumed (BitVec.ofNat 64 a.toNat) 0))
  else k (rd x.t.r a)

/-- Registers of the running strand replaced in a state that already holds it. -/
def putRegs (s : State) (x : Ctx) (r : Regs) : State := updStrand s x.r (fun t => { t with r := r })

/-- A load value: sign- or zero-extended (R136). -/
def extLoad (n : Nat) (sx : Bool) (l : List Byte) : Word := if sx then sextN (8 * n) (leNat l) else leWord l

/-- The access table of a global load that reaches its home slice (R388, R133 item 9). -/
def loadDenied (s : State) (c : CoreId) (dom level : Nat) (l : Loc) : Bool :=
  match l with
  | .mem pa => reachesHome s c level (pa / 64) && !homeAdmits s pa dom .load
  | .spad _ _ => false

/-- A load performed now: the value with its poison, errors reported (R134, R135), in run-ahead too (log 82 DESIGN CHOICE). -/
def loadNow (s : State) (x : Ctx) (d : BitVec 5) (va : Word) (l : Loc) (n : Nat) (sx : Bool) (level : Nat) :
    Except Stop State :=
  if ownAtomic s x.t.uid s.uid l n || openerOn x.t l n then .error (.wait .writes)
  else if loadDenied s x.r.core x.t.dom level l then .error (.trap .accessTableDenied 0 va)
  else
    let (bs, p, e, s) := readLoc s x.r.core x.t.uid s.uid level l n
    let s := reportDataOpt s x.t.dom (strandSid s x.r x.t.dom) e x.t.pc va
    .ok (putRegs s x (wr x.t.r d (extLoad n sx bs) (p || e.isSome)))

/-- Bytes of a type code (R136). -/
def tySize (ty : BitVec 3) : Nat := match ty.toNat % 4 with | 0 => 1 | 1 => 2 | 2 => 4 | _ => 8
/-- The address of a scaled offset: base + sext(off) × n. -/
def offAddr {w : Nat} (base : Word) (off : BitVec w) (n : Nat) : Word := base + off.signExtend 64 * BitVec.ofNat 64 n

/-- R136. -/
def execLd (d a : BitVec 5) (ty : BitVec 3) (off : BitVec 7) (la : BitVec 4) (s : State) : Out :=
  issue (.ld d a ty off la) s (fun s x =>
    let n := tySize ty
    let skip := wr x.t.r d (Config.poisonWord x.t.uid s.cycle d.toNat) true
    withBase s x a skip (fun base =>
      let va := offAddr base off n
      access s x va n n .load skip (fun l s =>
        if la = 0 ∨ x.t.shadow.isSome then (loadNow s x d va l n (ty.toNat ≤ 3) 0).map (fun s => (s, .seq))
        else if loadDenied s x.r.core x.t.dom 0 l then .error (.trap .accessTableDenied 0 va)
        else (openWindow s x (pendS d) la (.ld l va n (ty.toNat ≤ 3))).map (fun s => (s, .seq)))))

/-- A register's low bytes with one poison flag. -/
def storeBytes (n : Nat) (v : Word) (p : Bool) : List (Option (Byte × Bool)) := (leBytes n v.toNat).map (fun b => some (b, p))

/-- A scalar store posted with its floors (R132, R137, R248). -/
def storeNow (s : State) (x : Ctx) (d : BitVec 5) (va : Word) (l : Loc) (n floor floorC : Nat) : Except Stop (State × Next) :=
  if x.t.shadow.isSome then .ok (s, .seq)
  else if 32 ≤ outstanding s x.t.uid then .error (.wait .stores)
  else
    let (g, s) := fresh s
    .ok (postStore s x.r x.t floor floorC g va l (storeBytes n (rd x.t.r d) (rdP x.t.r d)), .seq)

/-- R137. -/
def execSt (d a : BitVec 5) (ty : BitVec 3) (off : BitVec 7) (s : State) : Out :=
  issue (.st d a ty off) s (fun s x =>
    let n := tySize ty
    withBase s x a x.t.r (fun base =>
      let va := offAddr base off n
      access s x va n n .store x.t.r (fun l s => storeNow s x d va l n x.t.floor x.t.floorC)))

/-- R138: the line is brought in when the whole path admits it; otherwise nothing happens. A line whose next read in memory
meets a data error is not brought in (log 65). -/
def execPref (a : BitVec 5) (ty : BitVec 3) (off : BitVec 7) (s : State) : Out :=
  issue (.pref a ty off) s (fun s x =>
    withBase s x a x.t.r (fun base =>
      let va := offAddr base off 8
      if 2 ^ 56 ≤ va.toNat then .ok (s, .seq)
      else match tlbLookup s (strandAgent x.r x.t) (va.toNat / 65536) with
        | none => .ok (s, .seq)
        | some (e, s') =>
          let pa := paOf e va
          if e.loc ≠ 0 ∨ (permFault e (privNum x.t.priv) .load).isSome ∨ !homeAdmits s pa x.t.dom .load ∨ !frameExists s pa
              ∨ (aget s.memBad (pa / 64)).isSome then .ok (s, .seq)
          else if ty = 2 then .ok (s', .seq)
          else .ok ((lineRead s' x.r.core ty.toNat (pa / 64)).2.2, .seq)))

/-- The level at which an acquire load of a scope reads (R247). -/
def acqLevel (scope : BitVec 2) : Nat := if scope.toNat = 0 then 0 else if scope.toNat = 1 then 1 else 2
/-- Bytes of a size code (R247). -/
def szBytes (size : BitVec 2) : Nat := 2 ^ size.toNat

/-- R247. -/
def execLdacq (d a : BitVec 5) (size scope : BitVec 2) (off : BitVec 6) (s : State) : Out :=
  issue (.ldacq d a size scope off) s (fun s x =>
    let n := szBytes size
    let skip := wr x.t.r d (Config.poisonWord x.t.uid s.cycle d.toNat) true
    if !readsDone s x.t then .error (.wait .openers)
    else withBase s x a skip (fun base =>
      let va := offAddr base off n
      access s x va n n .load skip (fun l s =>
        (loadNow s x d va l n true (acqLevel scope)).map (fun s =>
          (if x.t.shadow.isSome then s else acquire s x.r.core scope.toNat, .seq)))))

/-- R248: held until every earlier access of the strand is done at the point of the scope. -/
def execStrel (d a : BitVec 5) (size scope : BitVec 2) (off : BitVec 6) (s : State) : Out :=
  issue (.strel d a size scope off) s (fun s x =>
    let n := szBytes size
    withBase s x a x.t.r (fun base =>
      let va := offAddr base off n
      access s x va n n .store x.t.r (fun l s => (if scope.toNat ≤ 1 then storeNow s x d va l n x.t.floor s.uid else storeNow s x d va l n s.uid x.t.floorC))))

/-- The acquire part of a fence (R245), with the instruction cache at package scope or wider (R83). -/
def fenceAcquire (s : State) (c : CoreId) (scope : Nat) : State :=
  let s := acquire s c scope
  if 2 ≤ scope then updCore s c (fun k => { k with icache := [] }) else s

/-- The sequencer's place for a scope (R241): the core, the CAU of the cluster, or Eland. -/
def sequencerOf (c : CoreId) (scope : Nat) : CoreId :=
  if scope = 0 then c
  else if scope = 1 then (match c.kind with | .compute | .markhor => ⟨.markhor, c.die, c.clus, 0⟩ | _ => duikerId)
  else duikerId

/-- The strand's later writes held until its earlier accesses are done at the point of a scope (R239, R245). -/
def holdWrites (s : State) (r : StrandRef) (t : Strand) (scope : Nat) : State :=
  setStrand s r (if scope ≤ 1 then { t with floorC := s.uid } else { t with floor := s.uid })

/-- R245. -/
def execFence (kind scope : BitVec 2) (s : State) : Out :=
  issue (.fence kind scope) s (fun s x =>
    let sc := scope.toNat
    if x.t.shadow.isSome then .ok (s, .seq)
    else if kind = 1 then .ok (holdWrites s x.r x.t sc, .seq)
    else if !readsDone s x.t then .error (.wait .openers)
    else if kind = 0 then .ok (fenceAcquire s x.r.core sc, .seq)
    else if kind = 2 then .ok (fenceAcquire (holdWrites s x.r x.t sc) x.r.core sc, .seq)
    else if !belowDone s x.r.core x.t.uid s.uid x.t.openers sc then .error (.wait (.fence sc))
    else match x.t.ticket with
      | some true => .ok (fenceAcquire (holdWrites s x.r { x.t with ticket := none } sc) x.r.core sc, .seq)
      | some false =>
        .ok (raiseTrap s x.r { x.t with ticket := none } (trapReq s .remoteTimeout 0 0 x.t.pc x.t.pc x.word0), .stay)
      | none =>
        let hub := (getDom s x.t.dom).roothub
        if sc = 3 && !hub.getLsbD 12 then .error (.trap .remoteTimeout 0 0)
        else if s.tickets.any (fun q => q.ref == x.r) then .error (.wait (.ticket sc (now s)))
        else .ok ({ s with tickets := s.tickets ++ [⟨sc, sequencerOf x.r.core sc, x.r, now s, s.cycle⟩] }, .hold (.ticket sc (now s))))

/-- A ticket request before another at one sequencer: the cycle of arrival, then the lower identity word (R241). -/
def ticketBefore (s : State) (a b : Ticket) : Bool :=
  let key (q : Ticket) : Nat := match getStrand s q.ref with | some t => (strandSid s q.ref t.dom).toNat | none => 0
  decide (a.cyc < b.cyc) || (a.cyc == b.cyc && decide (key a < key b))

/-- The request goes to another package's Eland (R241). -/
def ticketRemote (s : State) (q : Ticket) : Bool :=
  q.scope == 3 && (match getStrand s q.ref with
    | some t => bitsOf (getDom s t.dom).roothub 0 12 != s.pkg
    | none => false)

/-- FENCE_TICKET_GRANT (R241): the first request of a sequencer of this package, or the answer of a remote root hub. -/
def execFenceTicketGrant (r : StrandRef) (s : State) : Out :=
  match s.tickets.find? (fun q => q.ref == r) with
  | none => .next s
  | some q =>
    let same (p : Ticket) : Bool :=
      p.inst == q.inst && (min p.scope 2 == min q.scope 2) && !ticketRemote s p
    if ticketRemote s q || !(s.tickets.any (fun p => same p && ticketBefore s p q)) then
      .next (updStrand { s with tickets := s.tickets.filter (fun p => p.ref != r) } r (fun t => { t with ticket := some true }))
    else .next s

/-- FENCE_TICKET_TIMEOUT (R241): no grant from the root hub within 100 µs. -/
def execFenceTicketTimeout (r : StrandRef) (s : State) : Out :=
  match s.tickets.find? (fun q => q.ref == r) with
  | none => .next s
  | some q =>
    if q.scope = 3 ∧ q.time + 100000 ≤ now s then
      .next (updStrand { s with tickets := s.tickets.filter (fun p => p.ref != r) } r (fun t => { t with ticket := some false }))
    else .next s

end Sys2Proof.Machine
end

