-- ==== Sys2Proof/Machine/Atomic.lean ====
section
/-! DEFINITION. Atomics (R143–R149): issue, execution of posted atomics, and the completion of openers (R97, R99). -/

namespace Sys2Proof.Machine

/-- At issue a global atomic invalidates the line in the issuing core's L1 (R149). -/
def dropL1 (s : State) (c : CoreId) (l : Loc) : State :=
  match l with
  | .mem pa => updCore s c (fun k => { k with l1 := adel k.l1 (pa / 64) })
  | .spad _ _ => s

/-- A returning atomic must wait: an earlier access of the strand on the word, or a fence's hold (R149, R245). -/
def amoBlocked (s : State) (c : CoreId) (t : Strand) (l : Loc) (n : Nat) : Bool :=
  !belowDone s c t.uid t.floor t.openers 2 || !belowDone s c t.uid t.floorC t.openers 1 ||
  s.pend.any (fun p => p.uid == t.uid && locOverlap p.loc (pwLen p) l n) || openerOn t l n

/-- The value of a destination: below the poison of an atomic that met a data error the spec gives none (R147, log 13). -/
def amoDest (s : State) (t : Strand) (d : BitVec 5) (v : Word) (e : Option Cause) : Word :=
  if e.isSome then Config.poisonWord t.uid s.cycle d.toNat else v

/-- The AMO family (R147, R148). -/
def amo (i : Instr) (fn : Nat) (d a b c : BitVec 5) (scope : BitVec 2) (size nr : BitVec 1) (la : BitVec 4) (s : State) : Out :=
  issue i s (fun s x =>
    let wide := size = 1
    let n := if wide then 8 else 4
    let skip := if nr = 1 then x.t.r else wr x.t.r d (Config.poisonWord x.t.uid s.cycle d.toNat) true
    withBase s x a skip (fun va => do
      if x.t.shadow.isNone then needCleanAll x.t.r [b, c]
      if (fn = 10 ∨ fn = 11 ∨ fn = 12) ∧ wide then throw (.trap .atomicNotSupported 0 va)
      let hub := match x.r.core.kind with | .hub | .duiker => true | _ => false
      if hub = true ∧ scope.toNat ≤ 1 ∧ va.toNat < 2 ^ 56 then throw (.trap .atomicScopeInvalid 0 va)
      access s x va n n .atomic skip (fun l s =>
        if x.t.shadow.isSome then .ok (putRegs s x skip, .seq)
        else if nr = 1 then
          if 32 ≤ outstanding s x.t.uid then .error (.wait .stores)
          else
            let (q, s) := fresh (dropL1 s x.r.core l)
            .ok ({ s with pend := s.pend ++ [⟨q, q, x.r, x.t.uid, x.t.floor, x.t.pc, va, l,
                            .atomic fn wide scope.toNat (rd x.t.r b) (rd x.t.r c), x.t.floorC, 0⟩] }, .seq)
        else if la ≠ 0 then
          (openWindow (dropL1 s x.r.core l) x (pendS d) la (.amo l va fn wide scope.toNat (rd x.t.r b) (rd x.t.r c))).map
            (fun s => (s, .seq))
        else if amoBlocked s x.r.core x.t l n then .error (.wait .writes)
        else
          let (v, p, e, s) := amoExecute (dropL1 s x.r.core l) (some x.r.core) (.next x.t.uid) l fn wide scope.toNat (rd x.t.r b) (rd x.t.r c)
          let s := reportDataOpt s x.t.dom (strandSid s x.r x.t.dom) e x.t.pc va
          .ok (putRegs s x (wr x.t.r d (amoDest s x.t d v e) p), .seq))))

/-- R147. -/
def execAmoAdd (d a b c : BitVec 5) (scope : BitVec 2) (size nr : BitVec 1) (la : BitVec 4) (s : State) : Out :=
  amo (.amoAdd d a b c scope size nr la) 0 d a b c scope size nr la s
/-- R147. -/
def execAmoMin (d a b c : BitVec 5) (scope : BitVec 2) (size nr : BitVec 1) (la : BitVec 4) (s : State) : Out :=
  amo (.amoMin d a b c scope size nr la) 1 d a b c scope size nr la s
/-- R147. -/
def execAmoMinn (d a b c : BitVec 5) (scope : BitVec 2) (size nr : BitVec 1) (la : BitVec 4) (s : State) : Out :=
  amo (.amoMinn d a b c scope size nr la) 2 d a b c scope size nr la s
/-- R147. -/
def execAmoMax (d a b c : BitVec 5) (scope : BitVec 2) (size nr : BitVec 1) (la : BitVec 4) (s : State) : Out :=
  amo (.amoMax d a b c scope size nr la) 3 d a b c scope size nr la s
/-- R147. -/
def execAmoMaxn (d a b c : BitVec 5) (scope : BitVec 2) (size nr : BitVec 1) (la : BitVec 4) (s : State) : Out :=
  amo (.amoMaxn d a b c scope size nr la) 4 d a b c scope size nr la s
/-- R147. -/
def execAmoAnd (d a b c : BitVec 5) (scope : BitVec 2) (size nr : BitVec 1) (la : BitVec 4) (s : State) : Out :=
  amo (.amoAnd d a b c scope size nr la) 5 d a b c scope size nr la s
/-- R147. -/
def execAmoOr (d a b c : BitVec 5) (scope : BitVec 2) (size nr : BitVec 1) (la : BitVec 4) (s : State) : Out :=
  amo (.amoOr d a b c scope size nr la) 6 d a b c scope size nr la s
/-- R147. -/
def execAmoXor (d a b c : BitVec 5) (scope : BitVec 2) (size nr : BitVec 1) (la : BitVec 4) (s : State) : Out :=
  amo (.amoXor d a b c scope size nr la) 7 d a b c scope size nr la s
/-- R147. -/
def execAmoExch (d a b c : BitVec 5) (scope : BitVec 2) (size nr : BitVec 1) (la : BitVec 4) (s : State) : Out :=
  amo (.amoExch d a b c scope size nr la) 8 d a b c scope size nr la s
/-- R147. -/
def execAmoCas (d a b c : BitVec 5) (scope : BitVec 2) (size nr : BitVec 1) (la : BitVec 4) (s : State) : Out :=
  amo (.amoCas d a b c scope size nr la) 9 d a b c scope size nr la s
/-- R147. -/
def execAmoFadd (d a b c : BitVec 5) (scope : BitVec 2) (size nr : BitVec 1) (la : BitVec 4) (s : State) : Out :=
  amo (.amoFadd d a b c scope size nr la) 10 d a b c scope size nr la s
/-- R147. -/
def execAmoFmin (d a b c : BitVec 5) (scope : BitVec 2) (size nr : BitVec 1) (la : BitVec 4) (s : State) : Out :=
  amo (.amoFmin d a b c scope size nr la) 11 d a b c scope size nr la s
/-- R147. -/
def execAmoFmax (d a b c : BitVec 5) (scope : BitVec 2) (size nr : BitVec 1) (la : BitVec 4) (s : State) : Out :=
  amo (.amoFmax d a b c scope size nr la) 12 d a b c scope size nr la s
/-- R147. -/
def execAmoIns (d a b c : BitVec 5) (scope : BitVec 2) (size nr : BitVec 1) (la : BitVec 4) (s : State) : Out :=
  amo (.amoIns d a b c scope size nr la) 13 d a b c scope size nr la s
/-- R147. -/
def execAmoFfcs (d a b c : BitVec 5) (scope : BitVec 2) (size nr : BitVec 1) (la : BitVec 4) (s : State) : Out :=
  amo (.amoFfcs d a b c scope size nr la) 14 d a b c scope size nr la s
/-- R147. -/
def execAmoPset (d a b c : BitVec 5) (scope : BitVec 2) (size nr : BitVec 1) (la : BitVec 4) (s : State) : Out :=
  amo (.amoPset d a b c scope size nr la) 15 d a b c scope size nr la s

/-- A vector element written at an index of `eb` bytes. -/
def setElem (bits : Line) (eb i : Nat) (v : Nat) : Line :=
  let m := BitVec.ofNat 512 ((2 ^ (8 * eb) - 1) * 2 ^ (8 * eb * i))
  (bits &&& ~~~m) ||| (BitVec.ofNat 512 (v * 2 ^ (8 * eb * i)) &&& m)

/-- The elements of a vector load read (R265, R266): the register, the errors met, the state. Poison of a segment with an
active element follows the elements read; `done8` are the segments already given their new poison. -/
def vldRead (s : State) (c : CoreId) (uid limit : Nat) (eb : Nat) (i : Nat) (els : List (Option (Loc × Word))) (v : VReg) :
    VReg × List (Cause × Word) × State :=
  match els with
  | [] => (v, [], s)
  | none :: t => vldRead s c uid limit eb (i + 1) t v
  | some (l, va) :: t =>
    let (bs, p, e, s) := readLoc s c uid limit 0 l eb
    let seg := i * eb / 8
    let v := { v with bits := setElem v.bits eb i (leNat bs),
                      pois := if p || e.isSome then v.pois ||| (1#8 <<< seg) else v.pois }
    let (v, es, s) := vldRead s c uid limit eb (i + 1) t v
    (v, (match e with | some x => (x, va) :: es | none => es), s)

/-- Errors of a vector load reported, each with its address (R135). -/
def reportAll (s : State) (dom : Nat) (sid iaddr : Word) (l : List (Cause × Word)) : State :=
  l.foldl (fun s e => reportData s dom sid e.1 iaddr e.2) s

/-- No earlier opener of the strand is on the extent (R132). -/
def openersBefore (t : Strand) (o : Opener) (l : Loc) (n : Nat) : Bool := t.openers.any (fun q => decide (q.id < o.id) && openerTouches q l n)

/-- The opener may complete (R107, R132, R149, R245): a division when it is due; an access when what it reads or updates is not
behind an earlier access of the strand. -/
def openerReady (s : State) (c : CoreId) (t : Strand) (o : Opener) : Bool :=
  match o.work with
  | .div _ _ due => decide (due ≤ s.cycle)
  | .ld l _ n _ => !ownAtomic s t.uid o.seq l n && !openersBefore t o l n
  | .amo l _ _ w _ _ _ =>
    let n := if w then 8 else 4
    belowDone s c t.uid o.floor t.openers 2 && belowDone s c t.uid o.floorC t.openers 1 &&
    !(s.pend.any (fun p => p.uid == t.uid && decide (p.seq < o.seq) && locOverlap p.loc (pwLen p) l n)) && !openersBefore t o l n
  | .vld els eb _ _ => els.all (fun e => match e with
    | some (l, _) => !ownAtomic s t.uid o.seq l eb && !openersBefore t o l eb
    | none => true)

/-- The scalar destination of an opener. -/
def openerDst (o : Opener) : BitVec 5 := match o.dest with | some (false, n) => BitVec.ofNat 5 n | _ => 0

/-- An opener completes (R99): the registers are written; the last opener's end lets a raised trap go on (R323). -/
def endOpener (s : State) (r : StrandRef) (id : Nat) (regs : Regs) : State :=
  let s := updStrand s r (fun t => { t with r := regs, openers := t.openers.filter (fun q => q.id != id) })
  match getStrand s r with
  | some t =>
    (match t.status with
     | .trapping q => if t.openers.isEmpty then takeTrap s r t q else s
     | _ => s)
  | none => s

end Sys2Proof.Machine
end

