-- ==== Sys2Proof/Machine/Vector.lean ====
section
/-! DEFINITION. The VALU, VPERM and VMEM families (R252–R267). -/

namespace Sys2Proof.Machine

/-- A vector instruction: registers of the strand to registers. -/
def vecOp (i : Instr) (s : State) (f : Regs → Except Stop Regs) : Out := compute i s (fun x => f x.t.r)

/-- The element-wise result stored, its flags ORed into fctl. -/
def vput (r : Regs) (d : BitVec 5) (x : VReg × Flags) : Regs := orFlags (wrV r d x.1) x.2

/-- An integer element's value by its tag. -/
def intVal (t w x : Nat) : Int := if tagSigned t then sintN w x else Int.ofNat (x % 2 ^ w)

/-- A binary form on equal tags, integers and floats (R258). -/
def vbin (i : Instr) (d a b : BitVec 5) (p : BitVec 3) (z : BitVec 1) (accept : Nat → Bool)
    (fi : Nat → Nat → Nat → Nat → Nat) (ff : Fmt → RMode → Nat → Nat → Nat × Flags) (s : State) : Out :=
  vecOp i s (fun r => do
    let va := vreg r a
    let vb := vreg r b
    let t := va.tag.toNat
    orTrap (accept t && accept vb.tag.toNat) .formatUnsupported
    orTrap (va.tag == vb.tag) .formatMismatch
    let w := tagWidth t
    pure (vput r d (vwrite (vreg r d) w va.tag (preg r p.toNat) (z = 1)
      (fun e => let x := elemOf va.bits w e; let y := elemOf vb.bits w e
                if tagFloat t then ff (tagFmt t) (rmOf r) x y else (fi t w x y, 0))
      (fun e => elemPois va w e || elemPois vb w e))))

/-- Integer and float tags (R258). -/
def tagNum (t : Nat) : Bool := tagInt t || tagFloat t

/-- Signed or natural lesser or greater (R258). -/
def intMM (mx : Bool) (t w x y : Nat) : Nat :=
  let lt : Bool := decide (intVal t w y < intVal t w x)
  if mx then (if lt then x else y) else (if lt then y else x)

/-- R258. -/
def execVadd (d a b : BitVec 5) (p : BitVec 3) (z : BitVec 1) (s : State) : Out :=
  vbin (.vadd d a b p z) d a b p z tagNum (fun _ w x y => (x + y) % 2 ^ w) fadd s
/-- R258. -/
def execVsub (d a b : BitVec 5) (p : BitVec 3) (z : BitVec 1) (s : State) : Out :=
  vbin (.vsub d a b p z) d a b p z tagNum (fun _ w x y => (x + (2 ^ w - y)) % 2 ^ w) fsub s
/-- R258. -/
def execVmul (d a b : BitVec 5) (p : BitVec 3) (z : BitVec 1) (s : State) : Out :=
  vbin (.vmul d a b p z) d a b p z tagNum (fun _ w x y => (x * y) % 2 ^ w) fmul s
/-- R258, R41. -/
def execVmin (d a b : BitVec 5) (p : BitVec 3) (z : BitVec 1) (s : State) : Out :=
  vbin (.vmin d a b p z) d a b p z tagNum (intMM false) (fun f _ x y => (fminmax f false x y, 0)) s
/-- R258, R41. -/
def execVmax (d a b : BitVec 5) (p : BitVec 3) (z : BitVec 1) (s : State) : Out :=
  vbin (.vmax d a b p z) d a b p z tagNum (intMM true) (fun f _ x y => (fminmax f true x y, 0)) s
/-- R258. -/
def execVshl (d a b : BitVec 5) (p : BitVec 3) (z : BitVec 1) (s : State) : Out :=
  vbin (.vshl d a b p z) d a b p z tagInt (fun _ w x y => (x * 2 ^ (y % w)) % 2 ^ w) (fun _ _ _ _ => (0, 0)) s
/-- R258: copies of the sign bit for signed tags, zeros for natural tags. -/
def execVshr (d a b : BitVec 5) (p : BitVec 3) (z : BitVec 1) (s : State) : Out :=
  vbin (.vshr d a b p z) d a b p z tagInt
    (fun t w x y => natN w (Int.fdiv (intVal t w x) (Int.ofNat (2 ^ (y % w))))) (fun _ _ _ _ => (0, 0)) s
/-- R258, R46. -/
def execVdiv (d a b : BitVec 5) (p : BitVec 3) (z : BitVec 1) (s : State) : Out :=
  vbin (.vdiv d a b p z) d a b p z tagFloat (fun _ _ _ _ => 0) fdiv s

/-- R50, R258. -/
def execVfma (d a b : BitVec 5) (p : BitVec 3) (z : BitVec 1) (s : State) : Out :=
  vecOp (.vfma d a b p z) s (fun r => do
    let va := vreg r a
    let vb := vreg r b
    let vd := vreg r d
    let t := va.tag.toNat
    orTrap (tagNum t && tagNum vb.tag.toNat && tagNum vd.tag.toNat) .formatUnsupported
    orTrap (va.tag == vb.tag && va.tag == vd.tag) .formatMismatch
    let w := tagWidth t
    pure (vput r d (vwrite vd w va.tag (preg r p.toNat) (z = 1)
      (fun e =>
        let x := elemOf va.bits w e
        let y := elemOf vb.bits w e
        let c := elemOf vd.bits w e
        if tagFloat t then ffma (tagFmt t) (rmOf r) x y c else ((x * y + c) % 2 ^ w, 0))
      (fun e => elemPois va w e || elemPois vb w e || elemPois vd w e))))

/-- A unary form (R258). -/
def vuna (i : Instr) (d a : BitVec 5) (p : BitVec 3) (z : BitVec 1) (accept : Nat → Bool)
    (f : Nat → Nat → RMode → Nat → Nat × Flags) (s : State) : Out :=
  vecOp i s (fun r => do
    let va := vreg r a
    let t := va.tag.toNat
    orTrap (accept t) .formatUnsupported
    let w := tagWidth t
    pure (vput r d (vwrite (vreg r d) w va.tag (preg r p.toNat) (z = 1)
      (fun e => f t w (rmOf r) (elemOf va.bits w e)) (fun e => elemPois va w e))))

/-- |A| (R258): the most negative integer stays; float NaN gives the canonical NaN. -/
def vabsOf (t w : Nat) (_ : RMode) (x : Nat) : Nat × Flags :=
  if tagFloat t then (if fdec (tagFmt t) x = .nan then fnan (tagFmt t) else x % 2 ^ (w - 1), 0)
  else (if x < 2 ^ (w - 1) then x else (2 ^ w - x) % 2 ^ w, 0)
/-- −A (R258). -/
def vnegOf (t w : Nat) (_ : RMode) (x : Nat) : Nat × Flags :=
  if tagFloat t then (if fdec (tagFmt t) x = .nan then fnan (tagFmt t) else x ^^^ 2 ^ (w - 1), 0)
  else ((2 ^ w - x) % 2 ^ w, 0)

/-- 1 / √A correctly rounded (R46, R258). -/
def frsq (f : Fmt) (mode : RMode) (x : Nat) : Nat × Flags :=
  match fdec f x with
  | .nan => (fnan f, 0)
  | .inf true => (fnan f, flNV)
  | .inf false => (0, 0)
  | .fin neg m e =>
    if m = 0 then (finfEnc f neg, flDZ)
    else if neg then (fnan f, flNV)
    else
      -- an even exponent, then 2^64 / √m to its integer part
      let (m, e) := if e % 2 = 0 then (m, e) else (2 * m, e - 1)
      let r := isqrt 66 (2 ^ 128 / m) 0
      froundNz f mode false r (-(e / 2) - 64) (r * r * m ≠ 2 ^ 128)

/-- Bits of the fixed-point enclosure of 2^A. -/
def expBits : Nat := 288
/-- ln 2 from below in units of 2^−expBits: Σ 1/(k 2^k); its error is below 320 units. -/
def ln2Lo : Nat := (List.range 320).foldl (fun t k => t + 2 ^ expBits / ((k + 1) * 2 ^ (k + 1))) 0
/-- e^y from below (`up` 0) or above (`up` 1) for y in units of 2^−expBits, y < 1. -/
def expSeries (y up : Nat) : Nat :=
  ((List.range 90).foldl (fun (z : Nat × Nat) k =>
    let t := z.2 * y / ((k + 1) * 2 ^ expBits) + up
    (z.1 + t, t)) (2 ^ expBits, 2 ^ expBits)).1 + up

/-- 2^A correctly rounded (R258): exact for an integer A, else an enclosure of width far below any rounding boundary
that a format has; where it does not decide, the spec's value is left free (log 6). -/
def fexp2 (code : Nat) (f : Fmt) (mode : RMode) (x : Nat) : Nat × Flags :=
  match fdec f x with
  | .nan => (fnan f, 0)
  | .inf true => (0, 0)
  | .inf false => (finfEnc f false, 0)
  | .fin neg m e =>
    if m = 0 then froundNz f mode false 1 0 false
    else if 18 ≤ (bitLen m : Int) + e then froundNz f mode false 1 (if neg then -70000 else 70000) (decide (e < 0))
    else if 0 ≤ e then
      let n : Int := Int.ofNat (m * 2 ^ e.toNat)
      froundNz f mode false 1 (if neg then -n else n) false
    else
      let k := (-e).toNat
      let v : Int := if neg then -Int.ofNat m else Int.ofNat m
      let i := Int.fdiv v (Int.ofNat (2 ^ k))
      let fr := (v - i * Int.ofNat (2 ^ k)).toNat
      if fr = 0 then froundNz f mode false 1 i false
      else
        let lo := expSeries (fr * ln2Lo / 2 ^ k) 0
        let hi := expSeries (fr * (ln2Lo + 330) / 2 ^ k + 1) 1
        let a := froundNz f mode false lo (i - expBits) true
        let b := froundNz f mode false hi (i - expBits) true
        if a = b then a else (Config.exp2Undecided code (match mode with | .rne => 0 | .rtz => 1 | .rup => 2 | .rdn => 3) x % 2 ^ f.width, flNX)

/-- R258. -/
def execVabs (d a : BitVec 5) (p : BitVec 3) (z : BitVec 1) (s : State) : Out :=
  vuna (.vabs d a p z) d a p z (fun t => tagSigned t || tagFloat t) vabsOf s
/-- R258. -/
def execVneg (d a : BitVec 5) (p : BitVec 3) (z : BitVec 1) (s : State) : Out :=
  vuna (.vneg d a p z) d a p z tagNum vnegOf s
/-- R258, R46. -/
def execVrcp (d a : BitVec 5) (p : BitVec 3) (z : BitVec 1) (s : State) : Out :=
  vuna (.vrcp d a p z) d a p z tagFloat
    (fun t _ m x => let f := tagFmt t; fdiv f m (f.bias * 2 ^ f.mw) x) s
/-- R258, R46. -/
def execVrsq (d a : BitVec 5) (p : BitVec 3) (z : BitVec 1) (s : State) : Out :=
  vuna (.vrsq d a p z) d a p z tagFloat (fun t _ m x => frsq (tagFmt t) m x) s
/-- R258, R46. -/
def execVexp2 (d a : BitVec 5) (p : BitVec 3) (z : BitVec 1) (s : State) : Out :=
  vuna (.vexp2 d a p z) d a p z tagFloat (fun t _ m x => fexp2 t (tagFmt t) m x) s

/-- Bitwise forms on any tags (R258): elements by the result tag. -/
def vbit (i : Instr) (d a b : BitVec 5) (p : BitVec 3) (z : BitVec 1) (f : Nat → Nat → Nat) (s : State) : Out :=
  vecOp i s (fun r =>
    let va := vreg r a
    let vb := vreg r b
    let tag := if va.tag = vb.tag then va.tag else 0
    let w := unitWidth tag.toNat
    .ok (vput r d (vwrite (vreg r d) w tag (preg r p.toNat) (z = 1)
      (fun e => (f (elemOf va.bits w e) (elemOf vb.bits w e), 0)) (fun e => elemPois va w e || elemPois vb w e))))
/-- R258. -/
def execVand (d a b : BitVec 5) (p : BitVec 3) (z : BitVec 1) (s : State) : Out :=
  vbit (.vand d a b p z) d a b p z (fun x y => x &&& y) s
/-- R258. -/
def execVor (d a b : BitVec 5) (p : BitVec 3) (z : BitVec 1) (s : State) : Out :=
  vbit (.vor d a b p z) d a b p z (fun x y => x ||| y) s
/-- R258. -/
def execVxor (d a b : BitVec 5) (p : BitVec 3) (z : BitVec 1) (s : State) : Out :=
  vbit (.vxor d a b p z) d a b p z (fun x y => x ^^^ y) s

/-- DETAIL of a poisoned vector register (R327). -/
def vecDetail (n : BitVec 5) : Word := BitVec.ofNat 64 (n.toNat + 32)

/-- Compares (R259). -/
def vcmp (i : Instr) (d a b : BitVec 5) (p : BitVec 3) (z : BitVec 1) (fi : Int → Int → Bool) (ff : FVal → FVal → Bool)
    (s : State) : Out :=
  vecOp i s (fun r => do
    let va := vreg r a
    let vb := vreg r b
    let t := va.tag.toNat
    orTrap (tagNum t && tagNum vb.tag.toNat) .formatUnsupported
    orTrap (va.tag == vb.tag) .formatMismatch
    let w := tagWidth t
    let n := 512 / w
    let pr := preg r p.toNat
    let old := preg r d.toNat
    if (List.range n).any (fun e => pr.getLsbD e && elemPois va w e) then throw (.trap .poisonConsumed (vecDetail a) 0)
    if (List.range n).any (fun e => pr.getLsbD e && elemPois vb w e) then throw (.trap .poisonConsumed (vecDetail b) 0)
    let bit (e : Nat) : Bool :=
      if pr.getLsbD e then
        let x := elemOf va.bits w e
        let y := elemOf vb.bits w e
        if tagFloat t then ff (fdec (tagFmt t) x) (fdec (tagFmt t) y) else fi (intVal t w x) (intVal t w y)
      else z == 0 && old.getLsbD e
    pure (wrP r d.toNat (BitVec.ofNat 64 (ofElems 1 ((List.range n).map (fun e => if bit e then 1 else 0))))))
/-- R259. -/
def execVceq (d a b : BitVec 5) (p : BitVec 3) (z : BitVec 1) (s : State) : Out :=
  vcmp (.vceq d a b p z) d a b p z (fun x y => decide (x = y)) fcmpEq s
/-- R259. -/
def execVclt (d a b : BitVec 5) (p : BitVec 3) (z : BitVec 1) (s : State) : Out :=
  vcmp (.vclt d a b p z) d a b p z (fun x y => decide (x < y)) fcmpLt s
/-- R259. -/
def execVcle (d a b : BitVec 5) (p : BitVec 3) (z : BitVec 1) (s : State) : Out :=
  vcmp (.vcle d a b p z) d a b p z (fun x y => decide (x ≤ y)) (fun x y => fcmpLt x y || fcmpEq x y) s

/-- R260. -/
def execVsel (d a b : BitVec 5) (p : BitVec 3) (s : State) : Out :=
  vecOp (.vsel d a b p) s (fun r => do
    let va := vreg r a
    let vb := vreg r b
    orTrap (va.tag == vb.tag) .formatMismatch
    let w := unitWidth va.tag.toNat
    let pr := preg r p.toNat
    pure (vput r d (vwrite (vreg r d) w va.tag (~~~(0#64)) true
      (fun e => (if pr.getLsbD e then elemOf va.bits w e else elemOf vb.bits w e, 0))
      (fun e => if pr.getLsbD e then elemPois va w e else elemPois vb w e))))

/-- One lane of `vdot` (R52). -/
def dotLane (t : Nat) (x y : Line) (acc i : Nat) : Nat × Flags :=
  if t = 1 then
    let sum := (List.range 4).foldl (fun (z : Int) k => z + sintN 8 (elemOf x 8 (4 * i + k)) * sintN 8 (elemOf y 8 (4 * i + k))) (sintN 32 acc)
    (natN 32 sum, 0)
  else
    let f := fmtBf16
    let (p0, g0) := fmulX (fdec f (elemOf x 16 (2 * i))) (fdec f (elemOf y 16 (2 * i)))
    let (p1, g1) := fmulX (fdec f (elemOf x 16 (2 * i + 1))) (fdec f (elemOf y 16 (2 * i + 1)))
    let (v, g2) := fsumX .rne [fdec fmtF32 acc, p0, p1]
    let (e, g3) := fround fmtF32 .rne v
    (e, g0 ||| g1 ||| g2 ||| g3)

/-- R52, R258. -/
def execVdot (d a b : BitVec 5) (p : BitVec 3) (z : BitVec 1) (s : State) : Out :=
  vecOp (.vdot d a b p z) s (fun r => do
    let va := vreg r a
    let vb := vreg r b
    let vd := vreg r d
    let src (t : BitVec 5) : Bool := t == 1 || t == 11
    orTrap (src va.tag && src vb.tag && (vd.tag == 5 || vd.tag == 12)) .formatUnsupported
    orTrap (va.tag == vb.tag && ((va.tag == 1) == (vd.tag == 5))) .formatMismatch
    pure (vput r d (vwrite vd 32 vd.tag (preg r p.toNat) (z = 1)
      (fun e => dotLane va.tag.toNat va.bits vb.bits (elemOf vd.bits 32 e) e)
      (fun e => elemPois va 32 e || elemPois vb 32 e || elemPois vd 32 e))))

/-- R261. -/
def execVperm (d a b : BitVec 5) (p : BitVec 3) (z : BitVec 1) (s : State) : Out :=
  vecOp (.vperm d a b p z) s (fun r => do
    let va := vreg r a
    let vb := vreg r b
    orTrap ((va.tag == 0 || tagWide va.tag.toNat) && tagInt vb.tag.toNat) .formatUnsupported
    let w := tagWidth va.tag.toNat
    orTrap (tagWidth vb.tag.toNat == w) .formatMismatch
    let idx (e : Nat) : Nat := elemOf vb.bits w e % (512 / w)
    pure (vput r d (vwrite (vreg r d) w va.tag (preg r p.toNat) (z = 1)
      (fun e => (elemOf va.bits w (idx e), 0)) (fun e => elemPois va w (idx e) || elemPois vb w e))))

/-- R262. -/
def execVbcast (d a code : BitVec 5) (p : BitVec 3) (z : BitVec 1) (s : State) : Out :=
  vecOp (.vbcast d a code p z) s (fun r => do
    orTrap (tagWide code.toNat) .operandRange
    let w := tagWidth code.toNat
    pure (vput r d (vwrite (vreg r d) w code (preg r p.toNat) (z = 1)
      (fun _ => ((rd r a).toNat % 2 ^ w, 0)) (fun _ => rdP r a))))

/-- The tree of R51 over lanes, halving `k` times. -/
def redTree (comb : Nat → Nat → Nat × Flags) (k : Nat) (l : List Nat) (g : Flags) : Nat × Flags :=
  match k with
  | 0 => ((l[0]?).getD 0, g)
  | k + 1 =>
    let m := l.length / 2
    let rs := (List.range m).map (fun i => comb ((l[i]?).getD 0) ((l[i + m]?).getD 0))
    redTree comb k (rs.map (fun x => x.1)) (rs.foldl (fun (h : Flags) x => h ||| x.2) g)

/-- A reduction (R51, R263); `ident` the identity by tag and width. -/
def vred (i : Instr) (d a : BitVec 5) (p : BitVec 3) (ident : Nat → Nat → Nat)
    (fi : Nat → Nat → Nat → Nat → Nat) (ff : Fmt → Nat → Nat → Nat × Flags) (s : State) : Out :=
  vecOp i s (fun r => do
    let va := vreg r a
    let t := va.tag.toNat
    orTrap (tagNum t) .formatUnsupported
    let w := tagWidth t
    let n := 512 / w
    let pr := preg r p.toNat
    let lanes := (List.range n).map (fun e => if pr.getLsbD e then elemOf va.bits w e else ident t w)
    let comb (x y : Nat) : Nat × Flags := if tagFloat t then ff (tagFmt t) x y else (fi t w x y, 0)
    let (v, g) := redTree comb (Nat.log2 n) lanes 0
    let pz := (List.range n).any (fun e => pr.getLsbD e && elemPois va w e)
    pure (vput r d (⟨BitVec.ofNat 512 (v % 2 ^ w), va.tag, if pz then 1 else 0⟩, g)))

/-- Least and greatest of an integer tag. -/
def intMinOf (t w : Nat) : Nat := if tagSigned t then 2 ^ (w - 1) else 0
/-- See `intMinOf`. -/
def intMaxOf (t w : Nat) : Nat := if tagSigned t then 2 ^ (w - 1) - 1 else 2 ^ w - 1

/-- R51, R263: RNE at each step; −0 is the identity. -/
def execVredadd (d a : BitVec 5) (p : BitVec 3) (s : State) : Out :=
  vred (.vredadd d a p) d a p (fun t w => if tagFloat t then 2 ^ (w - 1) else 0)
    (fun _ w x y => (x + y) % 2 ^ w) (fun f x y => fadd f .rne x y) s
/-- R51, R263. -/
def execVredmax (d a : BitVec 5) (p : BitVec 3) (s : State) : Out :=
  vred (.vredmax d a p) d a p (fun t w => if tagFloat t then finfEnc (tagFmt t) true else intMinOf t w)
    (intMM true) (fun f x y => (fminmax f true x y, 0)) s
/-- R51, R263. -/
def execVredmin (d a : BitVec 5) (p : BitVec 3) (s : State) : Out :=
  vred (.vredmin d a p) d a p (fun t w => if tagFloat t then finfEnc (tagFmt t) false else intMaxOf t w)
    (intMM false) (fun f x y => (fminmax f false x y, 0)) s

/-- R264. -/
def execVins (d a b : BitVec 5) (s : State) : Out :=
  vecOp (.vins d a b) s (fun r => do
    needClean r b
    let vd := vreg r d
    orTrap (tagWide vd.tag.toNat) .formatUnsupported
    let w := tagWidth vd.tag.toNat
    let e := (rd r b).toNat
    orTrap (decide (e < 512 / w)) .operandRange
    let p := rdP r a || (elemPois vd w e && decide (w < 64))
    let l := (List.range (512 / w)).map (fun i => if i = e then (rd r a).toNat % 2 ^ w else elemOf vd.bits w i)
    pure (wrV r d ⟨BitVec.ofNat 512 (ofElems w l), vd.tag,
      if p then vd.pois ||| (1#8 <<< segOf w e) else vd.pois &&& ~~~(1#8 <<< segOf w e)⟩))

/-- R264. -/
def execVext (d a b : BitVec 5) (s : State) : Out :=
  vecOp (.vext d a b) s (fun r => do
    needClean r b
    let va := vreg r a
    orTrap (tagWide va.tag.toNat) .formatUnsupported
    let w := tagWidth va.tag.toNat
    let e := (rd r b).toNat
    orTrap (decide (e < 512 / w)) .operandRange
    let x := elemOf va.bits w e
    pure (wr r d (if tagSigned va.tag.toNat then sextN w x else BitVec.ofNat 64 x) (elemPois va w e)))

/-! ### Vector memory -/

/-- The first faulting address of some active elements under a test. -/
def firstBad (l : List Word) (f : Word → Option Cause) : Option (Cause × Word) :=
  l.findSome? (fun va => (f va).map (fun c => (c, va)))

/-- Items 6 to 8 of R133 over the pages of one access: each item over every page before the next. `l` holds the first
active address of each page. -/
def locatePages (s : State) (r : StrandRef) (t : Strand) (l : List Word) (a : Acc) : Except Stop (List (Nat × Nat) × State) := do
  let ent (s : State) (va : Word) : Option (TlbEntry × State) :=
    if t.absent.contains (va.toNat / 65536) then none else tlbLookup s (strandAgent r t) (va.toNat / 65536)
  let absent (va : Word) : Bool := match ent s va with | none => true | some (e, _) => e.loc == 2
  match l.find? absent with
  | some va =>
    match locatePage s r t va a with
    | .error e => throw e
    | .ok _ => throw (.page .pageNotPresent va (a != .load) false)
  | none =>
    match firstBad l (fun va => (ent s va).bind (fun x => permFault x.1 (privNum t.priv) a)) with
    | some (c, va) => throw (.trap c 0 va)
    | none =>
      l.foldlM (fun (z : List (Nat × Nat) × State) va => do
        let (pa, s) ← locatePage z.2 r t va a
        pure (z.1 ++ [(va.toNat / 65536, pa - va.toNat % 65536)], s)) ([], s)

/-- The places of the active elements of one access (R265, R267): `els` are element numbers with their addresses, `eb`
bytes each. -/
def locateVec (s : State) (r : StrandRef) (t : Strand) (els : List (Nat × Word)) (eb : Nat) (a : Acc) :
    Except Stop (List (Nat × Loc × Word) × State) := do
  match els.head?, els.getLast? with
  | some (_, fa), some (_, ea) =>
    let w := windowOf r.core fa
    if w = .unmapped then throw (.trap .windowUnmapped 0 fa)
    if fa.toNat % eb ≠ 0 then throw (.trap .misaligned 0 fa)
    let len := (ea - fa).toNat + eb
    if windowRoom r.core fa < len then throw (.trap .windowCrossing 0 fa)
    let (places, s) ← match w with
      | .spad c own off =>
        (match spadFault s t.dom c own off len with
         | some f => throw (.trap f 0 fa)
         | none => pure (els.map (fun e => (e.1, Loc.spad c (off + (e.2 - fa).toNat), e.2)), s))
      | _ => do
        let firsts := els.foldl (fun (l : List Word) e =>
          if l.any (fun v => v.toNat / 65536 == e.2.toNat / 65536) then l else l ++ [e.2]) []
        let (pages, s) ← locatePages s r t firsts a
        let pa (va : Word) : Nat := (aget pages (va.toNat / 65536)).getD 0 + va.toNat % 65536
        -- item 9 over every element, for a run of elements may cross into another home slice (R129)
        match (if a = .load then none else els.find? (fun e => !homeAdmits s (pa e.2) t.dom a)) with
        | some e => throw (.trap .accessTableDenied 0 e.2)
        | none => pure (els.map (fun e => (e.1, Loc.mem (pa e.2), e.2)), s)
    match els.findSome? (fun e => (watchHit s t e.2 a).map (fun k => (k, e.2))) with
    | some (k, va) => throw (.trap .watchpoint (BitVec.ofNat 64 (k + (if a = .load then 0 else 256))) va)
    | none => pure (places, s)
  | _, _ => pure ([], s)

/-- The DETAIL of `lane-fault` (R267, R327). -/
def laneDetail (lane : Nat) (c : Cause) : Word := BitVec.ofNat 64 (lane + causeCode c * 256)

/-- One lane of a gather or scatter checked (R267): its place, or a `lane-fault`, or its page fault. -/
def locateLane (s : State) (x : Ctx) (lane : Nat) (va : Word) (eb : Nat) (a : Acc) : Except Stop (Loc × State) :=
  match locate s x.r x.t va eb eb a with
  | .ok (l, s) =>
    if a = .load ∧ loadDenied s x.r.core x.t.dom 0 l then .error (.trap .laneFault (laneDetail lane .accessTableDenied) va)
    else .ok (l, s)
  | .error (.trap .watchpoint d v) => .error (.trap .watchpoint d v)
  | .error (.trap c _ _) => .error (.trap .laneFault (laneDetail lane c) va)
  | .error e => .error e

/-- The places of the active lanes; the lowest lane that meets a fault decides. In run-ahead every page is collected that a
lane misses, unless a lower lane meets another fault. -/
def locateLanes (s : State) (x : Ctx) (els : List (Nat × Word)) (eb : Nat) (a : Acc) :
    Except Stop (List (Nat × Loc × Word) × State) :=
  els.foldlM (fun (z : List (Nat × Loc × Word) × State) e => do
    let (l, s) ← locateLane z.2 x e.1 e.2 eb a
    pure (z.1 ++ [(e.1, l, e.2)], s)) ([], s)

/-- Active elements of a register access with their addresses. -/
def vecAddrs (n : Nat) (p : Word) (f : Nat → Word) : List (Nat × Word) :=
  ((List.range n).filter (fun e => p.getLsbD e)).map (fun e => (e, f e))

/-- A vector access located, with run-ahead's collection of a missing page (R140). -/
def vecAccess (x : Ctx) (res : Except Stop (List (Nat × Loc × Word) × State)) (s : State) (skip : Regs)
    (k : List (Nat × Loc × Word) → State → Except Stop (State × Next)) : Except Stop (State × Next) :=
  match res with
  | .ok (l, s) => k l s
  | .error (.page c va w f) =>
    (match x.t.shadow with
     | some h =>
       .ok (setStrand s x.r { x.t with r := skip, shadow := some (collect h ⟨va.toNat / 65536 % 2 ^ 40, c, w, f⟩) }, .seq)
     | none => .error (.enter ⟨va.toNat / 65536 % 2 ^ 40, c, w, f⟩ skip))
  | .error e => .error e

/-- What lies below the active elements of a load: kept under merging, zero under zeroing (R253, R255). -/
def vldBase (old : VReg) (w : Nat) (tag : BitVec 5) (p : Word) (z : Bool) : VReg :=
  (vwrite old w tag p z (fun _ => (0, 0)) (fun _ => false)).1

/-- A vector load performed, at once or by an opener (R97, R265, R266). -/
def vecLoad (s : State) (x : Ctx) (d : BitVec 5) (p : Word) (z : Bool) (tag : BitVec 5) (la : BitVec 4)
    (l : List (Nat × Loc × Word)) : Except Stop (State × Next) := do
  let w := unitWidth tag.toNat
  let eb := w / 8
  let els := (List.range (512 / w)).map (fun i => (l.find? (fun e => e.1 == i)).map (fun e => e.2))
  let base := vldBase (vreg x.t.r d) w tag p z
  match l.find? (fun e => loadDenied s x.r.core x.t.dom 0 e.2.1) with
  | some e => throw (.trap .accessTableDenied 0 e.2.2)
  | none =>
    if la ≠ 0 ∧ x.t.shadow.isNone then
      let s ← openWindow s x (some (true, d.toNat)) la (.vld els eb tag base)
      pure (s, .seq)
    else
      if l.any (fun e => ownAtomic s x.t.uid s.uid e.2.1 eb || openerOn x.t e.2.1 eb) then throw (.wait .writes)
      let (v, es, s) := vldRead s x.r.core x.t.uid s.uid eb 0 els base
      let s := reportAll s x.t.dom (strandSid s x.r x.t.dom) x.t.pc es
      pure (putRegs s x (wrV x.t.r d v), .seq)

/-- The destination fully poisoned, with its new tag (R140); its value is free (log 13). -/
def vecSkip (u c : Nat) (r : Regs) (d : BitVec 5) (tag : BitVec 5) : Regs := wrV r d ⟨Config.poisonLine u c d.toNat, tag, 0xFF#8⟩

/-- The bytes of an element as a store writes them. -/
def elemBytes (v : VReg) (w e : Nat) : List (Option (Byte × Bool)) :=
  (leBytes (w / 8) (elemOf v.bits w e)).map (fun b => some (b, elemPois v w e))

/-- The bytes of active elements in one run of addresses, from the first to the last on one page. -/
def runBytes (v : VReg) (w : Nat) (l : List (Nat × Loc × Word)) (lo n : Nat) : List (Option (Byte × Bool)) :=
  (rangeFrom lo n).flatMap (fun e => if l.any (fun y => y.1 == e) then elemBytes v w e else List.replicate (w / 8) none)

/-- A vector store posted as one store: the active bytes of each page (R265). -/
def vecStore (s : State) (x : Ctx) (v : VReg) (l : List (Nat × Loc × Word)) : Except Stop (State × Next) :=
  if x.t.shadow.isSome ∨ l.isEmpty then .ok (s, .seq)
  else if 32 ≤ outstanding s x.t.uid then .error (.wait .stores)
  else
    let w := unitWidth v.tag.toNat
    let (g, s) := fresh s
    let pages := (l.map (fun e => e.2.2.toNat / 65536)).dedup
    .ok (pages.foldl (fun s pg =>
      let m := l.filter (fun e => e.2.2.toNat / 65536 == pg)
      match m.head?, m.getLast? with
      | some (lo, loc, va), some (hi, _, _) => postStore s x.r x.t x.t.floor x.t.floorC g va loc (runBytes v w m lo (hi - lo + 1))
      | _, _ => s) s, .seq)

/-- A scatter posted lane by lane in ascending order, as one store (R266). -/
def scatStore (s : State) (x : Ctx) (v : VReg) (w : Nat) (l : List (Nat × Loc × Word)) : Except Stop (State × Next) :=
  if x.t.shadow.isSome ∨ l.isEmpty then .ok (s, .seq)
  else if 32 ≤ outstanding s x.t.uid then .error (.wait .stores)
  else
    let (g, s) := fresh s
    .ok (l.foldl (fun s e => postStore s x.r x.t x.t.floor x.t.floorC g e.2.2 e.2.1 (elemBytes v w e.1)) s, .seq)

/-- R265. -/
def execVld (d a : BitVec 5) (p : BitVec 3) (z : BitVec 1) (tag : BitVec 5) (off : BitVec 32) (la : BitVec 4) (s : State) : Out :=
  issue (.vld d a p z tag off la) s (fun s x =>
    let skip := vecSkip x.t.uid s.cycle x.t.r d tag
    withBase s x a skip (fun base =>
      let w := unitWidth tag.toNat
      let pr := preg x.t.r p.toNat
      let els := vecAddrs (512 / w) pr (fun e => base + off.signExtend 64 + BitVec.ofNat 64 (e * (w / 8)))
      vecAccess x (locateVec s x.r x.t els (w / 8) .load) s skip
        (fun l s => vecLoad s x d pr (z = 1) tag la l)))

/-- R265. -/
def execVst (d a : BitVec 5) (p : BitVec 3) (off : BitVec 32) (s : State) : Out :=
  issue (.vst d a p off) s (fun s x =>
    withBase s x a x.t.r (fun base =>
      let v := vreg x.t.r d
      let w := unitWidth v.tag.toNat
      let els := vecAddrs (512 / w) (preg x.t.r p.toNat) (fun e => base + off.signExtend 64 + BitVec.ofNat 64 (e * (w / 8)))
      vecAccess x (locateVec s x.r x.t els (w / 8) .store) s x.t.r (fun l s => vecStore s x v l)))

/-- The tag checks of a gather or scatter (R266). -/
def gathTags (data index : BitVec 5) : Except Stop Unit := do
  orTrap (data == 5 || data == 6 || data == 12 || data == 7) .formatUnsupported
  orTrap (if data = 7 then index == 7 else index == 5 || index == 6) .formatMismatch

/-- addr(i) of R266. -/
def gathAddr (base : Word) (off : BitVec 32) (v : VReg) (w : Nat) (scl : BitVec 2) (e : Nat) : Word :=
  let idx := elemOf v.bits w e
  let i : Word := if v.tag = 6 then BitVec.ofNat 64 idx else sextN w idx
  base + off.signExtend 64 + (i <<< scl.toNat)

/-- `poison-consumed` of an index segment that holds an active lane's index (R267). -/
def indexPois (x : Ctx) (b : BitVec 5) (p : Word) : Except Stop Unit :=
  let v := vreg x.t.r b
  let w := unitWidth v.tag.toNat
  if (List.range (512 / w)).any (fun e => p.getLsbD e && elemPois v w e) then .error (.trap .poisonConsumed (vecDetail b) 0)
  else .ok ()

/-- R266. -/
def execVgath (d a b : BitVec 5) (p : BitVec 3) (z : BitVec 1) (tag : BitVec 5) (scl : BitVec 2) (off : BitVec 32) (la : BitVec 4)
    (s : State) : Out :=
  issue (.vgath d a b p z tag scl off la) s (fun s x =>
    let skip := vecSkip x.t.uid s.cycle x.t.r d tag
    withBase s x a skip (fun base => do
      let pr := preg x.t.r p.toNat
      indexPois x b pr
      let vb := vreg x.t.r b
      gathTags tag vb.tag
      let w := tagWidth tag.toNat
      let els := vecAddrs (512 / w) pr (gathAddr base off vb w scl)
      vecAccess x (locateLanes s x els (w / 8) .load) s skip (fun l s => vecLoad s x d pr (z = 1) tag la l)))

/-- R266. -/
def execVscat (d a b : BitVec 5) (p : BitVec 3) (scl : BitVec 2) (off : BitVec 32) (s : State) : Out :=
  issue (.vscat d a b p scl off) s (fun s x =>
    withBase s x a x.t.r (fun base => do
      let pr := preg x.t.r p.toNat
      indexPois x b pr
      let v := vreg x.t.r d
      let vb := vreg x.t.r b
      gathTags v.tag vb.tag
      let w := tagWidth v.tag.toNat
      let els := vecAddrs (512 / w) pr (gathAddr base off vb w scl)
      vecAccess x (locateLanes s x els (w / 8) .store) s x.t.r (fun l s => scatStore s x v w l)))

/-- The checks of R267 items 1 and 2 for a VMEM form. -/
def vmemChecks (i : Instr) (s : State) (x : Ctx) (k : Except Stop (State × Next)) : Except Stop (State × Next) :=
  match i with
  | .vld d a _ _ tag _ _ => withBase s x a (vecSkip x.t.uid s.cycle x.t.r d tag) (fun _ => k)
  | .vst _ a _ _ => withBase s x a x.t.r (fun _ => k)
  | .vscat d a b p _ _ => withBase s x a x.t.r (fun _ => do
      indexPois x b (preg x.t.r p.toNat)
      gathTags (vreg x.t.r d).tag (vreg x.t.r b).tag
      k)
  | _ => k

/-- A word that is no instruction is executed (R93, R94): its trap, or the end of run-ahead. The late `reserved-field` of a VMEM
form comes after the form's own first checks (R267). -/
def execIllegalMajor (w0 : BitVec 32) (why : DecodeFault) (s : State) : Out :=
  match getStrand s s.cur with
  | none => .fault .noStrand
  | some t =>
    let plain := stopped s ⟨s.cur, t, 4, w0⟩ (.trap (faultCause t.priv why) 0 0)
    match why with
    | .reservedLate w1 w2 =>
      (match decodeWords w0 (w1 &&& (match (fFn w0).toNat with | 0 => 0xFF9FFFFF#32 | 1 => 0xE01FFFFF#32 | _ => 0xE07FFFFF#32)) w2 0 with
       | .ok i => issue i s (fun s x => vmemChecks i s x (.error (plainTrap .reservedField)))
       | .error _ => plain)
    | _ => plain

/-! ### Predicates -/

/-- R268. -/
def execPand (d a b : BitVec 5) (s : State) : Out :=
  vecOp (.pand d a b) s (fun r => .ok (wrP r d.toNat (preg r a.toNat &&& preg r b.toNat)))
/-- R268. -/
def execPor (d a b : BitVec 5) (s : State) : Out :=
  vecOp (.por d a b) s (fun r => .ok (wrP r d.toNat (preg r a.toNat ||| preg r b.toNat)))
/-- R268. -/
def execPnot (d a : BitVec 5) (s : State) : Out := vecOp (.pnot d a) s (fun r => .ok (wrP r d.toNat (~~~(preg r a.toNat))))
/-- R268. -/
def execPcnt (d a : BitVec 5) (s : State) : Out :=
  vecOp (.pcnt d a) s (fun r => .ok (wr r d (BitVec.ofNat 64 (popN 64 (preg r a.toNat).toNat)) false))
/-- R268. -/
def execPfirst (d a : BitVec 5) (s : State) : Out :=
  vecOp (.pfirst d a) s (fun r => .ok (wr r d (match lowBit 64 (preg r a.toNat).toNat 0 with
    | none => ~~~(0#64) | some i => BitVec.ofNat 64 i) false))
/-- R268. -/
def execPset (d a : BitVec 5) (s : State) : Out :=
  vecOp (.pset d a) s (fun r => do needClean r a; pure (wrP r d.toNat (rd r a)))

end Sys2Proof.Machine
end

