-- ==== Sys2Proof/Machine/Convert.lean ====
section
/-! DEFINITION. The VCVT family (R269–R280): conversions, retagging, block scales. -/

namespace Sys2Proof.Machine

/-- Integer tags of conversions: codes 1 to 7, 15 and 16. -/
def cvtInt (t : Nat) : Bool := tagInt t || t == 15 || t == 16
/-- Signed among them. -/
def cvtSigned (t : Nat) : Bool := tagSigned t || t == 15 || t == 16
/-- Conversion formats (R274): neither raw, s1 nor tq4. -/
def cvtTag (t : Nat) : Bool := decide (1 ≤ t) && decide (t ≤ 16)

/-- The exact value of an element (R47, R275). -/
def elemVal (t x : Nat) : FVal :=
  if cvtInt t then
    let v := if cvtSigned t then sintN (tagWidth t) x else Int.ofNat x
    .fin (decide (v < 0)) v.natAbs 0
  else if t = 14 then fdecE8m0 x
  else fdec (tagFmt t) x

/-- An integer saturated to the range of a tag, with the fact of saturation (R42). -/
def satInt (t : Nat) (v : Int) : Nat × Bool :=
  let w := tagWidth t
  let lo : Int := if cvtSigned t then -Int.ofNat (2 ^ (w - 1)) else 0
  let hi : Int := if cvtSigned t then Int.ofNat (2 ^ (w - 1)) - 1 else Int.ofNat (2 ^ w) - 1
  if v < lo then (natN w lo, true) else if hi < v then (natN w hi, true) else (natN w v, false)

/-- Conversion to an integer format (R42, R275). -/
def toInt (t : Nat) (mode : RMode) (v : FVal) : Nat × Flags :=
  match v with
  | .nan => (0, flNV)
  | .inf neg => ((satInt t (if neg then -Int.ofNat (2 ^ 70) else Int.ofNat (2 ^ 70))).1, flNV)
  | .fin neg m e =>
    let (n, inexact) := roundQ mode neg m e false 0
    let (x, s) := satInt t (if neg then -Int.ofNat n else Int.ofNat n)
    (x, if s then flNV else if inexact then flNX else 0)

/-- Conversion into e8m0 (R276). -/
def toE8m0 (mode : RMode) (v : FVal) : Nat × Flags :=
  match v with
  | .nan => (0xFF, 0)
  | .inf true => (0xFF, flNV)
  | .inf false => (0xFE, flOF ||| flNX)
  | .fin neg m e =>
    if m = 0 ∨ neg then (0xFF, flNV)
    else
      let bl := bitLen m
      let f : Int := (bl : Int) - 1 + e
      let exact := m = 2 ^ (bl - 1)
      let up := match mode with
        | .rtz => false
        | .rdn => false
        | .rup => !exact
        | .rne => !exact && (decide (3 * 2 ^ (bl - 1) < 2 * m) || (decide (2 * m = 3 * 2 ^ (bl - 1)) && (f + 127) % 2 ≠ 0))
      let code : Int := f + 127 + (if up then 1 else 0)
      if 254 < code then (0xFE, flOF ||| flNX)
      else if code < 0 then (0, flUF ||| flNX)
      else (code.toNat, if exact then 0 else flNX)

/-- Conversion to a float format with SAT (R38, R43, R275). -/
def toFloat (t : Nat) (mode : RMode) (sat : Bool) (v : FVal) : Nat × Flags :=
  let f := tagFmt t
  let (x, g) := fround f mode v
  if v = .nan then (x, if f.kind = .noSpecial then flNV else 0)
  else if sat ∧ (x = finfEnc f true ∨ x = finfEnc f false) then (fmaxEnc f (x == finfEnc f true), flOF ||| flNX)
  else (x, g)

/-- `convert` of R274. -/
def convert (src dst x : Nat) (mode : RMode) (sat : Bool) : Nat × Flags :=
  if cvtInt dst then
    if cvtInt src then ((satInt dst (if cvtSigned src then sintN (tagWidth src) x else Int.ofNat x)).1, 0)
    else toInt dst mode (elemVal src x)
  else if dst = 14 then toE8m0 mode (elemVal src x)
  else toFloat dst mode sat (elemVal src x)

/-- What happens to a destination element: kept, or written with a value, flags and poison. -/
abbrev ElemAct := Option (Nat × Flags × Bool)

/-- A register rewritten element by element (R253, R255). -/
def vrewrite (old : VReg) (w : Nat) (tag : BitVec 5) (f : Nat → ElemAct) : VReg × Flags :=
  let acts := (List.range (512 / w)).map f
  let at_ (e : Nat) : ElemAct := (acts[e]?).getD none
  (⟨BitVec.ofNat 512 (ofElems w ((List.range (512 / w)).map (fun e => match at_ e with
      | some (x, _, _) => x | none => elemOf old.bits w e))), tag,
    mergeSegs old.pois w (fun e => (at_ e).isSome) (fun e => match at_ e with | some (_, _, p) => p | none => false) false⟩,
   acts.foldl (fun (g : Flags) a => match a with | some (_, h, _) => g ||| h | none => g) 0)

/-- The conversions of a slice (R271): count, and the ratio of widths. -/
def sliceCount (ws wd : Nat) : Nat := 512 / (if ws < wd then wd else ws)
/-- R271. -/
def sliceRatio (ws wd : Nat) : Nat := if ws < wd then wd / ws else ws / wd

/-- R274. -/
def execVcvt (d a : BitVec 5) (p : BitVec 3) (z : BitVec 1) (tag : BitVec 5) (rm : BitVec 2) (sl : BitVec 5) (sat : BitVec 1)
    (s : State) : Out :=
  vecOp (.vcvt d a p z tag rm sl sat) s (fun r => do
    let va := vreg r a
    let src := va.tag.toNat
    let dst := tag.toNat
    orTrap (cvtTag src && cvtTag dst) .formatUnsupported
    let ws := tagWidth src
    let wd := tagWidth dst
    orTrap (decide (sl.toNat < sliceRatio ws wd)) .operandRange
    let k := sliceCount ws wd
    let pr := preg r p.toNat
    -- the governing bit of conversion i: of its byte when the governed side is narrower than a byte
    let gov := if ws < wd then wd else ws
    let act (i : Nat) : Bool := pr.getLsbD (if gov < 8 then i * gov / 8 else i)
    let base := sl.toNat * k
    let conv (i e : Nat) : ElemAct :=
      if act i then
        let (x, g) := convert src dst (elemOf va.bits ws e) (rmodeOf rm.toNat) (sat = 1)
        some (x, g, elemPois va ws e)
      else if z = 1 then some (0, 0, false) else none
    pure (vput r d (vrewrite (vreg r d) wd tag (fun e =>
      if ws < wd then conv e (base + e)
      else if base ≤ e ∧ e < base + k then conv (e - base) (e - base) else none))))

/-- R277. -/
def execVtag (d a tag : BitVec 5) (s : State) : Out :=
  vecOp (.vtag d a tag) s (fun r => .ok (wrV r d { (vreg r a) with tag := tag }))

/-- Element formats of block-scaled data; `i4` only as a source of `vwid`. -/
def narrowTag (t : BitVec 5) (i4 : Bool) : Bool := t == 13 || t == 8 || (i4 && (t == 9 || t == 15))
/-- Scale formats (R47). -/
def scaleTag (t : BitVec 5) : Bool := t == 14 || t == 9 || t == 11
/-- The scale of block `j` (R272). -/
def scaleVal (v : VReg) (j : Nat) : FVal := elemVal v.tag.toNat (elemOf v.bits (tagWidth v.tag.toNat) j)
/-- Poison of its segment. -/
def scalePois (v : VReg) (j : Nat) : Bool := elemPois v (tagWidth v.tag.toNat) j
/-- Slices of 16 elements in a narrow register (R272). -/
def slices (t : Nat) : Nat := 512 / tagWidth t / 16
/-- Elements of a block (R273). -/
def blockLen (bs : BitVec 2) : Nat := 8 * 2 ^ bs.toNat

/-- R278. -/
def execVwid (d a b : BitVec 5) (p : BitVec 3) (z : BitVec 1) (sl : BitVec 5) (bs : BitVec 2) (s : State) : Out :=
  vecOp (.vwid d a b p z sl bs) s (fun r => do
    let va := vreg r a
    let vb := vreg r b
    let t := va.tag.toNat
    orTrap (narrowTag va.tag true) .formatUnsupported
    orTrap (scaleTag vb.tag) .scaleFormat
    orTrap (bs ≠ 3) .blockSize
    orTrap (decide (sl.toNat < slices t)) .operandRange
    let w := tagWidth t
    let idx (i : Nat) : Nat := 16 * sl.toNat + i
    pure (vput r d (vwrite (vreg r d) 32 12 (preg r p.toNat) (z = 1)
      (fun i =>
        let e := idx i
        let (v, g) := fmulX (elemVal t (elemOf va.bits w e)) (scaleVal vb (e / blockLen bs))
        let (x, h) := fround fmtF32 .rne v
        (x, g ||| h))
      (fun i => elemPois va w (idx i) || scalePois vb (idx i / blockLen bs)))))

/-- The scale of one block (R279): `l` the active lanes' encodings. -/
def blockScale (e8 : Bool) (ef : Nat) (l : List Nat) : Nat × Flags :=
  let vs := l.map (fdec fmtF32)
  let (emax, elMax) : Int × Nat := if ef = 8 then (8, 448) else (2, 6)
  if vs.any (fun v => match v with | .fin _ _ _ => false | _ => true) then (if e8 then 0xFF else 0x7E, flNV)
  else
    -- magnitudes of one format compare as their encodings do
    let m := l.foldl (fun b x => Nat.max b (x % 2 ^ 31)) 0
    match fdec fmtF32 m with
    | .fin _ n e =>
      if n = 0 then (if e8 then 0x7F else 0x3C, 0)
      else if e8 then
        let code : Int := (bitLen n : Int) - 1 + e - emax + 127
        if 254 < code then (254, flOF ||| flNX) else if code < 0 then (0, flUF ||| flNX) else (code.toNat, 0)
      else
        let num := n * 2 ^ 40
        let inexact : Bool := num % elMax ≠ 0
        let (x, g) := froundNz fmtE5m2 .rup false (num / elMax) (e - 40) inexact
        -- the quotient lies below 2^-14 iff n·2^(e+14) < elMax
        let below : Bool := if 0 ≤ e + 14 then decide (n * 2 ^ (e + 14).toNat < elMax) else decide (n < elMax * 2 ^ (-(e + 14)).toNat)
        let g := if below && g.getLsbD 0 then g ||| flUF else g
        if x = 0x7C then (0x7B, flOF ||| flNX) else (x, g)
    | _ => (0, 0)

/-- R279. -/
def execVscl (d a : BitVec 5) (p : BitVec 3) (tag sl : BitVec 5) (bs : BitVec 2) (ef : BitVec 5) (s : State) : Out :=
  vecOp (.vscl d a p tag sl bs ef) s (fun r => do
    let va := vreg r a
    let vc := vreg r (a + 1)
    orTrap (va.tag == 12 && (bs != 2 || vc.tag == 12) && (ef == 8 || ef == 13)) .formatUnsupported
    orTrap (tag == 14 || tag == 9) .scaleFormat
    orTrap (bs ≠ 3) .blockSize
    orTrap (decide (sl.toNat < slices ef.toNat) && (bs != 2 || sl.toNat % 2 == 0)) .operandRange
    let pr := preg r p.toNat
    let len := blockLen bs
    let lane (i : Nat) : Nat := if i < 16 then elemOf va.bits 32 i else elemOf vc.bits 32 (i - 16)
    let pz (i : Nat) : Bool := if i < 16 then elemPois va 32 i else elemPois vc 32 (i - 16)
    let first := 16 * sl.toNat / len
    let count := if len = 8 then 2 else 1
    pure (vput r d (vrewrite (vreg r d) 8 tag (fun j =>
      if first ≤ j ∧ j < first + count then
        let ls := (rangeFrom ((j - first) * len) len).filter (fun i => pr.getLsbD i)
        let (x, g) := blockScale (tag == 14) ef.toNat (ls.map lane)
        some (x, g, ls.any pz)
      else none))))

/-- A scale that makes its block void (R280). -/
def voidScale (v : FVal) : Bool := match v with | .fin _ m _ => m == 0 | _ => true
/-- The canonical NaN of a scale format (R280). -/
def scaleNan (t : BitVec 5) : Nat := if t = 14 then 0xFF else if t = 9 then 0x7E else 0x7FC0

/-- R280. -/
def execVnar (d a b : BitVec 5) (p : BitVec 3) (z : BitVec 1) (tag sl : BitVec 5) (bs : BitVec 2) (s : State) : Out :=
  vecOp (.vnar d a b p z tag sl bs) s (fun r => do
    let va := vreg r a
    let vb := vreg r b
    let t := tag.toNat
    orTrap (va.tag == 12 && narrowTag tag false) .formatUnsupported
    orTrap (scaleTag vb.tag) .scaleFormat
    orTrap (bs ≠ 3) .blockSize
    orTrap (decide (sl.toNat < slices t)) .operandRange
    let pr := preg r p.toNat
    let len := blockLen bs
    let base := 16 * sl.toNat
    let w := tagWidth t
    let laneVoid (i : Nat) : Bool :=
      pr.getLsbD i && (voidScale (scaleVal vb ((base + i) / len)) || fdec fmtF32 (elemOf va.bits 32 i) == .nan)
    let void (j : Nat) : Bool := (List.range 16).any (fun i => (base + i) / len == j && laneVoid i)
    let code (i : Nat) : Nat × Flags := fdivV (tagFmt t) .rne (fdec fmtF32 (elemOf va.bits 32 i)) (scaleVal vb ((base + i) / len))
    let (vd, _) := vrewrite (vreg r d) w tag (fun e =>
      let j := e / len
      if void j then some (0, 0, scalePois vb j)
      else if base ≤ e ∧ e < base + 16 then
        let i := e - base
        if pr.getLsbD i then some ((code i).1, 0, elemPois va 32 i || scalePois vb j)
        else if z = 1 then some (0, 0, false) else none
      else none)
    let sw := tagWidth vb.tag.toNat
    let (vb', _) := vrewrite vb sw vb.tag (fun j => if void j then some (scaleNan vb.tag, 0, scalePois vb j) else none)
    let fl := (List.range 16).foldl (fun (g : Flags) i =>
      if pr.getLsbD i then g ||| (if laneVoid i then flNV else (code i).2) else g) 0
    pure (orFlags (wrV (wrV r b vb') d vd) fl))

end Sys2Proof.Machine
end

