-- ==== Sys2Proof/Machine/Engine.lean ====
section
/-! DEFINITION. What the dense tile engine, the Kudu engine and the copy engines share: timelines (R210, R213), engine
operands in scratchpads (R287, R296, R309), the issuer and the release of a command (R221), engine reports (R296,
R316). -/

namespace Sys2Proof.Machine

/-- The value advanced over the commands completed ahead of it, at most `n` of them (R213). -/
def tlAdvance (t : Timeline) (n : Nat) : Timeline :=
  match n with
  | 0 => t
  | k + 1 =>
    match t.ahead.find? (fun a => a.1 == t.value + 1) with
    | none => t
    | some (m, ok) =>
      tlAdvance { t with value := m, ahead := t.ahead.filter (fun a => a.1 != m),
                         err := t.err || !ok, first := if ok || t.err then t.first else m } k

/-- A completion offered to a timeline (R213, R214). -/
def tlOffer (t : Timeline) (n : Nat) (ok : Bool) : Timeline :=
  if n ≤ t.value then t
  else let t := { t with ahead := t.ahead ++ [(n, ok)] }; tlAdvance t t.ahead.length

/-- Timeline `k` of a core. -/
def tlOf (x : Core) (k : Nat) : Timeline := (x.tls.toList[k]?).getD Timeline.reset
/-- Timeline `k` replaced. -/
def setTl (x : Core) (k : Nat) (t : Timeline) : Core := { x with tls := x.tls.setIfInBounds k t }

/-- The number that a command receives at issue: P + 1 (R210, R283). -/
def tlPost (s : State) (c : CoreId) (k : Nat) : Nat × State :=
  let x := getCore s c
  let t := tlOf x k
  (t.posted + 1, setCore s c (setTl x k { t with posted := t.posted + 1 }))

/-- A completion offered to a core's timeline; an advance wakes its idle strands (R330). -/
def tlComplete (s : State) (c : CoreId) (k n : Nat) (ok : Bool) : State :=
  let x := getCore s c
  let t := tlOf x k
  let u := tlOffer t n ok
  let s := setCore s c (setTl x k u)
  if u.value = t.value then s else wakeCore s c

/-- The issuer of a command (R217, R406); its issue is a release of the strand's earlier accesses (R221). -/
def issuerOf (s : State) (x : Ctx) : Issuer :=
  ⟨x.t.uid, strandSid s x.r x.t.dom, x.t.dom, x.t.priv, x.t.pc, s.uid⟩

/-- The engine of a core may read: the accesses that the issue released, sends among them, are done at package scope (R221). -/
def released (s : State) (c : CoreId) (w : Issuer) : Bool := belowDone s c w.uid w.floor (ownOpeners s w.uid) 2

/-- DETAIL of a tile or table number (R327). -/
def detail8 (n : Nat) : Word := BitVec.ofNat 64 (n % 8 * 256)

/-- A memory operand of an engine, over its whole extent (R287, R309): `glob` is the fault of an operand in the global
window. -/
def engCheck (s : State) (x : Ctx) (glob : Stop) (va : Word) (len al : Nat) (strideOk : Bool) : Except Stop Unit :=
  match windowOf x.r.core va with
  | .unmapped => throw (.trap .windowUnmapped 0 va)
  | .global => throw glob
  | .spad c own off =>
    if va.toNat % al ≠ 0 ∨ !strideOk then throw (.trap .misaligned 0 va)
    else if windowRoom x.r.core va < len then throw (.trap .windowCrossing 0 va)
    else match spadFault s x.t.dom c own off len with
      | some f => throw (.trap f 0 va)
      | none => pure ()

/-- The first error among the words of an engine's read, and the state in which a bad word has become poisoned (R296). -/
def spadWords (s : State) (c : CoreId) (off n : Nat) : Option Cause × State :=
  let x := getCore s c
  let ws := rangeFrom (off / 8) ((off + n - 1) / 8 + 1 - off / 8)
  let bad (w : Nat) : Bool := x.spadBad.any (fun y => y.1 == w || (y.2 && y.1 / 8 == w / 8))
  match ws.find? (fun w => bad w || setHas x.spadPois w) with
  | none => (none, s)
  | some w => if bad w then spadCheck s c (w / 8) (fun y => y == w) else (some .poisonConsumed, s)

/-- An engine's place in a scratchpad at the time of a step, or the fault that issue could not see (R296). -/
def engPlace (s : State) (core : CoreId) (dom : Nat) (va : Word) (n : Nat) : Except Cause (CoreId × Nat) :=
  match windowOf core va with
  | .spad c own off => (match spadFault s dom c own off n with | some f => .error f | none => .ok (c, off))
  | _ => .error .windowUnmapped

/-- An engine's read of scratchpad bytes. -/
def engRead (s : State) (core : CoreId) (dom : Nat) (va : Word) (n : Nat) : Except (Cause × State) (List Byte × State) :=
  match engPlace s core dom va n with
  | .error c => .error (c, s)
  | .ok (c, off) =>
    match spadWords s c off n with
    | (some e, s) => .error (e, s)
    | (none, s) => .ok (memBytes (getCore s c).spad off n, s)

/-- An engine's reads of several rows. -/
def engRows (s : State) (core : CoreId) (dom : Nat) (n : Nat) (l : List Word) : Except (Cause × State) (List (List Byte) × State) :=
  match l with
  | [] => .ok ([], s)
  | va :: t =>
    match engRead s core dom va n with
    | .error e => .error e
    | .ok (b, s) =>
      match engRows s core dom n t with
      | .error e => .error e
      | .ok (bs, s) => .ok (b :: bs, s)

/-- Bytes written into a scratchpad from an offset, for a strand's command. -/
def spadStore (s : State) (who : Issuer) (va : Word) (c : CoreId) (off : Nat) (l : List Byte) : State :=
  landAll s who.dom who.sid va (.spad c off) (l.map (fun b => (b, false)))

/-- The engine makes progress in this cycle (R403) and no command of its queue is in a step (R282, R306, R404). -/
def engFree (s : State) (c : CoreId) (l : List EngCmd) : Bool :=
  decide ((getCore s c).bubble ≤ s.cycle % 16) && l.all (fun q => q.left == 0)

/-- The bytes of an operand that come from another core's scratchpad (R290, R313). -/
def farBytes (c : CoreId) (va : Word) (n : Nat) : Nat :=
  match windowOf c va with
  | .spad o _ _ => if o = c then 0 else n
  | _ => 0

/-- Cycles of a step (R290, R313): those of its kind, or more where its neighbour bytes, 64 a cycle, take longer. -/
def stepTime (n far : Nat) : Nat := max n ((far + 63) / 64)

/-- The strand that owns an engine command, which holds the frame (R17). -/
def engStrand (s : State) (core : CoreId) (uid : Nat) : Option (StrandRef × Strand) :=
  ((getCore s core).strands.find? (fun y => y.2.uid == uid)).map (fun y => (⟨core, y.1⟩, y.2))

/-- The report of an engine command that ended at a step (R296, R316), sent by the issuing strand. -/
def engReport (s : State) (core : CoreId) (tl : Nat) (q : EngCmd) (s19 : Nat) : State :=
  let (d, k, n) := placeOf core
  let s17 := sidOf s.pkg d k n 0 0 0 + BitVec.ofNat 64 (tl * 2 ^ 39 + q.num % 2 ^ 39)
  reportWith s q.who.dom .engineOperandFault ⟨0, now s, q.who.sid, 0, false, 0, false⟩ s17 (some (BitVec.ofNat 64 s19)) true

/-- Tile `n` of a strand. -/
def tileOf (t : Strand) (n : Nat) : Tile := (t.tiles[n]?).getD ⟨0, false, false⟩
/-- Element (i, j) of a tile (R281). -/
def tileElem (b : TileBits) (i j : Nat) : Nat := (b.toNat / 2 ^ (32 * (32 * i + j))) % 2 ^ 32
/-- A tile's bits from its elements in order. -/
def tileOfElems (l : List Nat) : TileBits := BitVec.ofNat 32768 (ofElems 32 l)
/-- The elements of a tile in order. -/
def tileElems (b : TileBits) : List Nat := (List.range 1024).map (fun n => (b.toNat / 2 ^ (32 * n)) % 2 ^ 32)

end Sys2Proof.Machine
end

