-- ==== Sys2Proof/Machine/TileEng.lean ====
section
/-! DEFINITION. The TILE family and the steps of the dense tile engine (R281–R297). -/

namespace Sys2Proof.Machine

/-- The tag code of a tile (R35). -/
def tileTag (t : Tile) : Nat := if t.f32 then 12 else 5

/-- The tag a tile will have when a new command runs: that of the last queued `tzero` on it (R287). -/
def futureTag (x : Core) (uid n : Nat) (t : Tile) : Nat :=
  x.dteq.foldl (fun g q =>
    if q.who.uid = uid ∧ engFn q = 1 ∧ (q.w0.toNat / 2 ^ 19) % 32 = n then (q.w1.toNat / 2 ^ 17) % 32 else g) (tileTag t)

/-- `poison-consumed` for vector operands (R287, R295). -/
def vecClean (r : Regs) (l : List Nat) : Except Stop Unit :=
  match l.find? (fun n => match r.v[n]? with | some v => v.pois != 0 | none => false) with
  | some n => throw (.trap .poisonConsumed (BitVec.ofNat 64 (n + 32)) 0)
  | none => pure ()

/-- `accumulator-frame`: an incomplete command of the other engine names a tile (R284, R307). -/
def tileBusy (q : List EngCmd) (kudu : Bool) (uid : Nat) (l : List Nat) : Option Nat :=
  l.find? (fun n => q.any (fun c => c.who.uid == uid && (engTiles c kudu).contains n))

/-- A DTE command posted: numbered on tl4 and queued, its number written to Q (R282, R283, R286). -/
def postDte (s : State) (x : Ctx) (i : Instr) (a b c e : Word) (scl : BitVec 1024) (q : BitVec 5) : Except Stop (State × Next) :=
  if 16 ≤ (getCore s x.r.core).dteq.length then .error (.wait (.queue 4))
  else
    let w := (encode i).getD ⟨0, 0, 0, 0⟩
    let (n, s) := tlPost s x.r.core 4
    let cmd : EngCmd := ⟨w.w0, w.w1, w.w2, a, b, c, e, scl, n, 0, x.r.slot, issuerOf s x, false, none, 0, []⟩
    let s := updCore s x.r.core (fun k => { k with dteq := k.dteq ++ [cmd] })
    .ok (putRegs s x (wr x.t.r q (BitVec.ofNat 64 n) false), .seq)

/-- The tile's accumulator format that a `tmma` pair requires; none for a pair it does not accept (R288). -/
def pairTag (fa fb : BitVec 5) (sc : BitVec 1) : Option Nat :=
  let f8 (f : BitVec 5) : Bool := f == 8 || f == 9
  if (f8 fa && f8 fb) || (fa == 13 && fb == 13) then some 12
  else if fa = 11 ∧ fb = 11 ∧ sc = 0 then some 12
  else if fa = 1 ∧ fb = 1 ∧ sc = 0 then some 5
  else none

/-- Bytes that `n` elements of a format occupy (R27). -/
def packBytes (f n : Nat) : Nat := n * tagWidth f / 8

/-- K, ASTR and BSTR of a shape word (R288). -/
def shapeOf (w : Word) : Nat × Nat × Nat := (bitsOf w 0 13, bitsOf w 16 24, bitsOf w 40 24)

/-- A tile fault (R327). -/
def tileTrap (c : Cause) (d : BitVec 5) : Stop := .trap c (detail8 d.toNat) 0

/-- R289. -/
def execTmma (d a b c e fa fb : BitVec 5) (sc : BitVec 1) (q : BitVec 5) (s : State) : Out :=
  let i : Instr := .tmma d a b c e fa fb sc q
  issue i s (fun s x => do
    needCleanAll x.t.r [a, b, c, e]
    let k := getCore s x.r.core
    if (tileBusy k.kuduq true x.t.uid [d.toNat]).isSome then throw (tileTrap .accumulatorFrame d)
    match pairTag fa fb sc with
    | none => throw (tileTrap .tileKindUnsupported d)
    | some want =>
      if futureTag k x.t.uid d.toNat (tileOf x.t d.toNat) ≠ want then throw (tileTrap .accumulatorFormat d)
      let shape := rd x.t.r c
      let (n, as_, bs) := shapeOf shape
      if n % 32 ≠ 0 ∨ n < 32 ∨ 4096 < n ∨ bitsOf shape 13 3 ≠ 0 then throw (tileTrap .tileShape d)
      let glob := tileTrap .tileOperandRange d
      engCheck s x glob (rd x.t.r a) (31 * as_ + packBytes fa.toNat n) 16 (as_ % 16 == 0)
      engCheck s x glob (rd x.t.r b) (31 * bs + packBytes fb.toNat n) 16 (bs % 16 == 0)
      if sc = 1 then engCheck s x glob (rd x.t.r e) (2 * n) 1 true
      postDte s x i (rd x.t.r a) (rd x.t.r b) shape (rd x.t.r e) 0 q)

/-- R292. -/
def execTzero (d fa q : BitVec 5) (s : State) : Out :=
  let i : Instr := .tzero d fa q
  issue i s (fun s x => do
    if (tileBusy (getCore s x.r.core).kuduq true x.t.uid [d.toNat]).isSome then throw (tileTrap .accumulatorFrame d)
    if fa ≠ 12 ∧ fa ≠ 5 then throw (tileTrap .accumulatorFormat d)
    postDte s x i 0 0 0 0 0 q)

/-- Store tags of a tile's tag (R294). -/
def tstTag (tile : Nat) (fa : BitVec 5) : Bool :=
  if tile = 12 then fa == 12 || fa == 10 || fa == 11 || fa == 8 || fa == 9
  else fa == 5 || fa == 6 || fa == 3 || fa == 4 || fa == 1 || fa == 2

/-- R294. -/
def execTst (d a c fa : BitVec 5) (sat : BitVec 1) (q : BitVec 5) (s : State) : Out :=
  let i : Instr := .tst d a c fa sat q
  issue i s (fun s x => do
    needCleanAll x.t.r [a, c]
    let k := getCore s x.r.core
    if (tileBusy k.kuduq true x.t.uid [d.toNat]).isSome then throw (tileTrap .accumulatorFrame d)
    if !tstTag (futureTag k x.t.uid d.toNat (tileOf x.t d.toNat)) fa then throw (tileTrap .tileKindUnsupported d)
    let st := rd x.t.r c
    if bitsOf st 24 40 ≠ 0 then throw (tileTrap .tileOperandRange d)
    let size := tagWidth fa.toNat / 8
    engCheck s x (tileTrap .tileOperandRange d) (rd x.t.r a) (31 * st.toNat + 32 * size) size (st.toNat % size == 0)
    postDte s x i (rd x.t.r a) 0 st 0 0 q)

/-- The two registers vA and v(A+1) joined, vA in the low half. -/
def pairBits (r : Regs) (a : BitVec 5) : BitVec 1024 := (vreg r (a + 1)).bits ++ (vreg r a).bits

/-- `frame-register` of v(A+1) or v(D+1) (R287). -/
def pairFrame (r : Regs) (a : BitVec 5) : Except Stop Unit := orTrap (decide (a.toNat + 1 < r.v.length)) .frameRegister

/-- R293. -/
def execTscl (d a : BitVec 5) (col : BitVec 1) (q : BitVec 5) (s : State) : Out :=
  let i : Instr := .tscl d a col q
  issue i s (fun s x => do
    vecClean x.t.r [a.toNat, a.toNat + 1]
    pairFrame x.t.r a
    let k := getCore s x.r.core
    if (tileBusy k.kuduq true x.t.uid [d.toNat]).isSome then throw (tileTrap .accumulatorFrame d)
    orTrap ((vreg x.t.r a).tag == 12 && (vreg x.t.r (a + 1)).tag == 12) .formatUnsupported
    if futureTag k x.t.uid d.toNat (tileOf x.t d.toNat) ≠ 12 then throw (tileTrap .accumulatorFormat d)
    postDte s x i 0 0 0 0 (pairBits x.t.r a) q)

/-- R295: both forms wait for every incomplete DTE command that names the tile (R284). -/
def tileWait (s : State) (x : Ctx) (n : BitVec 5) : Except Stop Unit := do
  let k := getCore s x.r.core
  if (tileBusy k.kuduq true x.t.uid [n.toNat]).isSome then throw (tileTrap .accumulatorFrame n)
  if (tileBusy k.dteq false x.t.uid [n.toNat]).isSome then throw (.wait (.engine [n.toNat] [] false))

/-- R295. -/
def execTget (d a b : BitVec 5) (s : State) : Out :=
  issue (.tget d a b) s (fun s x => do
    needClean x.t.r b
    pairFrame x.t.r d
    tileWait s x a
    orTrap (decide ((rd x.t.r b).toNat < 32)) .operandRange
    let t := tileOf x.t a.toNat
    let row := (rd x.t.r b).toNat
    let half (h : Nat) : VReg :=
      ⟨BitVec.ofNat 512 (ofElems 32 ((List.range 16).map (fun m => tileElem t.bits row (16 * h + m)))), BitVec.ofNat 5 (tileTag t), 0⟩
    pure (setRegs s x (wrV (wrV x.t.r d (half 0)) (d + 1) (half 1)), .seq))

/-- The elements of a row written into row `r` of a tile. -/
def setRow (b : TileBits) (r : Nat) (row : List Nat) : TileBits :=
  tileOfElems ((List.range 1024).map (fun n => if n / 32 = r then (row[n % 32]?).getD 0 else tileElem b (n / 32) (n % 32)))

/-- R295. -/
def execTset (d a b : BitVec 5) (bc : BitVec 1) (s : State) : Out :=
  issue (.tset d a b bc) s (fun s x => do
    needClean x.t.r b
    vecClean x.t.r [a.toNat, a.toNat + 1]
    pairFrame x.t.r a
    tileWait s x d
    let va := vreg x.t.r a
    let vc := vreg x.t.r (a + 1)
    let t := tileOf x.t d.toNat
    orTrap ((va.tag == 5 || va.tag == 12) && (vc.tag == 5 || vc.tag == 12)) .formatUnsupported
    orTrap (va.tag == vc.tag && (bc == 1 || va.tag.toNat == tileTag t)) .formatMismatch
    let r := (rd x.t.r b).toNat
    orTrap (if bc = 1 then r == 0 else decide (r < 32)) .operandRange
    let row := (List.range 32).map (fun m => ((pairBits x.t.r a).toNat / 2 ^ (32 * m)) % 2 ^ 32)
    let t' : Tile := if bc = 1 then ⟨tileOfElems ((List.range 1024).map (fun n => (row[n % 32]?).getD 0)), va.tag == 12, false⟩
      else { t with bits := setRow t.bits r row }
    pure (setStrand s x.r { x.t with tiles := x.t.tiles.set d.toNat t' }, .seq))

/-- Steps of a DTE command (R282). -/
def dteSteps (q : EngCmd) : Nat :=
  match engFn q with
  | 0 => bitsOf q.c 0 13 / 32
  | 2 => 4
  | _ => 1

/-- Element `e` of packed bytes of a format. -/
def packElem (f : Nat) (l : List Byte) (e : Nat) : Nat :=
  let w := tagWidth f
  (leNat l / 2 ^ (w * e)) % 2 ^ w

/-- The FA and FB fields of a command's word 1. -/
def engFa (q : EngCmd) : Nat := (q.w1.toNat / 2 ^ 17) % 32
/-- See `engFa`. -/
def engFb (q : EngCmd) : Nat := (q.w1.toNat / 2 ^ 12) % 32

/-- Cycles of a DTE step (R290). -/
def dteTime (c : CoreId) (q : EngCmd) : Nat :=
  let (fa, fb) := (engFa q, engFb q)
  match engFn q with
  | 0 => stepTime (if fa = 13 then 4 else if fa = 11 then 16 else 8)
      (farBytes c q.a (32 * packBytes fa 32) + farBytes c q.b (32 * packBytes fb 32) + (if q.w1.getLsbD 11 then farBytes c q.e 64 else 0))
  | 3 => 8
  | _ => 4

/-- One chunk accumulated into an f32 element (R53). -/
def mmaF (acc : Nat) (xs ys : List FVal) : Nat :=
  let prods := List.zipWith (fun a b => (fmulX a b).1) xs ys
  (fround fmtF32 .rne (fsumX .rne [fdec fmtF32 acc, (fsumX .rne prods).1]).1).1

/-- Saturation of an i32 accumulation, with the sticky bit (R53, R54). -/
def satAcc (v : Int) : Nat × Bool := satInt 5 v

/-- The effect of chunk `c` of a `tmma` on its tile (R289), from the rows of A and B and the scale bytes. -/
def mmaStep (t : Tile) (fa fb : Nat) (sc : Bool) (ra rb : List (List Byte)) (sa sb : List Byte) : Tile :=
  if fa = 1 then
    let val (l : List Byte) : List Int := (List.range 32).map (fun e => sintN 8 (packElem 1 l e))
    let xs := ra.map val
    let ys := rb.map val
    let out := (List.range 1024).map (fun n =>
      let x := (xs[n / 32]?).getD []
      let y := (ys[n % 32]?).getD []
      satAcc (sintN 32 (tileElem t.bits (n / 32) (n % 32)) + (List.zipWith (fun a b => a * b) x y).foldl (fun a b => a + b) 0))
    { t with bits := tileOfElems (out.map (fun z => z.1)), sticky := t.sticky || out.any (fun z => z.2) }
  else
    let scl (l : List Byte) (i : Nat) : FVal := if sc then fdecE8m0 ((l[i]?).getD 0).toNat else .fin false 1 0
    let val (f : Nat) (l : List Byte) (k : FVal) : List FVal := (List.range 32).map (fun e => (fmulX (elemVal f (packElem f l e)) k).1)
    let xs := (List.range 32).map (fun i => val fa ((ra[i]?).getD []) (scl sa i))
    let ys := (List.range 32).map (fun j => val fb ((rb[j]?).getD []) (scl sb j))
    { t with bits := tileOfElems ((List.range 1024).map (fun n =>
        mmaF (tileElem t.bits (n / 32) (n % 32)) ((xs[n / 32]?).getD []) ((ys[n % 32]?).getD []))) }

/-- A step of `tmma`: its reads, then its effect on the tile. -/
def dteMma (s : State) (core : CoreId) (q : EngCmd) (t : Tile) : Except (Cause × State) (Tile × State) :=
  let (n, as_, bs) := shapeOf q.c
  let fa := engFa q
  let fb := engFb q
  let sc := q.w1.getLsbD 11
  let row (base : Word) (str f i : Nat) : Word := base + BitVec.ofNat 64 (i * str + q.step * packBytes f 32)
  match engRows s core q.who.dom (packBytes fa 32) ((List.range 32).map (row q.a as_ fa)) with
  | .error e => .error e
  | .ok (ra, s) =>
    match engRows s core q.who.dom (packBytes fb 32) ((List.range 32).map (row q.b bs fb)) with
    | .error e => .error e
    | .ok (rb, s) =>
      if sc then
        let at_ (off i : Nat) : Word := q.e + BitVec.ofNat 64 (off + i * (n / 32) + q.step)
        match engRows s core q.who.dom 1 ((List.range 32).map (at_ 0) ++ (List.range 32).map (at_ n)) with
        | .error e => .error e
        | .ok (sb, s) =>
          let l := sb.map (fun b => (b[0]?).getD 0)
          .ok (mmaStep t fa fb true ra rb (l.take 32) (l.drop 32), s)
      else .ok (mmaStep t fa fb false ra rb [] [], s)

/-- The bytes of row `i` as `tst` stores them (R294). -/
def tstRow (t : Tile) (tag : Nat) (sat : Bool) (i : Nat) : List Byte :=
  (List.range 32).flatMap (fun j =>
    let x := tileElem t.bits i j
    let v := if t.f32 then (toFloat tag .rne sat (fdec fmtF32 x)).1 else (satInt tag (sintN 32 x)).1
    leBytes (tagWidth tag / 8) v)

/-- A step of `tst`: the whole destination of the step is checked, then eight rows are written. -/
def dteTst (s : State) (core : CoreId) (q : EngCmd) (t : Tile) : Except (Cause × State) State :=
  let tag := engFa q
  let rows := rangeFrom (8 * q.step) 8
  let len := 32 * tagWidth tag / 8
  let place (i : Nat) : Except Cause (CoreId × Nat) := engPlace s core q.who.dom (q.a + BitVec.ofNat 64 (i * q.c.toNat)) len
  match rows.findSome? (fun i => match place i with | .error c => some c | .ok _ => none) with
  | some c => .error (c, s)
  | none =>
    .ok (rows.foldl (fun s i => match place i with
      | .ok (c, off) => spadStore s q.who (q.a + BitVec.ofNat 64 (i * q.c.toNat)) c off (tstRow t tag (q.w1.getLsbD 11) i)
      | .error _ => s) s)

/-- The tile scaled by rows or columns (R293). -/
def sclTile (t : Tile) (scl : BitVec 1024) (col : Bool) : Tile :=
  { t with bits := tileOfElems ((List.range 1024).map (fun n =>
      let m := if col then n % 32 else n / 32
      (fmul fmtF32 .rne (tileElem t.bits (n / 32) (n % 32)) ((scl.toNat / 2 ^ (32 * m)) % 2 ^ 32)).1)) }

/-- The DTE queue of a core with one command changed or removed. -/
def setDte (s : State) (c : CoreId) (n : Nat) (f : EngCmd → Option EngCmd) : State :=
  updCore s c (fun k => { k with dteq := k.dteq.filterMap (fun q => if q.num = n then f q else some q) })

/-- A tile of the strand that owns a command replaced. -/
def setTile (s : State) (core : CoreId) (uid n : Nat) (t : Tile) : State :=
  match engStrand s core uid with
  | some (r, st) => setStrand s r { st with tiles := st.tiles.set n t }
  | none => s

/-- A step met a fault (R296): the command ends, its completion carries the error, and it is reported once. -/
def dteFault (s : State) (core : CoreId) (q : EngCmd) (c : Cause) : State :=
  let s := setDte s core q.num (fun _ => none)
  let s := engReport s core 4 q (causeCode c * 2 ^ 16 + (q.w0.toNat / 2 ^ 19) % 8 * 2 ^ 8 + q.step)
  tlComplete s core 4 q.num false

/-- DTE_STEP (R282, R290): the first command with a step left performs it, once its issuer's release is done and the step before
has taken its time; a step takes effect where it starts. -/
def execDteStep (c : CoreId) (s : State) : Out :=
  match (getCore s c).dteq.find? (fun q => decide (q.step < dteSteps q)) with
  | none => .next s
  | some q =>
    match engStrand s c q.who.uid with
    | none => .next s
    | some (_, st) =>
      if st.stopping || !released s c q.who || !engFree s c (getCore s c).dteq then .next s
      else
        let n := (q.w0.toNat / 2 ^ 19) % 32
        let t := tileOf st n
        let done (s : State) : Out := .next (setDte s c q.num (fun q => some { q with step := q.step + 1, left := dteTime c q }))
        match engFn q with
        | 0 => (match dteMma s c q t with
          | .error (e, s) => .next (dteFault s c q e)
          | .ok (t, s) => done (setTile s c q.who.uid n t))
        | 1 => done (setTile s c q.who.uid n ⟨0, engFa q == 12, false⟩)
        | 2 => (match dteTst s c q t with
          | .error (e, s) => .next (dteFault s c q e)
          | .ok s => done s)
        | _ => done (setTile s c q.who.uid n (sclTile t q.scl (q.w1.getLsbD 10)))

/-- DTE_COMPLETE (R283): the head, all its steps performed, completes on tl4. -/
def execDteComplete (c : CoreId) (s : State) : Out :=
  match (getCore s c).dteq with
  | q :: _ => if q.step < dteSteps q ∨ q.left ≠ 0 then .next s else .next (tlComplete (setDte s c q.num (fun _ => none)) c 4 q.num true)
  | [] => .next s

end Sys2Proof.Machine
end

