-- ==== Sys2Proof/Machine/LookEng.lean ====
section
/-! DEFINITION. The LOOK family and the steps of the Kudu lookup engine (R298–R318). -/

namespace Sys2Proof.Machine

/-- Table slot `n` of a strand. -/
def tabOf (t : Strand) (n : Nat) : Table := (t.tabs[n]?).getD ⟨false, 0, 0, false, false, 0, .unbuilt, 0, 0⟩

/-- Groups of a table row (R299). -/
def tabGroups (mode bf : Bool) : Nat := match mode, bf with | false, false => 8 | false, true => 4 | true, false => 32 | true, true => 16

/-- What the checks of R309 see of a slot: record present, mode, bf16, policy, state, and whether an earlier incomplete
command names it. -/
structure TabView where
  recd : Bool
  mode : Bool
  bf : Bool
  pol : Bool
  st : TabState
  named : Bool
deriving DecidableEq, Repr

/-- The slot as it stands. -/
def tabView (t : Table) : TabView := ⟨t.recd, t.mode, t.afmt == 11, t.pol, t.st, false⟩

/-- D of a command. -/
def engD (q : EngCmd) : Nat := (q.w0.toNat / 2 ^ 19) % 32

/-- The slot after the queued commands that name it (R309). -/
def futureTab (x : Core) (uid n : Nat) (t : Table) : TabView :=
  x.kuduq.foldl (fun v q =>
    if q.who.uid ≠ uid ∨ (engTabs q).contains n = false then v
    else match engFn q with
      | 0 => ⟨true, q.w1.getLsbD 21, (q.w1.toNat / 2 ^ 22) % 32 == 11, q.w1.getLsbD 20, .valid, true⟩
      | 2 => { v with st := if v.recd then .cleared else v.st, named := true }
      | 4 => { v with st := .valid, named := true }
      | _ => { v with named := true }) (tabView t)

/-- A table fault (R327). -/
def tabTrap (c : Cause) (n : Nat) : Stop := .trap c (detail8 n) 0

/-- A Kudu command posted: numbered on tl5 and queued, its number written to Q (R306). -/
def postKudu (s : State) (x : Ctx) (i : Instr) (a b c : Word) (q : BitVec 5) : Except Stop (State × Next) :=
  if 16 ≤ (getCore s x.r.core).kuduq.length then .error (.wait (.queue 5))
  else
    let w := (encode i).getD ⟨0, 0, 0, 0⟩
    let (n, s) := tlPost s x.r.core 5
    let cmd : EngCmd := ⟨w.w0, w.w1, w.w2, a, b, c, 0, 0, n, 0, x.r.slot, issuerOf s x, false, none, 0, []⟩
    let s := updCore s x.r.core (fun k => { k with kuduq := k.kuduq ++ [cmd] })
    .ok (putRegs s x (wr x.t.r q (BitVec.ofNat 64 n) false), .seq)

/-- R310 at issue. -/
def execLbld (d a b fmt : BitVec 5) (mode pol : BitVec 1) (q : BitVec 5) (s : State) : Out :=
  let i : Instr := .lbld d a b fmt mode pol q
  issue i s (fun s x => do
    needCleanAll x.t.r [a, b]
    orTrap (fmt == 1 || fmt == 11) .formatUnsupported
    let va := rd x.t.r a
    let str := rd x.t.r b
    if bitsOf str 24 40 ≠ 0 then throw (tileTrap .tileShape d)
    let far : Stop := tabTrap .tableSourceNotLocal d.toNat
    match windowOf x.r.core va with
    | .spad _ false _ => throw far
    | _ => pure ()
    engCheck s x far va (31 * str.toNat + rowLen (mode = 1)) 16 (str.toNat % 16 == 0)
    postKudu s x i va str 0 q)

/-- Weight formats (R308). -/
def weightFmt (f : BitVec 5) : Bool := f == 15 || f == 16 || f == 17 || f == 18

/-- Bytes of `n` weight groups of four (R311). -/
def weightBytes (f : BitVec 5) (n : Nat) : Nat := if f = 17 then n / 2 else if f = 15 then 2 * n else n

/-- R311 at issue. -/
def execLmm (d a b c fmt : BitVec 5) (nt : BitVec 3) (q : BitVec 5) (s : State) : Out :=
  let i : Instr := .lmm d a b c fmt nt q
  issue i s (fun s x => do
    needCleanAll x.t.r [a, c]
    orTrap (decide (d.toNat + 3 < x.t.tiles.length)) .frameRegister
    let k := getCore s x.r.core
    let tabs := rangeFrom b.toNat (nt.toNat + 1)
    let tiles := rangeFrom d.toNat 4
    if 8 ≤ b.toNat + nt.toNat ∨ x.t.tabs.length ≤ b.toNat + nt.toNat then throw (tabTrap .tableFrame b.toNat)
    match tileBusy k.dteq false x.t.uid tiles with
    | some n => throw (.trap .accumulatorFrame (detail8 n) 0)
    | none => pure ()
    orTrap (weightFmt fmt) .formatUnsupported
    let view (n : Nat) : TabView := futureTab k x.t.uid n (tabOf x.t n)
    match tabs.find? (fun n => !(view n).recd) with
    | some n => throw (tabTrap .tableNotBuilt n)
    | none => pure ()
    let v0 := view b.toNat
    match tabs.find? (fun n => (view n).mode != v0.mode || (view n).bf != v0.bf || ((view n).mode == (fmt == 18))) with
    | some n => throw (tabTrap .tableModeMismatch n)
    | none => pure ()
    match tiles.find? (fun n => (tileOf x.t n).f32 != v0.bf) with
    | some n => throw (.trap .accumulatorFormat (detail8 n) 0)
    | none => pure ()
    match tabs.find? (fun n => let v := view n; !v.named && !v.pol && v.st != .valid) with
    | some n => throw (tabTrap (if (view n).st = .restored then .tableStaleRestored else .tableStaleWritten) n)
    | none => pure ()
    let str := rd x.t.r c
    if bitsOf str 24 40 ≠ 0 then throw (tileTrap .tileShape d)
    let n := (nt.toNat + 1) * tabGroups v0.mode v0.bf
    engCheck s x (tileTrap .tileOperandRange d) (rd x.t.r a) (127 * str.toNat + weightBytes fmt n) 8 (str.toNat % 8 == 0)
    postKudu s x i (rd x.t.r a) 0 str q)

/-- R314 at issue. -/
def execLinv (d q : BitVec 5) (s : State) : Out :=
  let i : Instr := .linv d q
  issue i s (fun s x => postKudu s x i 0 0 0 q)

/-- R314 at issue. -/
def execLrbld (d q : BitVec 5) (s : State) : Out :=
  let i : Instr := .lrbld d q
  issue i s (fun s x =>
    if (futureTab (getCore s x.r.core) x.t.uid d.toNat (tabOf x.t d.toNat)).recd then postKudu s x i 0 0 0 q
    else .error (tabTrap .tableNotBuilt d.toNat))

/-- CAUSE of a slot state (R302). -/
def tabCause (t : TabState) : Nat :=
  match t with | .unbuilt => 0 | .valid => 0 | .written => 1 | .restored => 2 | .cleared => 3 | .failed => 4

/-- The status word (R315). -/
def tabStatus (t : Table) : Word :=
  if !t.recd then 0
  else BitVec.ofNat 64 ((if t.st = .valid then 2 ^ 63 else 0) + tabCause t.st * 2 ^ 60 + 2 ^ 59 + (if t.pol then 2 ^ 58 else 0) +
    (if t.mode then 2 ^ 57 else 0) + t.afmt.toNat * 2 ^ 52 + t.stride.toNat * 2 ^ 24 + t.rebuilds)

/-- R315. -/
def execLstat (d b : BitVec 5) (sel : BitVec 1) (s : State) : Out :=
  issue (.lstat d b sel) s (fun s x =>
    if (getCore s x.r.core).kuduq.any (fun q => q.who.uid == x.t.uid && (engTabs q).contains b.toNat) then .error (.wait (.engine [] [b.toNat] false))
    else
      let t := tabOf x.t b.toNat
      .ok (setRegs s x (wr x.t.r d (if sel = 0 then tabStatus t else if t.recd then t.src else 0) false), .seq))

/-! ### Steps -/

/-- Activation `e` of row `r` in a table's contents. -/
def tabAct (t : Table) (r e : Nat) : Nat :=
  let w := if t.afmt = 11 then 16 else 8
  (t.acts.toNat / 2 ^ (8 * rowLen t.mode * r + w * e)) % 2 ^ w

/-- The four activations of a group, as integers. -/
def grpInt (t : Table) (r h : Nat) : List Int := (rangeFrom (4 * h) 4).map (fun e => sintN 8 (tabAct t r e))
/-- The four activations of a group, as values. -/
def grpF (t : Table) (r h : Nat) : List FVal := (rangeFrom (4 * h) 4).map (fun e => fdec fmtBf16 (tabAct t r e))

/-- `a + b` of values rounded RNE to f32 (R54). -/
def addR (a b : FVal) : FVal := fdec fmtF32 (fround fmtF32 .rne (fsumX .rne [a, b]).1).1
/-- A value rounded RNE to f32. -/
def rndR (v : FVal) : FVal := fdec fmtF32 (fround fmtF32 .rne v).1

/-- Signed terms added in order, the first exact (R54, R301); no terms give +0. -/
def sumTerms (l : List FVal) : FVal := match l with | [] => .fin false 0 0 | a :: t => t.foldl addR a

/-- The digits of a tq4 code as weights (R28). -/
def tritW (code : Nat) : List Int :=
  [code, code / 3, code / 9, code / 27].map (fun x => if x % 3 = 0 then 0 else if x % 3 = 1 then 1 else -1)

/-- A weight applied to a term; none when the digit is 0 (R54). -/
def signTerm (w : Int) (v : FVal) : Option FVal := if w = 0 then none else if w = 1 then some v else some (fneg v)

/-- Weights of group `g` of one packed row (R27, R28, R311). -/
def rowWeights (f : BitVec 5) (bits g : Nat) : List Int :=
  if f = 18 then tritW ((bits / 2 ^ (8 * g)) % 256)
  else
    let w := tagWidth f.toNat
    (rangeFrom (4 * g) 4).map (fun e =>
      let x := (bits / 2 ^ (w * e)) % 2 ^ w
      if f = 17 then (if x = 0 then 1 else -1) else sintN w x)

/-- T[k] of a plane table with bf16 activations (R301). -/
def planeF (xs : List FVal) (k : Nat) : FVal :=
  sumTerms (xs.zipIdx.map (fun p => if k.testBit p.2 then fneg p.1 else p.1))

/-- 2^j times a value, exactly. -/
def fshift (v : FVal) (j : Int) : FVal := match v with | .fin s m e => .fin s m (e + j) | _ => v

/-- The contribution of a plane group of b-bit weights (R54): t := −S, then each plane subtracted, then halved. -/
def planeSum (b : Nat) (xs : List FVal) (ws : List Int) : FVal :=
  let idx (j : Nat) : Nat := ofElems 1 (ws.map (fun w => (natN b w / 2 ^ j) % 2))
  let t := (List.range b).foldl (fun t j =>
    let p := rndR (fshift (planeF xs (idx j)) j)
    -- c of the top plane is negative
    if j + 1 = b then addR t p else addR t (fneg p)) (fneg (planeF xs 0))
  rndR (fshift t (-1))

/-- The contribution of one group to one output with bf16 activations (R54). -/
def contribF (f : BitVec 5) (xs : List FVal) (ws : List Int) : FVal :=
  if f = 18 then sumTerms ((List.zipWith signTerm ws xs).filterMap id)
  else if f = 17 then sumTerms (List.zipWith (fun w v => if w = 1 then v else fneg v) ws xs)
  else planeSum (tagWidth f.toNat) xs ws

/-- The groups of a step accumulated into output (r, c) of the quad: value and sticky (R54, R312). `grps` are table and
group number with the column's weights. -/
def lmmOut (tabs : Nat → Table) (f : BitVec 5) (bf : Bool) (r : Nat) (grps : List (Nat × Nat × List Int)) (acc : Nat) : Nat × Bool :=
  if bf then
    (grps.foldl (fun a g => (fround fmtF32 .rne (fsumX .rne [fdec fmtF32 a, contribF f (grpF (tabs g.1) r g.2.1) g.2.2]).1).1) acc, false)
  else
    grps.foldl (fun z g =>
      let v := (List.zipWith (fun w x => w * x) g.2.2 (grpInt (tabs g.1) r g.2.1)).foldl (fun a b => a + b) (sintN 32 z.1)
      let (y, k) := satAcc v
      (y, z.2 || k)) (acc, false)

/-- A slot of the strand that owns a command replaced. -/
def setTab (s : State) (core : CoreId) (uid n : Nat) (t : Table) : State :=
  match engStrand s core uid with
  | some (r, st) => setStrand s r { st with tabs := st.tabs.set n t }
  | none => s

/-- The rows of a build read into table contents (R299, R310); an error leaves the contents undefined (log 4). -/
def buildTab (s : State) (core : CoreId) (dom : Nat) (t : Table) : Except (Cause × State × Table) (Table × State) :=
  match engRows s core dom (rowLen t.mode) ((List.range 32).map (fun r => t.src + BitVec.ofNat 64 r * t.stride)) with
  | .error (c, s) => .error (c, { s with free := s.free + 1 }, { t with st := .failed, acts := Config.freeTable s.free })
  | .ok (rows, s) => .ok ({ t with st := .valid, acts := BitVec.ofNat 32768 (leNat (rows.flatMap id)) }, s)

/-- The Kudu queue of a core with one command changed or removed. -/
def setKudu (s : State) (c : CoreId) (n : Nat) (f : EngCmd → Option EngCmd) : State :=
  updCore s c (fun k => { k with kuduq := k.kuduq.filterMap (fun q => if q.num = n then f q else some q) })

/-- A step met a fault (R316): the command ends with the error status, and it is reported once. -/
def kuduFault (s : State) (core : CoreId) (q : EngCmd) (c : Cause) (tab col grp : Nat) : State :=
  let s := setKudu s core q.num (fun _ => none)
  let s := engReport s core 5 q (col * 2 ^ 32 + grp * 2 ^ 24 + causeCode c * 2 ^ 16 + tab % 8 * 2 ^ 8 + q.step)
  tlComplete s core 5 q.num false

/-- Sixteen-bit saturating increment (R305). -/
def sat16 (n : Nat) : Nat := if 0xFFFF ≤ n then 0xFFFF else n + 1

/-- Cycles of a build (R299, R305): 256 source bytes a cycle, then the builders' time. -/
def buildTime (t : Table) : Nat :=
  32 * rowLen t.mode / 256 + (if t.mode then 36 else 41) * (if t.afmt = 11 then 2 else 1)

/-- A rebuild starts (R305): the engine reads the recorded source; an error leaves the slot Failed (R316). -/
def startRebuild (s : State) (core : CoreId) (q : EngCmd) (n : Nat) (t : Table) : State :=
  match buildTab s core q.who.dom t with
  | .error (c, s, t) => kuduFault (setTab s core q.who.uid n t) core q c n 0 0
  | .ok (t, s) => setKudu s core q.num (fun p => some { p with hit := false, build := some (n, t.acts), left := buildTime t - 1, checked := q.checked })

/-- A rebuild ends (R304, R305): a write that has reached the source since its start leaves the slot Written. -/
def endRebuild (s : State) (core : CoreId) (q : EngCmd) (n : Nat) (acts : TileBits) (done : Bool) : State :=
  match engStrand s core q.who.uid with
  | none => s
  | some (_, st) =>
    let t := tabOf st n
    let s := setTab s core q.who.uid n { t with acts := acts, st := if q.hit then .written else .valid, rebuilds := sat16 t.rebuilds }
    setKudu s core q.num (fun q => some { q with build := none, step := if done then q.step + 1 else q.step })

/-- The tables of a step, in ascending order, that its boundary finds valid, and the first that it does not (R305, R312); those
found valid before a rebuild of the same boundary are not asked again. -/
def staleTab (st : Strand) (checked l : List Nat) : List Nat × Option Nat :=
  let ok (n : Nat) : Bool := checked.contains n || ((tabOf st n).recd && (tabOf st n).st == .valid)
  (l.takeWhile ok, l.find? (fun n => !ok n))

/-- The fault of a table that is not valid, or none where its policy rebuilds it (R305). -/
def staleFault (t : Table) : Option Cause :=
  if t.st = .unbuilt ∨ !t.recd then some .tableNotBuilt
  else if t.pol then none
  else some (if t.st = .restored then .tableStaleRestored else .tableStaleWritten)

/-- FMT of a LOOK command. -/
def engFmt (q : EngCmd) : BitVec 5 := BitVec.ofNat 5 (q.w1.toNat / 2 ^ 22)
/-- First table and count of an `lmm`. -/
def lmmTabs (q : EngCmd) : Nat × Nat := ((q.w0.toNat / 2 ^ 9) % 32, (q.w1.toNat / 2 ^ 17) % 8 + 1)

/-- Groups per table of an `lmm`, from the record of its first table. -/
def lmmG (st : Strand) (q : EngCmd) : Nat := let t := tabOf st (lmmTabs q).1; tabGroups t.mode (t.afmt == 11)

/-- Steps of a Kudu command (R306). -/
def kuduSteps (st : Strand) (q : EngCmd) : Nat :=
  if engFn q = 1 then ((lmmTabs q).2 * lmmG st q + 7) / 8 else 1

/-- Cycles of an `lmm` step over `n` groups (R313). -/
def lmmTime (c : CoreId) (q : EngCmd) (bf : Bool) (n : Nat) : Nat :=
  let f := engFmt q
  let k := (if f = 15 then 32 else if f = 16 then 16 else 8) * (if bf then 4 else 1)
  stepTime (if n < 8 then k / 2 else k) (farBytes c q.a (128 * weightBytes f n))

/-- The first tq4 byte above 80 of a step: lowest group, then lowest column (R316). -/
def badTrit (rows : List Nat) (n : Nat) : Option (Nat × Nat) :=
  (List.range n).findSome? (fun g => (List.range 128).findSome? (fun c =>
    if 81 ≤ (((rows[c]?).getD 0) / 2 ^ (8 * g)) % 256 then some (g, c) else none))

/-- A step of `lmm` (R312). -/
def kuduLmm (s : State) (core : CoreId) (q : EngCmd) (st : Strand) : State :=
  let (b0, cnt) := lmmTabs q
  let g0 := lmmG st q
  let f := engFmt q
  let first := 8 * q.step
  let n := if cnt * g0 < first + 8 then cnt * g0 - first else 8
  let tabs := ((rangeFrom first n).map (fun g => b0 + g / g0)).dedup
  match staleTab st q.checked tabs with
  | (valid, some n) =>
    (match staleFault (tabOf st n) with
     | some c => kuduFault s core q c n 0 0
     | none => startRebuild s core { q with checked := valid } n (tabOf st n))
  | (_, none) =>
    let off := weightBytes f first
    match engRows s core q.who.dom (weightBytes f n) ((List.range 128).map (fun c => q.a + BitVec.ofNat 64 (c * q.c.toNat + off))) with
    | .error (c, s) => kuduFault s core q c (engD q) 0 0
    | .ok (rows, s) =>
      let bits := rows.map leNat
      match (if f = 18 then badTrit bits n else none) with
      | some (g, c) => kuduFault s core q .tableIndexRange (engD q) c g
      | none =>
        match engStrand s core q.who.uid with
        | none => s
        | some (r, st) =>
          let bf := (tabOf st b0).afmt == 11
          let col (c : Nat) : List (Nat × Nat × List Int) := (List.range n).map (fun g =>
            (b0 + (first + g) / g0, (first + g) % g0, rowWeights f ((bits[c]?).getD 0) g))
          let cols := (List.range 128).map col
          let tile (t : Nat) : Tile :=
            let old := tileOf st (engD q + t)
            let es := tileElems old.bits
            let out := (List.range 1024).map (fun m =>
              lmmOut (tabOf st) f bf (m / 32) ((cols[32 * t + m % 32]?).getD []) ((es[m]?).getD 0))
            { old with bits := tileOfElems (out.map (fun z => z.1)), sticky := old.sticky || out.any (fun z => z.2) }
          let tiles := (List.range 4).foldl (fun l t => l.set (engD q + t) (tile t)) st.tiles
          setKudu (setStrand s r { st with tiles := tiles }) core q.num (fun q => some { q with step := q.step + 1, left := lmmTime core q bf n, checked := [] })

/-- The record that an `lbld` gives its slot (R310). -/
def lbldTab (q : EngCmd) : Table :=
  ⟨true, q.a, q.b, q.w1.getLsbD 20, q.w1.getLsbD 21, engFmt q, .valid, 0, 0⟩

/-- KUDU_STEP (R306, R310, R312 to R314): once the step before has taken its time, the head performs its next step, or starts or ends a rebuild before it (R305). -/
def execKuduStep (c : CoreId) (s : State) : Out :=
  match (getCore s c).kuduq with
  | [] => .next s
  | q :: _ =>
    match engStrand s c q.who.uid with
    | none => .next s
    | some (_, st) =>
      if kuduSteps st q ≤ q.step || (st.stopping && q.build.isNone) || !released s c q.who || !engFree s c (getCore s c).kuduq then .next s
      else
        let d := engD q
        let t := tabOf st d
        let stepped (s : State) (n : Nat) : State := setKudu s c q.num (fun q => some { q with step := q.step + 1, left := n })
        match q.build with
        | some (n, acts) => .next (endRebuild s c q n acts (engFn q != 1))
        | none =>
          match engFn q with
          | 0 =>
            (match buildTab s c q.who.dom (lbldTab q) with
             | .error (e, s, t) => .next (kuduFault (setTab s c q.who.uid d t) c q e d 0 0)
             | .ok (t, s) => .next (stepped (setTab s c q.who.uid d (if q.hit then { t with st := .written } else t)) (buildTime t)))
          | 1 => .next (kuduLmm s c q st)
          | 2 =>
            -- a write of the same cycle leaves the slot Written (R304)
            let st : TabState := if (getCore s c).tabHits.contains ((q.who.uid, d), s.cycle) then .written else .cleared
            .next (stepped (setTab s c q.who.uid d (if t.recd then { t with st := st } else t)) 1)
          | _ => .next (if t.recd then startRebuild s c q d t else kuduFault s c q .tableNotBuilt d 0 0)

/-- KUDU_COMPLETE (R306): the head, all its steps performed, completes on tl5. -/
def execKuduComplete (c : CoreId) (s : State) : Out :=
  match (getCore s c).kuduq with
  | q :: _ =>
    (match engStrand s c q.who.uid with
     | some (_, st) => if q.step < kuduSteps st q ∨ q.left ≠ 0 then .next s
                       else .next (tlComplete (setKudu s c q.num (fun _ => none)) c 5 q.num true)
     | none => .next s)
  | [] => .next s

end Sys2Proof.Machine
end

