-- ==== Sys2Proof/Machine/Sync.lean ====
section
/-! DEFINITION. The SYNC family: waits on timelines and tags (R213, R215, R216, R222, R235–R237). -/

namespace Sys2Proof.Machine

/-- R236: a `tlwait` that returns acquires at package scope (R222). -/
def execTlwait (k b : BitVec 5) (s : State) : Out :=
  issue (.tlwait k b) s (fun s x => do
    needClean x.t.r b
    let t := tlOf (getCore s x.r.core) k.toNat
    let n := (rd x.t.r b).toNat
    orTrap (decide (n ≤ t.posted)) .timelineInvalid
    if t.value < n then throw (.wait (.timeline k.toNat n))
    pure (acquire s x.r.core 2, .seq))

/-- The error word of a timeline (R236). -/
def tlErr (t : Timeline) : Word := if t.err then BitVec.ofNat 64 (2 ^ 63 + t.first % 2 ^ 63) else 0

/-- R236. In run-ahead selector 2 clears nothing, for nothing done there remains (R141). -/
def execTlread (d k sel : BitVec 5) (s : State) : Out :=
  issue (.tlread d k sel) s (fun s x =>
    let c := getCore s x.r.core
    let t := tlOf c k.toNat
    let v : Word := if sel = 0 then BitVec.ofNat 64 t.value else tlErr t
    let s := if sel = 2 ∧ x.t.shadow.isNone then setCore s x.r.core (setTl c k.toNat { t with err := false, first := 0 }) else s
    .ok (putRegs s x (wr x.t.r d v false), .seq))

/-- A wait on tags is satisfied (R216, R237). -/
def tagsReady (ready mask : Word) (any : Bool) : Bool := if any then ready &&& mask != 0 else ready &&& mask == mask

/-- The tags that a satisfied wait takes: the lowest, or all of them. -/
def tagsTaken (ready mask : Word) (any : Bool) : Word :=
  if any then (match lowBit 64 (ready &&& mask).toNat 0 with | some i => BitVec.ofNat 64 (2 ^ i) | none => 0) else mask

/-- The value that `waitany` writes: the lowest ready tag. -/
def tagIndex (ready mask : Word) : Word :=
  match lowBit 64 (ready &&& mask).toNat 0 with | some i => BitVec.ofNat 64 i | none => ~~~(0#64)

/-- Tags taken by a strand's wait, with the acquire of R222. -/
def takeTags (s : State) (x : Ctx) (any : Bool) (d : BitVec 5) (mask : Word) : State :=
  let c := getCore s x.r.core
  let s := setCore s x.r.core { c with tagR := c.tagR &&& ~~~(tagsTaken c.tagR mask any) }
  let s := putRegs s x (if any then wr x.t.r d (tagIndex c.tagR mask) false else x.t.r)
  acquire s x.r.core 2

/-- A satisfied waiter wants a tag of the mask: the ready tag is its own (R216). -/
def tagWanted (s : State) (c : CoreId) (mask : Word) : Bool :=
  (getCore s c).strands.any (fun y => match y.2.status with
    | .waiting (.tags any _ _ m _) => tagsReady (getCore s c).tagR m any && m &&& mask != 0
    | _ => false)

/-- `waitany` and `waitall` (R237). -/
def tagWait (i : Instr) (any : Bool) (d a : BitVec 5) (s : State) : Out :=
  issue i s (fun s x => do
    needClean x.t.r a
    let mask := rd x.t.r a
    let c := getCore s x.r.core
    let known := c.tagR ||| c.tagA
    orTrap (mask != 0 && (if any then known &&& mask != 0 else known &&& mask == mask)) .operandRange
    if tagsReady c.tagR mask any && !tagWanted s x.r.core mask then pure (takeTags s x any d mask, .seq)
    else pure (s, .hold (.tags any d a mask s.cycle)))

/-- R237. -/
def execWaitany (d a : BitVec 5) (s : State) : Out := tagWait (.waitany d a) true d a s
/-- R237. -/
def execWaitall (a : BitVec 5) (s : State) : Out := tagWait (.waitall a) false 0 a s

/-- R237. -/
def execTagfirst (d a : BitVec 5) (s : State) : Out :=
  issue (.tagfirst d a) s (fun s x => do
    needClean x.t.r a
    pure (setRegs s x (wr x.t.r d (tagIndex (getCore s x.r.core).tagR (rd x.t.r a)) false), .seq))

/-- R237. -/
def execTagclr (a : BitVec 5) (s : State) : Out :=
  issue (.tagclr a) s (fun s x => do
    needClean x.t.r a
    pure (updCore s x.r.core (fun k => { k with tagR := k.tagR &&& ~~~(rd x.t.r a) }), .seq))

/-- R237. -/
def execTagrd (d sel : BitVec 5) (s : State) : Out :=
  issue (.tagrd d sel) s (fun s x =>
    let c := getCore s x.r.core
    .ok (setRegs s x (wr x.t.r d (if sel = 0 then c.tagR else c.tagA) false), .seq))

/-- The waiters of a core whose tags are ready: priority, wait, slot (R216). -/
def tagWaiters (s : State) (c : CoreId) : List (List Nat × StrandRef) :=
  (getCore s c).strands.filterMap (fun y => match y.2.status with
    | .waiting (.tags any _ _ mask since) =>
      if tagsReady (getCore s c).tagR mask any then some ([255 - y.2.prio, since, y.1], ⟨c, y.1⟩) else none
    | _ => none)

/-- TAG_WAIT_GRANT (R216): ready tags go to one waiter, which completes its instruction and is ready (R237). -/
def execTagWaitGrant (c : CoreId) (s : State) : Out :=
  match leastBy (fun a b => lexLt a.1 b.1) (tagWaiters s c) with
  | none => .next s
  | some (_, r) =>
    match getStrand s r with
    | none => .next s
    | some t =>
      match t.status with
      | .waiting (.tags any d a mask _) =>
        let i : Instr := if any then .waitany d a else .waitall a
        let x : Ctx := ⟨r, t, i.len, i.word0⟩
        .next (updStrand (finish i (takeTags s x any d mask) x .seq) r (fun t => { t with since := s.cycle, readyAt := s.cycle }))
      | _ => .next s

end Sys2Proof.Machine
end

