-- ==== Sys2Proof/Machine/Gateway.lean ====
section
/-! DEFINITION. Eland's gateway (R376–R381) and requests toward a page's owner (R151, R360, R361, R363). -/

namespace Sys2Proof.Machine

/-- SRCID of an identity word (R376). -/
def srcidOf (w : Word) : BitVec 28 := BitVec.ofNat 28 (bitsOf w 24 28)
/-- SRCID of what Eland itself sends: its directory and its message channel (log 17). -/
def elandSrc (s : State) : BitVec 28 := srcidOf (fabricSid s s.fab 0)
/-- Domain of a SRCID. -/
def srcDom (x : BitVec 28) : Nat := (x.toNat / 16) % 256
/-- BORN now (R376). -/
def bornNow (s : State) : BitVec 12 := BitVec.ofNat 12 (now s / 1024)
/-- Payload padded to 32-byte steps. -/
def padStep (l : List Byte) : List Byte := l ++ List.replicate ((32 - l.length % 32) % 32) 0#8

/-- A packet of this package (R376, R381). -/
def mkPkt (s : State) (dst vc type rid : Nat) (srcid : BitVec 28) (cause : Cause) (payload : List Byte) : Packet :=
  let l := padStep payload
  { dst := BitVec.ofNat 12 dst, src := BitVec.ofNat 12 s.pkg, vc := BitVec.ofNat 3 vc, type := BitVec.ofNat 5 type,
    len := BitVec.ofNat 8 (l.length / 32), rid := BitVec.ofNat 16 rid, rt := 0, hops := 0, rdr := 0, srcid := srcid,
    born := bornNow s, cause := BitVec.ofNat 7 (causeCode cause), resv := false, payload := l, badLines := [] }

/-- A packet handed to the fabric. -/
def sendPkt (s : State) (p : Packet) : State := { s with out := s.out ++ [p] }

/-! A write or a contribution in parts (R376, R378, log 74). The gateway hands a transaction of the die over in one piece; on the
fabric each part is a packet of its own, under one request id, and every packet but the last has one step of zeros more than its
BYTES need. Here a payload in parts is the parts one after the other, each padded to whole lines of 64 bytes. -/

/-- Data bytes that one part carries: its payload of at most 4,096 bytes begins with a step of four words and may end with the
step that announces another part. -/
def writeMax : Nat := 4032

/-- BYTES of the part at the head of a payload (R378). -/
def partLen (l : List Byte) : Nat := bitsOf (wordAt l 1) 0 13

/-- Bytes of a part's packet, and of the part in a payload of parts. -/
def partPkt (n : Nat) : Nat := 32 + (n + 31) / 32 * 32
/-- See `partPkt`. -/
def partSize (n : Nat) : Nat := (32 + n + 63) / 64 * 64

/-- The parts of a payload: where each begins. -/
def partStarts (l : List Byte) (o fuel : Nat) : List Nat :=
  match fuel with
  | 0 => []
  | k + 1 => if l.length < 32 then [] else o :: partStarts (l.drop (partSize (partLen l))) (o + partSize (partLen l)) k

/-- A payload has parts: a WRITE (R378), or a contribution (R383). -/
def inParts (p : Packet) : Bool := (p.vc == 0 && p.type == 1) || p.type == 21

/-- The packets of a request on the fabric. -/
def wireParts (p : Packet) : List Packet :=
  if !inParts p then [p]
  else
    let l := partStarts p.payload 0 (p.payload.length / 32 + 1)
    l.map (fun o =>
      let d := p.payload.drop o
      let n := partLen d
      let pay := padStep (d.take (partPkt n)) ++ (if l.getLast? = some o then [] else List.replicate 32 0#8)
      { p with payload := pay, len := BitVec.ofNat 8 (pay.length / 32),
               badLines := (p.badLines.filter (fun i => decide (o / 64 ≤ i) && decide (i < (o + partSize n) / 64))).map (fun i => i - o / 64) })

/-- A request handed to the fabric. -/
def sendReq (s : State) (p : Packet) : State := (wireParts p).foldl sendPkt s

/-- Data with poison as a payload of parts, under word 0 of each part's first step: an address that goes on, or a handle that
stays. -/
def partsOf (w0 : Nat) (goes : Bool) (d : List (Byte × Bool)) (fuel : Nat) : List (Byte × Bool) :=
  match fuel with
  | 0 => []
  | k + 1 =>
    let c := d.take writeMax
    let head := (leBytes 8 w0 ++ leBytes 8 c.length ++ leBytes 16 0).map (fun b => (b, false))
    let one := head ++ c ++ List.replicate (partSize c.length - 32 - c.length) (0#8, false)
    if d.length ≤ writeMax then one else one ++ partsOf (if goes then w0 + writeMax else w0) goes (d.drop writeMax) k

/-- Lines of 64 bytes that hold a poisoned byte. -/
def poisLines (d : List (Byte × Bool)) : List Nat :=
  (List.range (d.length / 64 + 1)).filter (fun i => ((d.drop (64 * i)).take 64).any (fun b => b.2))

/-- A packet with a payload whose poisoned bytes damage their lines (R381). -/
def poisPkt (p : Packet) (d : List (Byte × Bool)) : Packet := { p with payload := d.map (fun b => b.1), badLines := poisLines d }

/-- The data of a request in parts, with poison (R381): word 0 of each part, and its bytes. -/
def partsData (p : Packet) : List (Nat × List (Byte × Bool)) :=
  (partStarts p.payload 0 (p.payload.length / 32 + 1)).map (fun o =>
    let d := p.payload.drop o
    ((wordAt d 0).toNat, ((d.drop 32).take (partLen d)).zipIdx.map (fun b => (b.1, p.badLines.contains ((o + 32 + b.2) / 64)))))

/-- Age of a packet in units of 1,024 ns (R377). -/
def pktAge (s : State) (p : Packet) : Nat := (now s / 1024 % 4096 + 4096 - p.born.toNat) % 4096

/-- A part of a request has arrived: the whole request, once its last part is there (none before). A part is not kept longer than
a packet lives (R377). -/
def joinParts (s : State) (p : Packet) : Option Packet × State :=
  if !inParts p then (some p, s)
  else
    let mine (q : Packet) : Bool := q.src == p.src && q.srcid == p.srcid && q.rid == p.rid && q.type == p.type
    let n := partLen p.payload
    let s' := { s with halves := s.halves.filter (fun q => !mine q && decide (pktAge s q < 24)) }
    let part := { p with payload := p.payload.take (partPkt n) ++ List.replicate (partSize n - partPkt n) 0#8 }
    let q : Packet := match s.halves.find? (fun q => mine q && decide (pktAge s q < 24)) with
      | some h => { part with payload := h.payload ++ part.payload, badLines := h.badLines ++ p.badLines.map (fun i => i + h.payload.length / 64) }
      | none => part
    if 32 * p.len.toNat ≤ partPkt n then (some q, s') else (none, { s' with halves := s'.halves ++ [q] })

/-- Word `i` of a packet's payload. -/
def pktWord (p : Packet) (i : Nat) : Word := wordAt p.payload i

/-- Payload step 0 of READ, WRITE and ATOMIC, and the data after it (R378). -/
def reqPayload (gba bytes afn : Nat) (wide : Bool) (b c : Word) (data : List Byte) : List Byte :=
  leBytes 8 gba ++ leBytes 8 (bytes + afn * 2 ^ 16 + (if wide then 2 ^ 21 else 0)) ++ word8 b ++ word8 c ++ data

/-- The home package of a GPN (R349). -/
def gpnHome (g : Nat) : Nat := g / 2 ^ 36 % 4096

/-- The page of a 64 KiB unit that this package has a record of, of the largest size last; without one, `d`. -/
def pageKeyOr (s : State) (u d : Nat) : Nat :=
  let cand := [u, u / 32 * 32, u / 16384 * 16384]
  (cand.find? (fun g => (aget s.dir g).isSome || s.owned.contains g || (aget s.frames g).isSome ||
    s.stubs.any (fun x => x.gpn == g) || s.migs.any (fun m => m.gpn == g))).getD d

/-- The page of a unit that a request or an instruction names; the unit itself when this package has no record of it. -/
def pageKey (s : State) (u : Nat) : Nat := pageKeyOr s u u

/-- This package owns the page (R349, R359). -/
def isOwner (s : State) (g : Nat) : Bool :=
  if gpnHome g = s.pkg then (match aget s.dir g with | some d => d.owner == s.pkg | none => true)
  else s.owned.contains g

/-- The owner as this package knows it: itself, or what its owner cache says (R360). -/
def ownerKnown (s : State) (g : Nat) : Option Nat :=
  if isOwner s g then some s.pkg else aget s.oc g

/-- Every TLB entry of the package that maps a local page. -/
def allEntries (s : State) : List TlbEntry :=
  s.dies.flatMap (fun d => d.2.llt) ++ s.cores.flatMap (fun c => c.2.own)

/-- The frame address of a unit at its owner: a frame that a migration or a `tlbw` has given, else what an installed entry says,
else the frame at which the firmware keeps it, which nothing has shown yet (log 8). -/
def frameOfUnit (s : State) (u : Nat) : Nat :=
  match s.frames.find? (fun f => decide (f.1 ≤ u) && decide (u < f.1 + sizeUnits f.2.1)) with
  | some f => f.2.2 + (u - f.1) * 65536
  | none =>
    match (allEntries s).find? (fun e => e.loc == 0 && decide (e.gpn ≤ u) && decide (u < e.gpn + sizeUnits e.size)) with
    | some e => e.frame + (u - e.gpn) * 65536
    | none => Config.pageFrame u * 65536

/-- An owner enters the owner cache of 262,144 pairs (R360); which pair a full cache displaces is not stated: the oldest. -/
def ocPut (s : State) (g owner : Nat) : State :=
  let l := adel s.oc g
  { s with oc := (if 262144 ≤ l.length then l.drop 1 else l) ++ [(g, owner)] }

/-- A path's record. -/
def pathOf (s : State) (g : Nat) : PathCount := (s.paths.find? (fun p => p.gpn == g)).getD ⟨g, 0, [], false, []⟩
/-- A path's record written; an idle one is dropped. -/
def setPath (s : State) (p : PathCount) : State :=
  let l := s.paths.filter (fun q => q.gpn != p.gpn)
  { s with paths := if p.inFlight = 0 ∧ p.holding = [] ∧ p.ackTo = [] ∧ p.changing = false then l else l ++ [p] }

/-- The next request id of a source toward a destination (R151). -/
def nextRid (s : State) (dst : Nat) (src : BitVec 28) : Nat × State :=
  let k := dst * 2 ^ 28 + src.toNat
  let n := ((aget s.rids k).getD 0 + 1) % 65536
  (n, { s with rids := aset s.rids k n })

/-- A copy command of a core. -/
def copyOf (s : State) (c : CoreId) (strm num : Nat) : Option Copy :=
  (getCore s c).copies.find? (fun q => q.strm == strm && q.num == num)
/-- A copy command replaced. -/
def putCopy (s : State) (c : CoreId) (q : Copy) : State :=
  updCore s c (fun k => { k with copies := k.copies.map (fun p => if p.strm = q.strm ∧ p.num = q.num then q else p) })

/-- A block that failed (R218). -/
def blockFail (s : State) (c : CoreId) (strm num member block : Nat) (cause : Cause) : State :=
  match copyOf s c strm num with
  | none => s
  | some q =>
    if q.fails.any (fun f => f.1 == member && f.2.1 == block) then s
    else putCopy s c { q with fails := q.fails ++ [(member, block, cause)],
                              got := q.got.filter (fun g => g.member != member || g.block != block) }

/-- The answer to a relayed atomic of a core (R146, R152): its destination is written; an error is a deferred one (R99). -/
def amoReply (s : State) (id : Nat) (old : Word) (p : Bool) (e : Option Cause) : State :=
  let s := { s with relayed := s.relayed.filter (fun x => x.id != id) }
  match s.pend.find? (fun q => q.seq == id) with
  | some q =>
    let (dom, sid) := ownerOf s q
    reportDataOpt { s with pend := s.pend.filter (fun q => q.seq != id) } dom sid e q.iaddr q.va
  | none =>
    match (allStrands s).findSome? (fun y => (y.2.openers.find? (fun o => o.id == id)).map (fun o => (y.1, y.2, o))) with
    | none => s
    | some (r, t, o) =>
      let dst := openerDst o
      let va := match o.work with | .amo _ va _ _ _ _ _ => va | _ => 0
      let s := reportDataOpt s t.dom (strandSid s r t.dom) e o.pc va
      endOpener s r id (wr t.r dst (amoDest s t dst old e) (p || e.isSome))

/-- A free slot's state. -/
def Slot.reset : Slot :=
  { gen := 0, used := false, complete := false, dom := 0, priv := .u, expect := 0, len := 0, fmt := 0, op := 0, timeout := 0,
    result := 0, rch := 0, members := [], acc := [], first := 0, last := 0, time := 0, pois := false }

/-- Slot `i` of Eland. -/
def slotOf (s : State) (i : Nat) : Slot := (aget s.slots i).getD Slot.reset
/-- A slot written. -/
def setSlot (s : State) (i : Nat) (x : Slot) : State := { s with slots := aset s.slots i x }

/-- The stream number of a slot's requests among the package's requests. -/
def slotStrm : Nat := 67

/-- A part of a slot's result is answered by the page's owner. -/
def slotWrote (s : State) (q : Req) (ok : Bool) : State :=
  let x := slotOf s q.num
  if x.gen = q.block ∧ x.ending then
    setSlot s q.num (if ok then { x with left := x.left.filter (fun n => n != q.piece) } else { x with broken := true })
  else s

/-- The block that a request serves fails, or the table access (`strm` 64, R158) or relayed atomic (66)
answers with the cause, or a slot's result write fails. -/
def reqFail (s : State) (q : Req) (c : Cause) : State :=
  if q.strm = 64 then { s with tabAns := aset s.tabAns (q.num, q.member) (0, some c) }
  else if q.strm = 66 then amoReply s q.num 0 true (some c)
  else if q.strm = slotStrm then slotWrote s q false
  else blockFail s q.core q.strm q.num q.member q.block c

/-- The requests held for a GPN's owner fail. -/
def heldFail (s : State) (g : Nat) (c : Cause) : State :=
  let mine (q : Req) : Bool := q.gpn == g && q.dst.isNone
  (s.reqs.filter mine).foldl (fun s q => reqFail s q c)
    (setPath { s with reqs := s.reqs.filter (fun q => !mine q) } { pathOf s g with holding := [] })

/-- An owner lookup sent to the home package, which may be this one (R360); a dead path to it fails what waits (R374). -/
def lookupOwner (s : State) (g : Nat) (srcid : BitVec 28) : State :=
  if s.lookups.any (fun l => l.1 == g) then s
  else if s.deadLinks.contains (gpnHome g) then heldFail s g .linkDead
  else sendPkt { s with lookups := s.lookups ++ [(g, now s)] } (mkPkt s (gpnHome g) 0 3 0 srcid .none (leBytes 8 g))

/-- A request sent to its owner (R151): it takes the next id toward that package, with RT clear, also when it was sent before
(log 67); a dead path fails it (R374). -/
def transmitHop (s : State) (q : Req) (owner hops : Nat) : State :=
  if s.deadLinks.contains owner then
    reqFail { s with reqs := s.reqs.filter (fun r => r.uid != q.uid) } q .linkDead
  else
    let (rid, s) := nextRid s owner q.p.srcid
    let p := { q.p with dst := BitVec.ofNat 12 owner, src := BitVec.ofNat 12 s.pkg, rid := BitVec.ofNat 16 rid, rt := 0,
                        hops := BitVec.ofNat 2 hops, born := bornNow s }
    let first := if q.dst.isNone ∧ q.first = 0 then now s else q.first
    let s := sendReq s p
    let s := { s with reqs := s.reqs.map (fun r =>
      if r.uid = q.uid then { r with dst := some owner, rid := rid, p := p, first := first, last := now s } else r) }
    let h := pathOf s q.gpn
    setPath s { h with inFlight := h.inFlight + 1 }

/-- A request sent to its owner, its relay count at zero (R363). -/
def transmit (s : State) (q : Req) (owner : Nat) : State := transmitHop s q owner 0

/-- The held requests sent in order once no request is on the old path (R363), and a pending invalidation acknowledged
(R364). -/
def flushPath (s : State) (g : Nat) : State :=
  let h := pathOf s g
  if h.inFlight ≠ 0 then s
  else
    let s := h.ackTo.foldl (fun s k => sendPkt s (mkPkt s k 1 12 0 0 .none (leBytes 8 g))) s
    match ownerKnown s g with
    | some o =>
      let s := setPath s { h with holding := [], changing := false, ackTo := [] }
      h.holding.foldl (fun s u => match s.reqs.find? (fun r => r.uid == u) with | some q => transmit s q o | none => s) s
    | none =>
      let s := setPath s { h with changing := false, ackTo := [] }
      match h.holding.findSome? (fun u => s.reqs.find? (fun r => r.uid == u)) with
      | some q => lookupOwner s g q.p.srcid
      | none => s

/-- A request of a copy block toward a page's owner: sent at once, or held behind its path (R363). -/
def startReq (s : State) (g : Nat) (p : Packet) (c : CoreId) (strm num member block piece : Nat) : State :=
  let (u, s) := fresh s
  let q : Req := ⟨u, g, p, none, 0, now s, now s, c, strm, num, member, block, piece⟩
  let s := { s with reqs := s.reqs ++ [q] }
  let h := pathOf s g
  if h.changing ∨ h.holding ≠ [] then setPath s { h with holding := h.holding ++ [u] }
  else match ownerKnown s g with
    | some o => transmit s q o
    | none => lookupOwner (setPath s { h with holding := [u] }) g p.srcid

/-- A request answered or given up: the path's count falls, and held requests may go (R363). -/
def endReq (s : State) (q : Req) : State :=
  let s := { s with reqs := s.reqs.filter (fun r => r.uid != q.uid) }
  let h := pathOf s q.gpn
  if h.holding.contains q.uid then setPath s { h with holding := h.holding.filter (fun u => u != q.uid) }
  else flushPath (setPath s { h with inFlight := h.inFlight - 1 }) q.gpn

/-- A number inserted in rising order. -/
def insertUid (l : List Nat) (u : Nat) : List Nat :=
  match l with
  | [] => [u]
  | a :: t => if u < a then u :: a :: t else a :: insertUid t u

/-- A bounced request (R363): the owner is asked again at the home, and the request goes again in its place. -/
def bounceReq (s : State) (q : Req) : State :=
  let s := { s with oc := adel s.oc q.gpn,
                    reqs := s.reqs.map (fun r => if r.uid = q.uid then { r with dst := none } else r) }
  let h := pathOf s q.gpn
  let s := setPath s { h with inFlight := h.inFlight - 1, holding := insertUid h.holding q.uid, changing := true }
  flushPath s q.gpn

/-- The outstanding request that a response answers: its id and its agent, from the package it was sent to, or with RDR from
the owner that served it (R363). -/
def reqOf (s : State) (p : Packet) : Option Req :=
  s.reqs.find? (fun q => q.rid == p.rid.toNat && q.p.srcid == p.srcid && (q.dst == some p.src.toNat || (p.rdr == 1 && q.dst.isSome)))

/-- The redirect of a response enters the owner cache (R363). -/
def redirect (s : State) (g : Nat) (p : Packet) : State :=
  if p.rdr = 1 then
    let s := ocPut s g p.src.toNat
    let h := pathOf s g
    if h.inFlight = 0 then s else setPath s { h with changing := true }
  else s

/-- A copy block's request is outstanding. -/
def reqOut (s : State) (c : CoreId) (strm num member block piece : Nat) : Bool :=
  s.reqs.any (fun q => q.core == c && q.strm == strm && q.num == num && q.member == member && q.block == block && q.piece == piece)

end Sys2Proof.Machine
end

