-- ==== Sys2Proof/Machine/Reduce.lean ====
section
/-! DEFINITION. Where a fabric engine reaches a page (R209, R353, R361), and reduction slots (R382–R385). -/

namespace Sys2Proof.Machine

/-- Why a block does not go on now. -/
inductive PlErr where
  | fail (c : Cause)
  /-- No translation: the page's address, and whether the access is a write. -/
  | absent (va : Word) (w : Bool)
  /-- A miss, a request or a migration must end first. -/
  | wait
deriving DecidableEq, Repr

/-- Where a range of one page lies (R209, R353). -/
inductive Place where
  | here (l : Loc)
  /-- A page-frame address without memory behind it. -/
  | hole (pa : Nat)
  | remote (page gba : Nat)
  | host (a : Nat)
deriving DecidableEq, Repr

/-- The old owner's side of a migration that covers a unit (R362). -/
def migAway (s : State) (u : Nat) : Option Migration :=
  s.migs.find? (fun m => !m.pulling && decide (m.gpn ≤ u) && decide (u < m.gpn + sizeUnits m.size))

/-- The frame of a unit at its owner; while it migrates away, the old frame (R361). -/
def ownFrame (s : State) (u : Nat) : Nat :=
  match migAway s u with
  | some m => m.old + (u - m.gpn) * 65536
  | none => frameOfUnit s u

/-- The access-table bit of an access. -/
def accBit (a : Acc) : Nat := match a with | .load => 0 | .store => 1 | .atomic => 2

/-- The fabric copy engine that the transfer is handed to admits the domain (R209, R388). -/
def fabricAdmits (s : State) (dom : Nat) (a : Acc) : Bool := (accessBits s 5 s.fab dom).getLsbD (accBit a)

/-- A unit of a page of another package's numbering found: here, in another package, or moving (R353, R359, R361). `page` is the
first GPN of the page that the entry maps. -/
def remotePlace (s : State) (dom : Nat) (page u off : Nat) (a : Acc) (side : Cause) : Except PlErr Place :=
  if !fabricAdmits s dom a then .error (.fail side)
  else
    let key := pageKeyOr s u page
    if isOwner s key then
      -- a write or an atomic joins the frozen queue of the page (R146, R361)
      if (migAway s u).isSome ∧ a ≠ .load then .ok (.remote key (u * 65536 + off))
      else
        let pa := ownFrame s u + off
        if !frameExists s pa then (if a = .load then .ok (.hole pa) else .error (.fail side))
        else if homeAdmits s pa dom a then .ok (.here (.mem pa)) else .error (.fail side)
    else .ok (.remote key (u * 65536 + off))

/-- The handle of a slot (R382). -/
def slotHandle (s : State) (i : Nat) (x : Slot) : Word :=
  BitVec.ofNat 64 (s.pkg * 2 ^ 52 + i * 2 ^ 44 + x.gen * 2 ^ 28 + x.dom * 2 ^ 20)

/-- Element bytes of a slot format (R382); 0 for a code it does not list. -/
def slotBytes (fmt : Nat) : Nat := match fmt with | 5 => 4 | 6 => 4 | 7 => 8 | 11 => 2 | 12 => 4 | _ => 0

/-- The reservation descriptor obeys its rules (R382). -/
def slotDescOk (l : List Byte) : Bool :=
  let w0 := wordAt l 0
  let fmt := bitsOf w0 3 5
  let op := bitsOf w0 0 3
  let len := bitsOf w0 8 13
  let eb := slotBytes fmt
  let isF := fmt == 11 || fmt == 12
  let n := bitsOf w0 24 7
  let mlist := wordAt l 1
  let w2 := wordAt l 2
  bitsOf w0 40 24 == 0 && bitsOf w0 31 1 == 0 && bitsOf w0 21 3 == 0 && decide (1 ≤ bitsOf w0 32 8) &&
    decide (1 ≤ n) && decide (n ≤ 64) && eb != 0 && decide (1 ≤ len) && decide (len ≤ 4096) && len % eb == 0 &&
    (if op = 3 ∨ op = 4 then isF else if 5 ≤ op then !isF else true) &&
    mlist.toNat % 8 == 0 && decide (mlist.toNat < 2 ^ 56) &&
    decide (1 ≤ bitsOf w2 0 32) && decide (bitsOf w2 0 32 ≤ 10000000) && bitsOf w2 32 32 == 0 &&
    (wordAt l 3).toNat % 64 == 0 && decide ((wordAt l 3).toNat < 2 ^ 56) &&
    leNat ((l.drop 40).take 24) == 0

/-- The member list obeys its rules: bits [15:12] zero, no duplicates. -/
def mlistOk (m : List Nat) : Bool := m.all (fun x => decide (x < 4096)) && m.dedup.length == m.length

/-- A slot may be reserved: a release takes effect after the contributions of its cycle (R385). -/
def slotIdle (s : State) (x : Slot) : Bool := !x.used && !x.ending && x.freed != s.cycle + 1

/-- A slot reserved from a good descriptor (R382): its handle, or none when no slot is free or RCH is no handle of the domain. -/
def slotReserve (s : State) (dom : Nat) (priv : Priv) (l : List Byte) (members : List Nat) : Option (Word × State) :=
  let w0 := wordAt l 0
  let rch := wordAt l 4
  if !slotDescOk l ∨ !mlistOk members ∨ !handleZeros rch ∨ (rch ≠ 0 ∧ hDom rch ≠ dom) then none
  else match (List.range 256).find? (fun i => slotIdle s (slotOf s i)) with
    | none => none
    | some i =>
      let x := slotOf s i
      let y : Slot := { gen := (x.gen + 1) % 65536, used := true, complete := false, dom := dom, priv := priv,
                        expect := bitsOf w0 32 8, len := bitsOf w0 8 13, fmt := bitsOf w0 3 5, op := bitsOf w0 0 3,
                        timeout := bitsOf (wordAt l 2) 0 32, result := wordAt l 3, rch := rch,
                        members := members.map (fun m => (m, 0)), acc := [], first := 0, last := 0, time := now s, pois := false }
      some (slotHandle s i y, setSlot s i y)

/-- The slot that a handle names, live (R382, R385). -/
def slotFind (s : State) (h : Word) (dom : Nat) : Option (Nat × Slot) :=
  let i := bitsOf h 44 8
  let x := slotOf s i
  if x.used ∧ bitsOf h 28 16 = x.gen ∧ bitsOf h 20 8 = x.dom ∧ x.dom = dom ∧ bitsOf h 0 20 = 0 then some (i, x) else none

/-- The slot that a contribution finds: live, or released in this cycle (R385). Whose strand sends it is not asked. -/
def slotGet (s : State) (h : Word) : Option (Nat × Slot) :=
  let i := bitsOf h 44 8
  let x := slotOf s i
  if (x.used ∨ x.freed = s.cycle + 1) ∧ bitsOf h 28 16 = x.gen ∧ bitsOf h 20 8 = x.dom ∧ bitsOf h 0 20 = 0 then some (i, x) else none

/-- Two elements combined (R383). -/
def slotComb (fmt op a b : Nat) : Nat :=
  let w := 8 * slotBytes fmt
  if fmt = 11 ∨ fmt = 12 then
    let f := if fmt = 11 then fmtBf16 else fmtF32
    match op with
    | 0 => (fadd f .rne a b).1
    | 1 => fminmax f false a b
    | 2 => fminmax f true a b
    | _ =>
      if fdec f a = .nan then (if fdec f b = .nan then fnan f else b)
      else if fdec f b = .nan then a
      else fminmax f (op == 4) a b
  else
    let t := fmt
    match op with
    | 0 => (a + b) % 2 ^ w
    | 1 => intMM false t w a b
    | 2 => intMM true t w a b
    | 5 => a &&& b
    | 6 => a ||| b
    | _ => a ^^^ b

/-- Elements of `n` bytes of a byte list. -/
def elemsOf (n : Nat) (l : List Byte) (fuel : Nat) : List Nat :=
  match fuel with
  | 0 => []
  | k + 1 => if l.isEmpty then [] else leNat (l.take n) :: elemsOf n (l.drop n) k

/-- A contribution has been accepted. -/
def slotAny (x : Slot) : Bool := x.members.any (fun m => m.2 != 0)

/-- The accumulator after a contribution (R383). -/
def slotAcc (x : Slot) (data : List Byte) : List Byte :=
  let n := slotBytes x.fmt
  let ds := elemsOf n data data.length
  if !slotAny x then
    let f := if x.fmt = 11 then fmtBf16 else fmtF32
    ds.flatMap (fun d => leBytes n (if (x.fmt = 11 ∨ x.fmt = 12) ∧ fdec f d = .nan then fnan f else d))
  else (List.zipWith (slotComb x.fmt x.op) (elemsOf n x.acc x.acc.length) ds).flatMap (leBytes n)

/-- Members that made fewer than EXPECT contributions (R384). -/
def slotMissing (x : Slot) : Nat :=
  ofElems 1 (x.members.map (fun m => if m.2 < x.expect then 1 else 0))

/-- A range in parts of at most `n` bytes that end at multiples of `p`. -/
def cutEvery (va : Word) (len n p fuel : Nat) : List (Word × Nat) :=
  match fuel with
  | 0 => []
  | k + 1 =>
    if len = 0 then []
    else
      let m := min len (min n (p - va.toNat % p))
      (va, m) :: cutEvery (va + BitVec.ofNat 64 m) (len - m) n p k

/-- The parts of a slot's result: address, bytes and place in the accumulator. -/
def resultParts (x : Slot) : List (Word × Nat × Nat) :=
  (cutEvery x.result x.len writeMax 65536 5).map (fun p => (p.1, p.2, p.1.toNat - x.result.toNat))

/-- Where a part of a result lies: the fabric copy engine reaches it through the reserving domain's translation, at the privilege
that the slot recorded (R384, R406). -/
def resultPlace (s : State) (x : Slot) (va : Word) : Except PlErr Place :=
  let bad : Except PlErr Place := .error (.fail .copyDestFault)
  match tlbLookup s (elandAgent x.dom (privNum x.priv)) (va.toNat / 65536) with
  | none => bad
  | some (e, _) =>
    if (permFault e (privNum x.priv) .store).isSome then bad
    else if e.loc = 0 then
      let pa := paOf e va
      if fabricAdmits s x.dom .store && frameExists s pa && homeAdmits s pa x.dom .store then .ok (.here (.mem pa)) else bad
    else if e.loc = 1 then
      remotePlace s x.dom e.gpn (e.gpn + (va.toNat / 65536 - e.vpage)) (va.toNat % 65536) .store .copyDestFault
    else if fabricAdmits s x.dom .store then .ok (.host (paOf e va)) else bad

/-- A part of a slot's result written, where its page can be reached now: the parts left, and whether it failed. -/
def writePart (s : State) (i : Nat) (x : Slot) (n : Nat) (p : Word × Nat × Nat) : List Nat × Bool × State :=
  let d := (x.acc.drop p.2.2).take p.2.1
  match resultPlace s x p.1 with
  | .error .wait => ([n], false, s)
  | .error _ => ([], true, s)
  | .ok (.here l) => ([], false, landAll s x.dom (fabricSid s s.fab x.dom) p.1 l (d.map (fun b => (b, x.pois))))
  | .ok (.hole _) => ([], true, s)
  | .ok (.host a) => ([], false, { s with hostMem := memStore s.hostMem a d })
  | .ok (.remote page gba) =>
    if s.reqs.any (fun r => r.strm == slotStrm && r.num == i && r.piece == n) then ([n], false, s)
    else
      let y := partsOf gba true (d.map (fun b => (b, x.pois))) 2
      let k := mkPkt s 0 0 1 0 (srcidOf (fabricSid s s.fab x.dom)) .none (y.map (fun b => b.1))
      ([n], false, startReq s page (poisPkt k y) duikerId slotStrm i 0 x.gen n)

/-- The parts of a result that are still to be written. -/
def writeParts (s : State) (i : Nat) (x : Slot) (l : List Nat) : List Nat × Bool × State :=
  match l with
  | [] => ([], false, s)
  | n :: t =>
    match (resultParts x)[n]? with
    | none => writeParts s i x t
    | some p =>
      match writePart s i x n p with
      | (_, true, s) => ([], true, s)
      | (left, false, s) =>
        let (m, f, s) := writeParts s i x t
        (if f then [] else left ++ m, f, s)

/-- The slot's message on RCH (R384), a release of the result write. -/
def slotMessage (s : State) (i : Nat) (x : Slot) : State :=
  let s := setSlot s i { x with ending := false, left := [] }
  if x.rch = 0 then s
  else
    let m : Msg := ⟨payload4 (BitVec.ofNat 64 ((slotHandle s i x).toNat / 128 * 128 + (if x.late then causeCode .reductionTimeout else 0)))
        (BitVec.ofNat 64 (slotMissing x)) (BitVec.ofNat 64 x.first) (BitVec.ofNat 64 x.last), x.closed, fabricSid s s.fab x.dom, x.rch, false, 0, false⟩
    postDev s 0 m x.dom false 0 duikerId

/-- A completing slot goes on (R384): its result is written, a failure reported once, and its message follows. -/
def slotGoOn (s : State) (i : Nat) (x : Slot) : State :=
  let (left, f, s) := if x.broken then ([], true, s) else writeParts s i x x.left
  if f then
    let s := s.reqs.foldl (fun s r => if r.strm = slotStrm ∧ r.num = i then endReq s r else s) s
    slotMessage (reportWith s x.dom .copyDestFault ⟨0, now s, fabricSid s s.fab x.dom, 0, false, 0, false⟩ (slotHandle s i x) (some 0) true) i x
  else if left = [] then slotMessage s i x
  else setSlot s i { x with left := left }

/-- A slot completes (R384): the result write, then the result message. -/
def slotComplete (s : State) (i : Nat) (timedOut : Bool) : State :=
  let x := slotOf s i
  let parts := if x.result = 0 ∨ !slotAny x then [] else rangeFrom 0 (resultParts x).length
  slotGoOn s i { x with complete := true, late := timedOut, closed := now s, ending := true, left := parts, broken := false }

/-- A contribution that reaches a slot (R383): accepted and combined, or refused. -/
def slotContrib (s : State) (src : Nat) (h : Word) (data : List Byte) (n : Nat) (pois : Bool) : Bool × State :=
  match slotGet s h with
  | none => (false, s)
  | some (i, x) =>
    let room := x.members.any (fun m => m.1 == src && decide (m.2 < x.expect))
    if x.complete ∨ n ≠ x.len ∨ !room ∨ x.time + 1000 * x.timeout ≤ now s then (false, s)
    else
      let t := now s
      let y := { x with acc := slotAcc x (data.take n), pois := x.pois || pois,
                        first := if slotAny x then x.first else t, last := t,
                        members := x.members.map (fun m => if m.1 = src then (m.1, m.2 + 1) else m) }
      let s := setSlot s i y
      (true, if slotMissing y = 0 then slotComplete s i false else s)

/-- A slot released (R385); a completion that is under way still ends (R384). -/
def slotRelease (s : State) (h : Word) (dom : Nat) : Bool × State :=
  match slotFind s h dom with
  | none => (false, s)
  | some (i, x) => (true, setSlot s i { x with used := false, freed := s.cycle + 1 })

/-- REDUCTION_TIMEOUT (R384); a completed slot goes on with its result. -/
def execReductionTimeout (i : Nat) (s : State) : Out :=
  let x := slotOf s i
  if x.used ∧ !x.complete ∧ x.time + 1000 * x.timeout ≤ now s then .next (slotComplete s i true)
  else if x.ending then .next (slotGoOn s i x)
  else .next s

end Sys2Proof.Machine
end

