-- ==== Sys2Proof/Machine/Copy.lean ====
section
/-! DEFINITION. The COPY family at issue (R209–R211, R215, R217, R225–R234). -/

namespace Sys2Proof.Machine

/-- Doublewords of a structure read as doubleword loads (R133, R180, R226): a poisoned one is used, so it raises
`poison-consumed` naming a memory word. -/
def descLoad (s : State) (x : Ctx) (va : Word) (n : Nat) : Except Stop (List Word × State) :=
  match n with
  | 0 => .ok ([], s)
  | k + 1 => do
    let (l, s) ← locate s x.r x.t va 8 8 .load
    if ownAtomic s x.t.uid s.uid l 8 || openerOn x.t l 8 then throw (.wait .writes)
    if loadDenied s x.r.core x.t.dom 0 l then throw (.trap .accessTableDenied 0 va)
    let (bs, p, e, s) := readLoc s x.r.core x.t.uid s.uid 0 l 8
    if p || e.isSome then throw (.trap .poisonConsumed 0x40#64 va)
    let (t, s) ← descLoad s x (va + 8#64) k
    pure (leWord bs :: t, s)

/-- A command whose fields hold nothing. -/
def Copy.blank (w : Issuer) : Copy :=
  { strm := 0, num := 0, fn := 0, tag := none, recAddr := 0, fence := false, engine := 0, a := 0, b := 0, c := 0, w := 0, h := 1,
    pl := 1, srs := 0, drs := 0, sps := 0, dps := 0, members := [], kind := 0, op := 0, wide := false, payload := 0, who := w,
    issue := 0, start := 0, bytes := 0, done := [], fails := [], paused := none, cancelled := false, result := 0, got := [] }

/-- The command names a completion record (R217). -/
def copyRec (x : CopyAttr) : Bool := x.e != 0

/-- The address lies in the scratchpad window, a cluster slot or the global window (R217, R229). -/
def recWindow (c : CoreId) (va : Word) : Bool := windowOf c va != .unmapped

/-- The record address obeys R217. -/
def recOk (x : Ctx) (at_ : CopyAttr) : Bool :=
  !copyRec at_ || ((rd x.t.r at_.e).toNat % 64 == 0 && recWindow x.r.core (rd x.t.r at_.e))

/-- The address lies in the scratchpad window or a cluster slot. -/
def isSpadWindow (c : CoreId) (va : Word) : Bool := match windowOf c va with | .spad _ _ _ => true | _ => false

/-- Largest length (R228). -/
def copyMax : Nat := 2 ^ 36

/-- A range of `n` bytes from an address, at issue (R226 item 6); an empty one must still be aligned. -/
def copyRange (s : State) (x : Ctx) (va : Word) (n al : Nat) : Except Stop Unit :=
  match windowOf x.r.core va with
    | .unmapped => if n = 0 then pure () else throw (.trap .windowUnmapped 0 va)
    | .global =>
      if va.toNat % al ≠ 0 then throw (.trap .misaligned 0 va)
      else if windowRoom x.r.core va < n then throw (.trap .windowCrossing 0 va) else pure ()
    | .spad c own off =>
      if va.toNat % al ≠ 0 then throw (.trap .misaligned 0 va)
      else if n = 0 then pure ()
      else if windowRoom x.r.core va < n then throw (.trap .windowCrossing 0 va)
      else match spadFault s x.t.dom c own off n with
        | some f => throw (.trap f 0 va)
        | none => pure ()

/-- Several ranges in turn. -/
def copyRanges (s : State) (x : Ctx) (l : List (Word × Nat × Nat)) : Except Stop Unit :=
  match l with
  | [] => pure ()
  | (va, n, al) :: t => do copyRange s x va n al; copyRanges s x t

/-- Lowest displacement of a walk with signed strides, and bytes from there to its end. -/
def walkExtent (w h pl : Nat) (rs ps : Word) : Int × Nat :=
  let r := rs.toInt * Int.ofNat (h - 1)
  let p := ps.toInt * Int.ofNat (pl - 1)
  let lo := min r 0 + min p 0
  let hi := max r 0 + max p 0
  (lo, (hi - lo).toNat + w)

/-- The range that a walk covers from a base. -/
def walkRange (base : Word) (w h pl : Nat) (rs ps : Word) : Word × Nat × Nat :=
  let (lo, n) := walkExtent w h pl rs ps
  (base + BitVec.ofInt 64 lo, n, 1)

/-- The rows of a walk, in order: source, destination, length (R228). -/
def copyRows (q : Copy) (dst : Word) : List (Word × Word × Nat) :=
  (List.range q.pl).flatMap (fun p => (List.range q.h).map (fun r =>
    let (p, r) := (BitVec.ofNat 64 p, BitVec.ofNat 64 r)
    (q.a + p * q.sps + r * q.srs, dst + p * q.dps + r * q.drs, q.w)))

/-- A row cut at the 4 KiB boundaries of its destination and of its source. -/
def cutRow (src dst : Word) (n fuel : Nat) : List (Word × Word × Nat) :=
  match fuel with
  | 0 => []
  | k + 1 =>
    if n = 0 then []
    else
      let m := min n (min (4096 - src.toNat % 4096) (4096 - dst.toNat % 4096))
      (src, dst, m) :: cutRow (src + BitVec.ofNat 64 m) (dst + BitVec.ofNat 64 m) (n - m) k

/-- Pieces in walk order gathered into blocks: a block ends where the destination leaves its 4 KiB page (R212). -/
def groupRuns (l : List (Word × Word × Nat)) : List (List (Word × Word × Nat)) :=
  match l with
  | [] => []
  | p :: t =>
    match groupRuns t with
    | (g :: gs) :: r => if p.2.1.toNat / 4096 = g.2.1.toNat / 4096 then (p :: g :: gs) :: r else [p] :: (g :: gs) :: r
    | r => [p] :: r

/-- Members of a command: 1 but for `cpm`. -/
def copyMembers (q : Copy) : Nat := if q.fn = 3 then q.members.length else 1

/-- The command has exactly one block, block 0 (R212), whatever its range. -/
def copySingle (q : Copy) : Bool := q.fn == 6 || q.fn == 9 || (q.fn == 4 && q.kind != 0)

/-- The blocks of a member, as pieces (R212). -/
def copyBlocks (q : Copy) (m : Nat) : List (List (Word × Word × Nat)) :=
  if copySingle q then [[]]
  else
    let dst := if q.fn = 3 then (q.members[m]?).getD 0 else q.b
    groupRuns ((copyRows q dst).flatMap (fun r => cutRow (if q.fn = 5 then r.2.1 else r.1) r.2.1 r.2.2 (r.2.2 / 2048 + 3)))

/-- Bytes of a block. -/
def runLen (l : List (Word × Word × Nat)) : Nat := l.foldl (fun n p => n + p.2.2) 0

/-- The block is done or failed. -/
def blockOver (q : Copy) (m b : Nat) : Bool := q.done.contains (m, b) || q.fails.any (fun f => f.1 == m && f.2.1 == b)

/-- `cpat` and kind 0 of `cpred` carry out atomics (R231, R154). -/
def copyAtomic (q : Copy) : Bool := q.fn == 9 || (q.fn == 4 && q.kind == 0)

/-- Bytes of a command that no block has yet carried. -/
def copyLeft (q : Copy) : Nat :=
  (List.range (copyMembers q)).foldl (fun n m =>
    (copyBlocks q m).zipIdx.foldl (fun n p => if blockOver q m p.2 then n else n + runLen p.1) n) 0

/-- Bytes queued on an engine of a cluster (R209). -/
def engQueued (s : State) (die clus e : Nat) : Nat :=
  s.cores.foldl (fun n c =>
    if c.1.kind = .compute ∧ c.1.die = die ∧ c.1.clus = clus then
      (c.2.copies.filter (fun q => q.engine == e)).foldl (fun n q => n + copyLeft q) n
    else n) 0

/-- A command posted on its stream (R209–R211, R215, R226 items 5 and 6, R227); `ranges` are checked on their whole
extents, the record's last. -/
def copyPost (s : State) (x : Ctx) (d : BitVec 5) (at_ : CopyAttr) (fn : Nat) (ranges : List (Word × Nat × Nat))
    (cmd : Copy) : Except Stop (State × Next) := do
  let k := getCore s x.r.core
  let tg := at_.tag.toNat
  orTrap (!(at_.tge == 1 && (k.tagA ||| k.tagR).getLsbD tg)) .tagInUse
  copyRanges s x (ranges ++ (if copyRec at_ then [(rd x.t.r at_.e, 128, 64)] else []))
  let strm := at_.strm.toNat
  if 64 ≤ (k.copies.filter (fun q => q.strm == strm)).length then throw (.wait (.queue strm))
  let who := issuerOf s x
  let (_, s) := fresh s
  let (n, s) := tlPost s x.r.core strm
  let e := if engQueued s x.r.core.die x.r.core.clus 0 ≤ engQueued s x.r.core.die x.r.core.clus 1 then 0 else 1
  let cmd := { cmd with strm := strm, num := n, fn := fn, tag := if at_.tge = 1 then some tg else none,
                        recAddr := if copyRec at_ then rd x.t.r at_.e else 0, hasRec := copyRec at_, fence := at_.fence == 1, engine := e,
                        who := who, issue := now s }
  let armed := if at_.tge = 1 then k.tagA ||| (1#64 <<< tg) else k.tagA
  let s := updCore s x.r.core (fun k => { k with copies := k.copies ++ [cmd], tagA := armed })
  pure (putRegs s x (wr x.t.r d (BitVec.ofNat 64 n) false), .seq)

/-- A numbered form: the poison check of R226 item 1, then its own. -/
def copyForm (i : Instr) (regs : List (BitVec 5)) (s : State) (f : State → Ctx → Except Stop (State × Next)) : Out :=
  issue i s (fun s x => do needCleanAll x.t.r regs; f s x)

/-- R228. -/
def execCp (d a b c : BitVec 5) (x : CopyAttr) (s : State) : Out :=
  copyForm (.cp d a b c x) [a, b, c, x.e] s (fun s k => do
    let (va, vb, n) := (rd k.t.r a, rd k.t.r b, (rd k.t.r c).toNat)
    orTrap (decide (n ≤ copyMax) && recOk k x) .copyCommandInvalid
    copyPost s k d x 0 [(va, n, 1), (vb, n, 1)] { Copy.blank (issuerOf s k) with a := va, b := vb, c := rd k.t.r c, w := n })

/-- R228. -/
def execCpfill (d a b c : BitVec 5) (x : CopyAttr) (s : State) : Out :=
  copyForm (.cpfill d a b c x) [a, b, c, x.e] s (fun s k => do
    let (va, vb, n) := (rd k.t.r a, rd k.t.r b, (rd k.t.r c).toNat)
    orTrap (decide (n ≤ copyMax) && recOk k x) .copyCommandInvalid
    copyPost s k d x 5 [(vb, n, 1)] { Copy.blank (issuerOf s k) with a := va, b := vb, c := rd k.t.r c, w := n })

/-- The shape descriptor of `cp2d` (`three` false) and `cp3d` obeys its limits (R228). -/
def shapeOk (three : Bool) (l : List Word) : Bool :=
  let g (i : Nat) : Word := (l[i]?).getD 0
  let w := bitsOf (g 0) 0 32
  let h := bitsOf (g 0) 32 32
  let pl := bitsOf (g 1) 0 32
  decide (1 ≤ w) && decide (1 ≤ h) && bitsOf (g 1) 32 32 == 0 && g 6 == 0 && g 7 == 0 &&
    (if three then decide (1 ≤ pl) else pl == 0 && g 4 == 0 && g 5 == 0) &&
    decide (w * h * (if pl = 0 then 1 else pl) ≤ copyMax)

/-- `cp2d` and `cp3d` (R228). -/
def copyShaped (i : Instr) (three : Bool) (fn : Nat) (d a b c : BitVec 5) (x : CopyAttr) (s : State) : Out :=
  copyForm i [a, b, c, x.e] s (fun s k => do
    let (va, vb) := (rd k.t.r a, rd k.t.r b)
    let (l, s) ← descLoad s k (rd k.t.r c) 8
    orTrap (shapeOk three l && recOk k x) .copyCommandInvalid
    let g (i : Nat) : Word := (l[i]?).getD 0
    let w := bitsOf (g 0) 0 32
    let h := bitsOf (g 0) 32 32
    let pl := if three then bitsOf (g 1) 0 32 else 1
    copyPost s k d x fn [walkRange va w h pl (g 2) (g 4), walkRange vb w h pl (g 3) (g 5)]
      { Copy.blank (issuerOf s k) with a := va, b := vb, c := rd k.t.r c, w := w, h := h, pl := pl, srs := g 2, drs := g 3,
                                       sps := g 4, dps := g 5 })

/-- R228. -/
def execCp2d (d a b c : BitVec 5) (x : CopyAttr) (s : State) : Out := copyShaped (.cp2d d a b c x) false 1 d a b c x s
/-- R228. -/
def execCp3d (d a b c : BitVec 5) (x : CopyAttr) (s : State) : Out := copyShaped (.cp3d d a b c x) true 2 d a b c x s

/-- A member address of `cpm`: in the global window or a cluster slot. -/
def memberOk (c : CoreId) (va : Word) : Bool :=
  match windowOf c va with | .global => true | .spad _ own _ => !own | .unmapped => false

/-- R229. -/
def execCpm (d a b c : BitVec 5) (x : CopyAttr) (nm : BitVec 4) (s : State) : Out :=
  copyForm (.cpm d a b c x nm) [a, b, c, x.e] s (fun s k => do
    let (va, n) := (rd k.t.r a, (rd k.t.r c).toNat)
    let (l, s) ← descLoad s k (rd k.t.r b) (nm.toNat + 1)
    orTrap (decide (n ≤ copyMax) && l.all (memberOk k.r.core) && recOk k x) .copyCommandInvalid
    copyPost s k d x 3 ((va, n, 1) :: l.map (fun m => (m, n, 1)))
      { Copy.blank (issuerOf s k) with a := va, b := rd k.t.r b, c := rd k.t.r c, w := n, members := l })

/-- Operations of `cpred` (R230). -/
def redOp (op : Nat) : Bool := decide (op ≤ 7) || op == 10 || op == 11 || op == 12
/-- Float operations of the AMO table. -/
def floatOp (op : Nat) : Bool := op == 10 || op == 11 || op == 12

/-- R230, kind 0. -/
def execCpredK0 (d a b c : BitVec 5) (x : CopyAttr) (op : BitVec 4) (size : BitVec 1) (s : State) : Out :=
  copyForm (.cpredK0 d a b c x op size) [a, b, c, x.e] s (fun s k => do
    let (va, vb, n) := (rd k.t.r a, rd k.t.r b, (rd k.t.r c).toNat)
    let es := if size = 1 then 8 else 4
    orTrap (redOp op.toNat && n % es == 0 && (isSpadWindow k.r.core vb || vb.toNat % es == 0) && recOk k x) .copyCommandInvalid
    if floatOp op.toNat ∧ size = 1 then throw (.trap .atomicNotSupported 0 vb)
    copyPost s k d x 4 [(va, n, 1), (vb, n, es)]
      { Copy.blank (issuerOf s k) with a := va, b := vb, c := rd k.t.r c, w := n, kind := 0, op := op.toNat, wide := size == 1 })

/-- R230, kind 1. A descriptor in a scratchpad must be aligned (R226 item 6, R382); one in the global window is refused by the
engine (R382). -/
def execCpredK1 (d a : BitVec 5) (x : CopyAttr) (op : BitVec 4) (size : BitVec 1) (s : State) : Out :=
  copyForm (.cpredK1 d a x op size) [a, x.e] s (fun s k => do
    orTrap (op == 0 && size == 0 && recOk k x) .copyCommandInvalid
    copyPost s k d x 4 [(rd k.t.r a, 64, if isSpadWindow k.r.core (rd k.t.r a) then 8 else 1)] { Copy.blank (issuerOf s k) with a := rd k.t.r a, kind := 1 })

/-- R230, kind 2. -/
def execCpredK2 (d a b c : BitVec 5) (x : CopyAttr) (op : BitVec 4) (size : BitVec 1) (s : State) : Out :=
  copyForm (.cpredK2 d a b c x op size) [a, b, c, x.e] s (fun s k => do
    let n := (rd k.t.r c).toNat
    orTrap (op == 0 && size == 0 && recOk k x) .copyCommandInvalid
    copyPost s k d x 4 [(rd k.t.r a, n, 1)]
      { Copy.blank (issuerOf s k) with a := rd k.t.r a, b := rd k.t.r b, c := rd k.t.r c, w := n, kind := 2 })

/-- R230, kind 3. -/
def execCpredK3 (d b : BitVec 5) (x : CopyAttr) (op : BitVec 4) (size : BitVec 1) (s : State) : Out :=
  copyForm (.cpredK3 d b x op size) [b, x.e] s (fun s k => do
    orTrap (op == 0 && size == 0 && recOk k x) .copyCommandInvalid
    copyPost s k d x 4 [] { Copy.blank (issuerOf s k) with b := rd k.t.r b, kind := 3 })

/-- R231. -/
def execCpat (d a b c : BitVec 5) (x : CopyAttr) (afn : BitVec 4) (size : BitVec 1) (s : State) : Out :=
  copyForm (.cpat d a b c x afn size) [a, b, c, x.e] s (fun s k => do
    let va := rd k.t.r a
    let es := if size = 1 then 8 else 4
    orTrap (!isSpadWindow k.r.core va && recOk k x) .copyCommandInvalid
    if floatOp afn.toNat ∧ size = 1 then throw (.trap .atomicNotSupported 0 va)
    copyPost s k d x 9 [(va, es, es)]
      { Copy.blank (issuerOf s k) with a := va, b := rd k.t.r b, c := rd k.t.r c, w := es, op := afn.toNat, wide := size == 1 })

/-- R232. -/
def execCpsigIrq (d a : BitVec 5) (x : CopyAttr) (s : State) : Out :=
  copyForm (.cpsigIrq d a x) [a, x.e] s (fun s k => do
    orTrap (decide ((rd k.t.r a).toNat < 2048) && recOk k x) .copyCommandInvalid
    copyPost s k d x 6 [] { Copy.blank (issuerOf s k) with a := rd k.t.r a, kind := 0 })

/-- The payload registers of a message: sB to s(B+3), or zeros when B is 0 (R181). -/
def payloadRegs (r : Regs) (b : BitVec 5) : BitVec 256 :=
  if b = 0 then 0 else payload4 (rd r b) (rd r (b + 1)) (rd r (b + 2)) (rd r (b + 3))

/-- R232. The handle is not examined at issue: the message is placed and reported under R159 to R166; B of 29 to 31 is reserved as in
`send` (R181, log 44 DEDUCED). -/
def execCpsigMsg (d a b : BitVec 5) (x : CopyAttr) (s : State) : Out :=
  copyForm (.cpsigMsg d a b x) (a :: x.e :: (if b = 0 then [] else [b, b + 1, b + 2, b + 3])) s (fun s k => do
    orTrap (recOk k x) .copyCommandInvalid
    copyPost s k d x 6 [] { Copy.blank (issuerOf s k) with a := rd k.t.r a, kind := 1, payload := payloadRegs k.t.r b })

/-- R233. -/
def execCpcan (d a : BitVec 5) (strm : BitVec 2) (s : State) : Out :=
  copyForm (.cpcan d a strm) [a] s (fun s k =>
    let hit (q : Copy) : Bool := q.strm == strm.toNat && decide ((rd k.t.r a).toNat ≤ q.num)
    let n := ((getCore s k.r.core).copies.filter hit).length
    let s := updCore s k.r.core (fun c => { c with copies := c.copies.map (fun q => if hit q then { q with cancelled := true } else q) })
    .ok (putRegs s k (wr k.t.r d (BitVec.ofNat 64 n) false), .seq))

/-- R234. -/
def execCpq (d : BitVec 5) (strm : BitVec 2) (s : State) : Out :=
  copyForm (.cpq d strm) [] s (fun s k =>
    .ok (putRegs s k (wr k.t.r d (BitVec.ofNat 64 (tlOf (getCore s k.r.core) strm.toNat).posted) false), .seq))

end Sys2Proof.Machine
end

