-- ==== Sys2Proof/Machine/CopyEng.lean ====
section
/-! DEFINITION. The copy engines at work: blocks (R211, R212, R218, R220, R228–R231), signals (R232), completion and its
record and report (R214, R217, R219), and the fault of a paused command (R220, R356). -/

namespace Sys2Proof.Machine

/-- A command changed where it stands. -/
def updCopy (s : State) (c : CoreId) (strm num : Nat) (f : Copy → Copy) : State :=
  updCore s c (fun k => { k with copies := k.copies.map (fun p => if p.strm = strm ∧ p.num = num then f p else p) })

/-- The place of `n` bytes within one page of a command's range (R209, R218, R353, R388). `side` is the cause of a
denial. -/
def copyPlace (s : State) (core : CoreId) (q : Copy) (va : Word) (n : Nat) (a : Acc) (side : Cause) :
    Except (PlErr × State) (Place × State) :=
  if !(accessBits s 4 (core.die * 20 + core.clus * 2 + q.engine) q.who.dom).getLsbD (accBit a) then .error (.fail side, s)
  else match windowOf core va with
    | .unmapped => .error (.fail side, s)
    | .spad c own off =>
      if (spadFault s q.who.dom c own off n).isSome then .error (.fail side, s) else .ok (.here (.spad c off), s)
    | .global =>
      let vu := va.toNat / 65536
      let w := a != .load
      match tlbLookup s ⟨core, some q.engine, false, q.who.dom, privNum q.who.priv⟩ vu with
      | none =>
        let key := pauseKey s core q
        (match takeAbsent s core.die core.clus q.who.dom vu key with
         | some s => .error (.absent va w, s)
         | none =>
           match startMiss s core.die core.clus q.who.dom (engineSid s core q.engine q.who.dom) va (if w then 5 else 4) (some key) with
           | (none, s) => .error (.absent va w, s)
           | (some _, s) => .error (.wait, s))
      | some (e, s) =>
        if (permFault e (privNum q.who.priv) a).isSome then .error (.fail side, s)
        else if e.loc = 0 then
          let pa := paOf e va
          if !frameExists s pa then (if a = .load then .ok (.hole pa, s) else .error (.fail side, s))
          else if homeAdmits s pa q.who.dom a then .ok (.here (.mem pa), s) else .error (.fail side, s)
        else if e.loc = 1 then
          (match remotePlace s q.who.dom e.gpn (e.gpn + (vu - e.vpage)) (va.toNat % 65536) a side with
           | .ok p => .ok (p, s)
           | .error e => .error (e, s))
        else if fabricAdmits s q.who.dom a then .ok (.host (paOf e va), s) else .error (.fail side, s)

/-- Bytes read at a place in the package with their poison, and which of them lie in lines that met a data error (R134, R135, R228). -/
def pullBytes (s : State) (l : Loc) (n fuel : Nat) : List (Byte × Bool) × List Nat × State :=
  match fuel with
  | 0 => ([], [], s)
  | k + 1 =>
    if n = 0 then ([], [], s)
    else
      let off := blockOff l
      let m := min n (64 - off)
      let (b, e, s) := match l with
        | .mem a => homeRead s (a / 64)
        | .spad c o => spadRead s c o m
      let here := (rangeFrom off m).map (fun i => ((b.bytes[i]?).getD 0, b.pois.getLsbD (i / 8)))
      let (t, bad, s) := pullBytes s (locAdd l m) (n - m) k
      (here ++ t, (if e.isSome then rangeFrom 0 m else []) ++ bad.map (fun i => i + m), s)

/-- The answer that a piece of a block has received. -/
def gotOf (q : Copy) (m b piece : Nat) : Option Got :=
  q.got.find? (fun g => g.member == m && g.block == b && g.piece == piece)

/-- An answer noted. -/
def putGot (s : State) (c : CoreId) (strm num : Nat) (g : Got) : State :=
  updCopy s c strm num (fun q => { q with got := q.got ++ [g] })

/-- The command's agent in packets (R151): a fabric copy engine for the issuing domain. -/
def copySrc (s : State) (q : Copy) : BitVec 28 := srcidOf (fabricSid s s.fab q.who.dom)

/-- A request sent for a piece, unless it is out; the block waits. -/
def askFor (s : State) (c : CoreId) (q : Copy) (m b piece page type : Nat) (payload : List Byte) (bad : List Nat) : PlErr × State :=
  if reqOut s c q.strm q.num m b piece then (.wait, s)
  else
    let p := { mkPkt s 0 0 type 0 (copySrc s q) .none payload with badLines := bad }
    (.wait, startReq s page p c q.strm q.num m b piece)

/-- Bytes read for a block, with their poison, and which of them lie in lines that met an error. -/
abbrev Pulled := Except (PlErr × State) (List (Byte × Bool) × List Nat × State)

/-- `n` bytes of a command's source within one page; an answer from another package is kept under a member, block and piece.
A frame without memory reads as an error does: poisoned (R134, R135, R218). -/
def readPiece (s : State) (c : CoreId) (q : Copy) (m b piece : Nat) (va : Word) (n : Nat) : Pulled :=
  match copyPlace s c q va n .load .copySourceFault with
  | .error e => .error e
  | .ok (.here l, s) => .ok (pullBytes s l n (n / 64 + 2))
  | .ok (.hole pa, s) => .ok ((memBytes s.mem pa n).map (fun x => (x, true)), rangeFrom 0 n, logEvent s (engineSid s c q.engine q.who.dom) .uncorrectableData pa)
  | .ok (.host a, s) => .ok ((memBytes s.hostMem a n).map (fun x => (x, false)), [], s)
  | .ok (.remote page gba, s) =>
    match gotOf q m b piece with
    | some g =>
      -- an answer that reports an error does not say in which of its poisoned lines it was (log 45)
      let hit := (g.bytes.take n).zipIdx.filterMap (fun x => if x.1.2 then some x.2 else none)
      .ok (g.bytes.take n, if (gotOf q m b (piece + 100000)).isSome then (if hit.isEmpty then rangeFrom 0 n else hit) else [], s)
    | none => .error (askFor s c q m b piece page 0 (reqPayload gba n 0 false 0 0 []) [])

/-- The member under which the shared source of a `cpm` is read (R229). -/
def srcMember : Nat := 98

/-- `n` bytes of the source of a `cpm`, within one 4 KiB page: the part of the source in that page is read once (R229). -/
def readShared (s : State) (c : CoreId) (q : Copy) (va : Word) (n : Nat) : Pulled :=
  let pg := va.toNat / 4096
  let lo := max q.a.toNat (pg * 4096)
  let cut (d : List (Byte × Bool)) : List (Byte × Bool) := (d.drop (va.toNat - lo)).take n
  let mine (l : List Nat) : List Nat := l.filter (fun i => decide (va.toNat - lo ≤ i) && decide (i < va.toNat - lo + n))
  match aget q.src pg with
  | some (d, bad) => .ok (cut d, mine bad, s)
  | none =>
    match q.fails.find? (fun f => f.1 == srcMember && f.2.1 == pg) with
    | some f => .error (.fail f.2.2, s)
    | none =>
      match readPiece s c q srcMember pg 0 (BitVec.ofNat 64 lo) (min (q.a.toNat + q.w) (pg * 4096 + 4096) - lo) with
      | .error e => .error e
      | .ok (d, bad, s) => .ok (cut d, mine bad, updCopy s c q.strm q.num (fun q => { q with src := aset q.src pg (d, bad) }))

/-- The source bytes of a block, piece by piece; pieces have even numbers. -/
def gather (s : State) (c : CoreId) (q : Copy) (m b i : Nat) (l : List (Word × Word × Nat)) : Pulled :=
  match l with
  | [] => .ok ([], [], s)
  | (va, _, n) :: t =>
    match (if q.fn = 3 then readShared s c q va n else readPiece s c q m b (2 * i) va n) with
    | .error e => .error e
    | .ok (d, bad, s) =>
      match gather s c q m b (i + 1) t with
      | .error e => .error e
      | .ok (ds, bad', s) => .ok (d ++ ds, bad ++ bad', s)

/-- Destination ranges joined where one continues another. -/
def joinRuns (l : List (Word × Nat)) : List (Word × Nat) :=
  match l with
  | [] => []
  | p :: t =>
    match joinRuns t with
    | g :: r => if p.1 + BitVec.ofNat 64 p.2 = g.1 then (p.1, p.2 + g.2) :: r else p :: g :: r
    | [] => [p]

/-- Ranges joined in groups of one 64 KiB unit. -/
def unitRuns (l : List (Word × Nat)) : List (List (Word × Nat)) :=
  match l with
  | [] => []
  | p :: t =>
    match unitRuns t with
    | (g :: gs) :: r => if p.1.toNat / 65536 = g.1.toNat / 65536 then (p :: g :: gs) :: r else [p] :: (g :: gs) :: r
    | r => [p] :: r

/-- The places of destination ranges; the first that cannot be written stops them all, before any is (R218). -/
def placeRuns (s : State) (c : CoreId) (q : Copy) (l : List (Word × Nat)) : Except (PlErr × State) (List Place × State) :=
  match l with
  | [] => .ok ([], s)
  | (va, n) :: t =>
    match copyPlace s c q va n .store .copyDestFault with
    | .error e => .error e
    | .ok (.hole _, s) => .error (.fail .copyDestFault, s)
    | .ok (pl, s) =>
      match placeRuns s c q t with
      | .error e => .error e
      | .ok (ps, s) => .ok (pl :: ps, s)

/-- Bytes written where their ranges lie; for another package, the parts of a request instead, with its page. -/
def putRuns (s : State) (dom : Nat) (sid : Word) (l : List Place) (ns : List (Word × Nat)) (d : List (Byte × Bool)) : State × Option Nat × List (Byte × Bool) :=
  match l, ns with
  | pl :: t, (va, n) :: ns =>
    let x := d.take n
    (match pl with
     | .here a => putRuns (landAll s dom sid va a x) dom sid t ns (d.drop n)
     | .hole _ => putRuns s dom sid t ns (d.drop n)
     | .host a => putRuns { s with hostMem := memStore s.hostMem a (x.map (fun b => b.1)) } dom sid t ns (d.drop n)
     | .remote page gba =>
       let (s, _, m) := putRuns s dom sid t ns (d.drop n)
       (s, some page, partsOf gba true x 2 ++ m))
  | _, _ => (s, none, [])

/-- Destination bytes written, one 64 KiB unit after another: all the ranges of one, or none (R218). Groups have odd numbers, and
one once written is not written again; in another package a group is one WRITE, in parts where it needs them (log 74). -/
def scatter (s : State) (c : CoreId) (q : Copy) (m b i : Nat) (l : List (List (Word × Nat))) (d : List (Byte × Bool)) :
    Except (PlErr × State) State :=
  match l with
  | [] => .ok s
  | g :: t =>
    let n := g.foldl (fun n r => n + r.2) 0
    if (gotOf q m b (2 * i + 1)).isSome then scatter s c q m b (i + 1) t (d.drop n)
    else match placeRuns s c q g with
      | .error e => .error e
      | .ok (ps, s) =>
        match putRuns s q.who.dom (engineSid s c q.engine q.who.dom) ps g (d.take n) with
        | (s, none, _) => scatter (putGot s c q.strm q.num ⟨m, b, 2 * i + 1, false, []⟩) c q m b (i + 1) t (d.drop n)
        | (s, some page, x) => .error (askFor s c q m b (2 * i + 1) page 1 (x.map (fun b => b.1)) (poisLines x))

/-- A block carried out: its bytes count; with `bad` it counts as failed (R218). -/
def blockDone (s : State) (c : CoreId) (strm num m b n : Nat) (bad : Option Cause) : State :=
  updCopy s c strm num (fun q =>
    { q with done := q.done ++ [(m, b)], bytes := q.bytes + n, got := q.got.filter (fun g => g.member != m || g.block != b),
             fails := match bad with | some e => q.fails ++ [(m, b, e)] | none => q.fails })

/-- The cause of a source with a data error (R218). -/
def badCause (bad : Bool) : Option Cause := if bad then some .uncorrectableData else none

/-- Poison of the word or line that holds a place. -/
def poisonAt (s : State) (l : Loc) : State :=
  match l with
  | .spad c o => updCore s c (fun k => { k with spadPois := setIns k.spadPois (o / 8) })
  | .mem a => { s with memPois := setIns s.memPois (a / 64) }

/-- The atomics of `cpred` kind 0 on a block, element by element in ascending address (R154, R230). -/
def reduceElems (s : State) (c : CoreId) (q : Copy) (m b i : Nat) (va : Word) (d : List (Byte × Bool)) (fuel : Nat) :
    Except (PlErr × State) (Option Cause × State) :=
  match fuel with
  | 0 => .ok (none, s)
  | k + 1 =>
    let es := if q.wide then 8 else 4
    if d.length < es then .ok (none, s)
    else if (gotOf q m b (2 * i + 1)).isSome then reduceElems s c q m b (i + 1) (va + BitVec.ofNat 64 es) (d.drop es) k
    else match copyPlace s c q va es .atomic .copyDestFault with
      | .error e => .error e
      | .ok (pl, s) =>
        let x := leWord ((d.take es).map (fun y => y.1))
        let pz := (d.take es).any (fun y => y.2)
        let ok (s : State) : State := putGot s c q.strm q.num ⟨m, b, 2 * i + 1, false, []⟩
        match pl with
        | .here l =>
          let (_, _, e, s) := amoExecute s none (.copy c q.strm q.num) l q.op q.wide 3 x 0
          let s := if pz then poisonAt s l else s
          (match reduceElems (ok s) c q m b (i + 1) (va + BitVec.ofNat 64 es) (d.drop es) k with
           | .error x => .error x
           | .ok (e', s) => .ok ((if e.isSome then some .uncorrectableData else e'), s))
        | .hole _ => .error (.fail .copyDestFault, s)
        | .host a =>
          let new := (amoOp q.op q.wide (leNat (memBytes s.hostMem a es)) x.toNat 0 0).1
          reduceElems (ok { s with hostMem := memStore s.hostMem a (leBytes es new) }) c q m b (i + 1) (va + BitVec.ofNat 64 es) (d.drop es) k
        | .remote page gba =>
          .error (askFor s c q m b (2 * i + 1) page 2 (reqPayload gba es q.op q.wide x 0 []) (if pz then [0] else []))

/-- A request to a slot of another package (R383, R385): CONTRIB, in parts where its bytes need them, or RREL; word 0 of each part is
the handle. -/
def slotAsk (s : State) (c : CoreId) (q : Copy) (pkg type : Nat) (d : List (Byte × Bool)) : PlErr × State :=
  if reqOut s c q.strm q.num 0 0 1 then (.wait, s)
  else
    let (u, s) := fresh s
    let x := partsOf q.b.toNat false d 2
    let p := poisPkt (mkPkt s pkg 3 type 0 (copySrc s q) .none (x.map (fun b => b.1))) x
    let r : Req := ⟨u, 2 ^ 48 + pkg, p, none, 0, 0, now s, c, q.strm, q.num, 0, 0, 1⟩
    (.wait, transmit { s with reqs := s.reqs ++ [r] } r pkg)

/-- Block 0 of `cpred` kinds 1 to 3 (R230, R382–R385): its bytes and its failure. -/
def slotBlock (s : State) (c : CoreId) (q : Copy) : Except (PlErr × State) State :=
  let fin (s : State) (ok : Bool) : Except (PlErr × State) State :=
    if ok then .ok (blockDone s c q.strm q.num 0 0 0 none) else .error (.fail .reductionSlotUnavailable, s)
  let pieces (va : Word) (n : Nat) := cutRow va va n (n / 2048 + 3)
  match q.kind with
  | 1 =>
    if q.a.toNat % 8 ≠ 0 then fin s false
    else match gather s c q 0 0 0 (pieces q.a 64) with
      | .error e => .error e
      | .ok (d, bad, s) =>
        if !bad.isEmpty then .error (.fail .uncorrectableData, s)
        else
          let l := d.map (fun x => x.1)
          if !slotDescOk l then fin s false
          else match gather s c q 0 0 10 (pieces (wordAt l 1) (2 * bitsOf (wordAt l 0) 24 7)) with
            | .error e => .error e
            | .ok (ml, bad, s) =>
              if !bad.isEmpty then .error (.fail .uncorrectableData, s)
              else match slotReserve s q.who.dom q.who.priv l (elemsOf 2 (ml.map (fun x => x.1)) 64) with
                | none => fin s false
                | some (h, s) => fin (updCopy s c q.strm q.num (fun q => { q with result := h })) true
  | 2 =>
    let pkg := bitsOf q.b 52 12
    if 4096 < q.w then fin s false
    else if pkg ≠ s.pkg ∧ (gotOf q 0 0 1).isSome then fin s true
    else match gather s c q 0 0 1 (pieces q.a q.w) with
      | .error e => .error e
      | .ok (d, bad, s) =>
        if !bad.isEmpty then .error (.fail .uncorrectableData, s)
        else if pkg = s.pkg then
          let (ok, s) := slotContrib s s.pkg q.b (d.map (fun x => x.1)) q.w (d.any (fun x => x.2))
          fin s ok
        else .error (slotAsk s c q pkg 21 d)
  | _ =>
    let pkg := bitsOf q.b 52 12
    if pkg = s.pkg then let (ok, s) := slotRelease s q.b q.who.dom; fin s ok
    else if (gotOf q 0 0 1).isSome then fin s true
    else .error (slotAsk s c q pkg 22 [])

/-- Block 0 of `cpat` (R231): the old word goes to RESULT. -/
def atomicBlock (s : State) (c : CoreId) (q : Copy) : Except (PlErr × State) State :=
  let res (s : State) (v : Word) (e : Option Cause) : Except (PlErr × State) State :=
    match e with
    | some _ => .error (.fail .uncorrectableData, s)
    | none => .ok (blockDone (updCopy s c q.strm q.num (fun q => { q with result := v })) c q.strm q.num 0 0 q.w none)
  match gotOf q 0 0 1 with
  | some g => res s (leWord (g.bytes.map (fun x => x.1))) none
  | none =>
    match copyPlace s c q q.a q.w .atomic .copyDestFault with
    | .error e => .error e
    | .ok (.here l, s) => let (v, _, e, s) := amoExecute s none (.copy c q.strm q.num) l q.op q.wide 3 q.b q.c; res s v e
    | .ok (.hole _, s) => .error (.fail .copyDestFault, s)
    | .ok (.host a, s) =>
      let old := leNat (memBytes s.hostMem a q.w)
      let (new, ret) := amoOp q.op q.wide old q.b.toNat q.c.toNat q.c.toNat
      res { s with hostMem := memStore s.hostMem a (leBytes q.w new) } (amoRet q.op q.wide old ret) none
    | .ok (.remote page gba, s) => .error (askFor s c q 0 0 1 page 2 (reqPayload gba q.w q.op q.wide q.b q.c []) [])

/-- The bytes of a fill (R228): byte `d` is byte `d mod 8` of A. -/
def fillBytes (a : Word) (l : List (Word × Word × Nat)) : List (Byte × Bool) :=
  l.flatMap (fun p => (List.range p.2.2).map (fun i =>
    let d := (p.2.1.toNat + i) % 8
    (a.extractLsb' (8 * d) 8, false)))

/-- A block performed as far as it can go now. -/
def blockRun (s : State) (c : CoreId) (q : Copy) (m b : Nat) (l : List (Word × Word × Nat)) : Except (PlErr × State) State :=
  if q.fn = 9 then atomicBlock s c q
  else if q.fn = 4 ∧ q.kind ≠ 0 then slotBlock s c q
  else
    let src : Pulled := if q.fn = 5 then .ok (fillBytes q.a l, [], s) else gather s c q m b 0 l
    match src with
    | .error e => .error e
    | .ok (d, bad, s) =>
      if q.fn = 4 then
        match reduceElems s c q m b 0 (match l with | p :: _ => p.2.1 | [] => 0) d (d.length + 1) with
        | .error e => .error e
        | .ok (e, s) => .ok (blockDone s c q.strm q.num m b d.length (if bad.isEmpty then e else some .uncorrectableData))
      else match scatter s c q m b 0 (unitRuns (joinRuns (l.map (fun p => (p.2.1, p.2.2))))) d with
        | .error e => .error e
        | .ok s => .ok (blockDone s c q.strm q.num m b d.length (badCause (!bad.isEmpty)))

/-- Earlier commands of the same stream. -/
def earlierCopies (s : State) (c : CoreId) (q : Copy) : List Copy :=
  (getCore s c).copies.filter (fun p => p.strm == q.strm && decide (p.num < q.num))

/-- The command may start a block (R211, R220, R221). -/
def copyMayStart (s : State) (c : CoreId) (q : Copy) : Bool :=
  released s c q.who && !q.cancelled && q.paused.isNone &&
  (q.start != 0 || (((!q.fence && q.fn != 6) || (earlierCopies s c q).isEmpty) && (earlierCopies s c q).all (fun p => p.paused.isNone)))

/-- The 4 KiB pages of the source that a block of a `cpm` reads. -/
def srcPages (q : Copy) (m b : Nat) : List Nat :=
  if q.fn = 3 then (((copyBlocks q m)[b]?).getD []).map (fun p => p.1.toNat / 4096) else []

/-- A block is under way: a request of it is out, or a piece is done. -/
def blockUnderWay (s : State) (c : CoreId) (q : Copy) (m b : Nat) : Bool :=
  s.reqs.any (fun r => r.core == c && r.strm == q.strm && r.num == q.num && r.member == srcMember && (srcPages q m b).contains r.block) ||
  q.got.any (fun g => g.member == m && g.block == b) ||
  s.reqs.any (fun r => r.core == c && r.strm == q.strm && r.num == q.num && r.member == m && r.block == b)

/-- The engine fault record of a paused command, written once a slot is found and announced (R220, R356). -/
def pauseRecord (s : State) (c : CoreId) (q : Copy) : State :=
  match q.paused with
  | none => s
  | some p =>
    if decide (1 < p.handle.toNat) || (match p.retryAt with | some t => decide (now s < t) | none => false) then s
    else
      let sid := engineSid s c q.engine q.who.dom
      let pages : List PageRec := [⟨p.va.toNat / 65536 % 2 ^ 40, .pageNotPresent, p.w, false⟩]
      let low := 2 ^ 42 + 2 ^ 41 + privNum q.who.priv * 2 ^ 14 + causeCode .pageNotPresent
      let put (s : State) (h : Word) (t : Option Nat) : State :=
        updCopy s c q.strm q.num (fun q => { q with paused := some { p with handle := h, retryAt := t } })
      let (o, s) := writeRecord s ⟨c, 0⟩ (pauseKey s c q) q.who.dom low (faultBody s 0 sid (copyKey s c q) pages)
      match o with
      | .done h => announce (put s h none) 0 q.who.dom sid h pages c
      | .later => s
      | .noSlot => put (countOnce s q.who.dom sid .pageNotPresent (p.handle == 1)) 1 none
      | .failed => put (countOnce s q.who.dom sid .pageNotPresent (p.handle == 1)) 1 (some (now s + 1000000))

/-- A command paused by an absent page, its record asked for (R220). -/
def pauseCopy (s : State) (c : CoreId) (strm num m b : Nat) (va : Word) (w : Bool) : State :=
  let s := updCopy s c strm num (fun q => { q with paused := some { member := m, block := b, since := now s, va := va, w := w, handle := 0 } })
  match copyOf s c strm num with
  | some q => pauseRecord s c q
  | none => s

/-- COPY_BLOCK (R218): a block goes on; a fault fails it or pauses the command (R220). -/
def execCopyBlock (c : CoreId) (strm num m b : Nat) (s : State) : Out :=
  match copyOf s c strm num with
  | none => .next s
  | some q =>
    match (if m < copyMembers q then (copyBlocks q m)[b]? else none) with
    | none => .next s
    | some l =>
      if q.fn = 6 ∨ blockOver q m b then .next s
      else match q.paused with
        | some p =>
          if p.member = m ∧ p.block = b then .next (pauseRecord s c q)
          else if !blockUnderWay s c q m b then .next s
          else (match blockRun s c q m b l with
            | .ok s => .next s
            | .error (.fail e, s) => .next (blockFail s c strm num m b e)
            | .error (_, s) => .next s)
        | none =>
          if !(blockUnderWay s c q m b || copyMayStart s c q) then .next s
          else
            let s := updCopy s c strm num (fun q => { q with start := if q.start = 0 then now s else q.start })
            match blockRun s c { q with start := if q.start = 0 then now s else q.start } m b l with
            | .ok s => .next s
            | .error (.fail e, s) => .next (blockFail s c strm num m b e)
            | .error (.wait, s) => .next s
            | .error (.absent va w, s) => .next (pauseCopy s c strm num m b va w)

/-- COPY_FAULT_TIMEOUT (R220): 10 ms without a resume. -/
def execCopyFaultTimeout (c : CoreId) (strm num : Nat) (s : State) : Out :=
  match copyOf s c strm num with
  | none => .next s
  | some q =>
    match q.paused with
    | none => .next s
    | some p =>
      if p.since + 10000000 ≤ now s then
        .next (blockFail (updCopy (giveUpRecord s q.who.dom (pauseKey s c q)) c strm num (fun q => { q with paused := none })) c strm num p.member p.block .pageNotPresent)
      else .next s

/-- CPSIG_SIGNAL (R223, R232): the vector is raised or the message posted, after every earlier command of the stream. -/
def execCpsigSignal (c : CoreId) (strm num : Nat) (s : State) : Out :=
  match copyOf s c strm num with
  | none => .next s
  | some q =>
    if q.fn ≠ 6 ∨ blockOver q 0 0 ∨ !copyMayStart s c q then .next s
    else
      let s :=
        if q.kind = 0 then { s with msix := s.msix ++ [q.a.toNat] }
        else postMsg s q.who.uid ⟨q.payload, now s, q.who.sid, q.a, false, 0, false⟩ q.who.dom q.who.floor c
      .next (blockDone (updCopy s c strm num (fun q => { q with start := now s })) c strm num 0 0 0 none)

/-- REMOTE_TIMEOUT (R218): a request of the command unanswered for 100 µs. -/
def execRemoteTimeout (c : CoreId) (strm num : Nat) (s : State) : Out :=
  match s.reqs.find? (fun r => r.core == c && r.strm == strm && r.num == num && r.dst.isSome && decide (r.first + 100000 ≤ now s)) with
  | none => .next s
  | some r => .next (endReq (reqFail s r .remoteTimeout) r)

/-- Every block of the command, as member and number. -/
def allBlocks (q : Copy) : List (Nat × Nat) :=
  (List.range (copyMembers q)).flatMap (fun m => (List.range (copyBlocks q m).length).map (fun b => (m, b)))

/-- The failed blocks in ascending order (R217). -/
def failList (q : Copy) : List (Nat × Nat × Cause) :=
  (allBlocks q).filterMap (fun x => q.fails.find? (fun f => f.1 == x.1 && f.2.1 == x.2))

/-- STATUS (R217). -/
def copyStatus (q : Copy) : Nat :=
  if q.cancelled then 3 else if (failList q).isEmpty then 0 else if (failList q).length = (allBlocks q).length then 2 else 1

/-- The completion record (R217). -/
def copyRecord (s : State) (q : Copy) : List Byte :=
  let f := failList q
  let cause := match f with | [] => 0 | x :: _ => causeCode x.2.2
  let mfail := if q.fn = 3 then (List.range 16).foldl (fun n m => if f.any (fun x => x.1 == m) then n + 2 ^ m else n) 0 else 0
  let nfail := min f.length (2 ^ 32 - 1)
  let w5 := 2 ^ 63 + copyStatus q * 2 ^ 61 + q.fn * 2 ^ 57 + q.strm * 2 ^ 55 + cause * 2 ^ 48 + mfail * 2 ^ 32 + nfail
  let ent (x : Nat × Nat × Cause) : List Byte := leBytes 8 (causeCode x.2.2 * 2 ^ 48 + x.1 * 2 ^ 44 + x.2.1 % 2 ^ 40)
  leBytes 8 q.issue ++ leBytes 8 q.start ++ leBytes 8 (now s) ++ leBytes 8 q.bytes ++ leBytes 8 q.num ++ leBytes 8 w5 ++
    word8 q.result ++ word8 q.who.sid ++ (f.take 8).flatMap ent ++ leBytes (8 * (8 - (f.take 8).length)) 0

/-- The report of a command (R219). -/
def copyReport (s : State) (c : CoreId) (q : Copy) (e : Cause) : State :=
  reportWith s q.who.dom e ⟨0, now s, engineSid s c q.engine q.who.dom, 0, false, 0, false⟩ (copyKey s c q) (some q.recAddr) true

/-- The member under which a completion record is written. -/
def recMember : Nat := 99

/-- The record written through the issuer's translation, its half with DONE last (R214, R217). -/
def writeCopyRecord (s : State) (c : CoreId) (q : Copy) : Except (PlErr × State) State :=
  if !q.hasRec then .ok s
  else
    let l := (copyRecord s q).map (fun b => (b, false))
    scatter s c q recMember 0 0 (unitRuns [(q.recAddr + 64, 64), (q.recAddr, 64)]) (l.drop 64 ++ l.take 64)

/-- The tag and the timeline of a command that completes, and its report (R213, R214, R219). -/
def copyEnd (s : State) (c : CoreId) (q : Copy) : State :=
  let s := if q.paused.isSome then giveUpRecord s q.who.dom (pauseKey s c q) else s
  let s := match q.tag with
    | none => s
    | some n => wakeCore (updCore s c (fun k => { k with tagA := k.tagA &&& ~~~(1#64 <<< n), tagR := k.tagR ||| (1#64 <<< n) })) c
  let s := updCore s c (fun k => { k with copies := k.copies.filter (fun p => p.strm != q.strm || p.num != q.num) })
  let st := copyStatus q
  let s := tlComplete s c q.strm q.num (st == 0)
  if st = 1 ∨ st = 2 then
    copyReport s c q (if q.fn = 3 ∧ st = 1 then .multicastPartial else (match failList q with | [] => .none | x :: _ => x.2.2))
  else s

/-- Every block is over, or the command is cancelled and none is under way (R233). -/
def copyFinished (s : State) (c : CoreId) (q : Copy) : Bool :=
  if q.cancelled then (allBlocks q).all (fun x => blockOver q x.1 x.2 || !blockUnderWay s c q x.1 x.2)
  else q.paused.isNone && (allBlocks q).all (fun x => blockOver q x.1 x.2) && (q.start != 0 || copyMayStart s c q)

/-- COPY_COMPLETE (R214). An absent page of the record pauses the command (R220); a record that cannot be written is logged and
reported (R217). -/
def execCopyComplete (c : CoreId) (strm num : Nat) (s : State) : Out :=
  match copyOf s c strm num with
  | none => .next s
  | some q =>
    let lost (s : State) : State :=
      copyEnd (copyReport (logEvent s (engineSid s c q.engine q.who.dom) .copyDestFault q.recAddr.toNat) c q .copyDestFault) c q
    if (match q.paused with | some p => p.member == recMember | none => false) then .next (pauseRecord s c q)
    else if !copyFinished s c q then .next s
    else if q.fails.any (fun f => f.1 == recMember) then .next (lost s)
    else match writeCopyRecord s c q with
      | .ok s => .next (copyEnd s c q)
      | .error (.wait, s) => .next s
      | .error (.absent va w, s) => .next (pauseCopy s c strm num recMember 0 va w)
      | .error (.fail _, s) => .next (lost s)

end Sys2Proof.Machine
end

