-- ==== Sys2Proof/Machine/Chan.lean ====
section
/-! DEFINITION. Channels at their homes: the table entries as agents of the package reach them (R157–R159), the sizes of a
JMU (R155), placing a message (R160–R164, R175), and the send path to another package (R380). -/

namespace Sys2Proof.Machine

/-- Message slots, channels, patterns and reservation limit of a core's JMU (R155, R182). -/
def jmuSlots (c : CoreId) : Nat := match c.kind with | .compute => 2048 | _ => 512
/-- R155. -/
def jmuChans (c : CoreId) : Nat := match c.kind with | .compute => 512 | _ => 128
/-- R155. -/
def jmuPats (c : CoreId) : Nat := match c.kind with | .compute => 256 | _ => 64
/-- Seven eighths of the slots (R182). -/
def jmuReserve (c : CoreId) : Nat := jmuSlots c / 8 * 7

/-- The table agent of a die (R158): a device of its cluster 0; from Eland for cores there. -/
def tableAgent (c : CoreId) (dom : Nat) : Agent :=
  match c.kind with
  | .compute | .markhor => ⟨computeId c.die 0 0, some 2, false, dom, 1⟩
  | _ => elandAgent dom 1

/-- A table page of another package (R158): its key and the address of the entry there; a page that this package owns is
reached at its frame. -/
def tabGba (s : State) (g : Agent) (a : Word) : Option (Nat × Nat) :=
  (tlbLookup s g (a.toNat / 65536)).map (fun x =>
    let u := x.1.gpn + (a.toNat / 65536 - x.1.vpage)
    (pageKeyOr s u x.1.gpn, u * 65536 + a.toNat % 65536))

/-- A fabric access to an entry of another package's page, for a requester. -/
def tabAsk (s : State) (dom key who page type : Nat) (payload : List Byte) : State :=
  if s.reqs.any (fun r => r.strm == 64 && r.num == key && r.member == who) then s
  else startReq s page (mkPkt s 0 0 type 0 (srcidOf (fabricSid s s.fab dom)) .none payload) duikerId 64 key who 0 0

/-- An entry read by an agent of the package (R157–R159). -/
def tabRead (s : State) (g : Agent) (dom idx who : Nat) : Except (DevErr × State) (Word × State) :=
  match entRead s g dom idx with
  | .error (.fault .pageNotLocal, s) =>
    match entAddr s dom idx with
    | none => .ok (0, s)
    | some a =>
      match tabGba s { g with dom := dom } a with
      | none => .error (.fault .pageNotPresent, s)
      | some (page, gba) =>
        if isOwner s page then
          .ok (leWord (memBytes s.mem (ownFrame s (gba / 65536) + gba % 65536) 8), s)
        else match aget s.tabAns (gba, who) with
          | some (w, none) => .ok (w, s)
          | some (_, some c) => .error (.fault c, s)
          | none => .error (.miss, tabAsk s dom gba who page 0 (reqPayload gba 8 0 false 0 0 []))
  | x => x

/-- An entry written by an agent of the package, by a domain-scope atomic (R158). With `claim` it is a compare-and-swap whose
success is answered; other rewrites are exchanges. -/
def tabWrite (s : State) (g : Agent) (dom idx who : Nat) (old new : Word) (claim : Bool) : Except (DevErr × State) (Bool × State) :=
  match entWrite s g dom idx new with
  | .ok s => .ok (true, s)
  | .error (.fault .pageNotLocal, s) =>
    match entAddr s dom idx with
    | none => .ok (false, s)
    | some a =>
      match tabGba s { g with dom := dom } a with
      | none => .error (.fault .pageNotPresent, s)
      | some (page, gba) =>
        if isOwner s page then
          .ok (true, devStore s (ownFrame s (gba / 65536) + gba % 65536) (word8 new))
        else if claim then
          match aget s.tabAns (gba + 1, who) with
          | some (w, none) =>
            .ok (w == old, { s with tabAns := adel (aset s.tabAns (gba, who) (w, none)) (gba + 1, who) })
          | some (_, some c) => .error (.fault c, s)
          | none => .error (.miss, tabAsk s dom (gba + 1) who page 2 (reqPayload gba 8 9 true old new []))
        else
          match aget s.tabAns (gba + 2, who) with
          | some (_, none) => .ok (true, { s with tabAns := adel s.tabAns (gba + 2, who) })
          | some (_, some c) => .error (.fault c, { s with tabAns := adel s.tabAns (gba + 2, who) })
          | none => .error (.miss, tabAsk s dom (gba + 2) who page 2 (reqPayload gba 8 8 true new 0 []))
  | .error e => .error e

/-- A requester's table answers are used up. -/
def tabDrop (s : State) (who : Nat) : State := { s with tabAns := s.tabAns.filter (fun x => x.1.2 != who) }

/-- A channel of a core's JMU. -/
def findChan (s : State) (c : CoreId) (h : Word) : Option Chan := (getCore s c).jmu.chans.find? (fun q => q.handle == h)
/-- A core's JMU changed. -/
def updJmu (s : State) (c : CoreId) (f : Jmu → Jmu) : State := updCore s c (fun k => { k with jmu := f k.jmu })
/-- A channel changed. -/
def updChan (s : State) (c : CoreId) (h : Word) (f : Chan → Chan) : State :=
  updJmu s c (fun j => { j with chans := j.chans.map (fun q => if q.handle = h then f q else q) })

/-- Messages that a firing awaiting admission holds (R171). -/
def firingMsgs (f : Firing) : List Msg := match f.what with | .pattern _ ms _ => ms | _ => []

/-- Slots that a channel's messages occupy, its own and those of firings awaiting admission (R160, R171). -/
def slotsUsed (j : Jmu) (q : Chan) : Nat :=
  q.held.length + (j.queue.flatMap firingMsgs).foldl (fun n m => if m.handle = q.handle ∧ !q.count then n + 1 else n) 0

/-- Messages of firings awaiting admission whose FIFO channel is gone: they keep their slots (R171, R183). -/
def orphans (j : Jmu) : Nat :=
  ((j.queue.flatMap firingMsgs).filter (fun m => !m.sc && j.chans.all (fun q => q.handle != m.handle))).length

/-- Shared slots in use (R160). -/
def sharedUsed (j : Jmu) : Nat := j.chans.foldl (fun n q => n + (slotsUsed j q - q.slots)) (orphans j)
/-- Slots reserved (R160). -/
def reserved (j : Jmu) : Nat := (j.chans.filter (fun q => !q.spilled)).foldl (fun n q => n + q.slots) 0
/-- Channels homed and active. -/
def liveChans (j : Jmu) : Nat := (j.chans.filter (fun q => !q.spilled)).length

/-- A slot can take a message of the channel (R160). -/
def slotFree (c : CoreId) (j : Jmu) (q : Chan) : Bool :=
  decide (slotsUsed j q < q.slots) || decide (sharedUsed j + reserved j < jmuSlots c)

/-- The home core as the agent that reaches a channel's ring (R161, R406). -/
def ringAgent (c : CoreId) (q : Chan) : Agent := ⟨c, none, false, hDom q.handle, privNum q.cpriv⟩
/-- The address of ring entry `n` after the head (R161). -/
def ringAddr (q : Chan) (n : Nat) : Word := q.ring + BitVec.ofNat 64 (64 * ((q.head + n) % 2 ^ q.ringlog))

/-- What becomes of a message at a home. -/
inductive Placed where
  | ok (s : State)
  /-- Not placed: reported with the cause. -/
  | refused (c : Cause) (s : State)
  /-- A miss is being served. -/
  | later (s : State)
deriving DecidableEq, Repr

/-- A message appended to its channel's ring (R160, R161, R175), poisoned where it was delivered so (R381). -/
def ringPut (s : State) (c : CoreId) (q : Chan) (m : Msg) (seq : Nat) : Placed :=
  if 2 ^ q.ringlog ≤ q.nring then .refused .channelOverflow s
  else match devWriteP s (ringAgent c q) (ringAddr q q.nring) ((msgRecord m .none seq).map (fun b => (b, m.pois))) with
    | .ok s => .ok (updChan s c q.handle (fun q => { q with nring := q.nring + 1 }))
    | .error (.miss, s) => .later s
    | .error (.fault e, s) => .refused e (logEvent s (coreSid s c (hDom q.handle)) e (ringAddr q q.nring).toNat)

/-- Saturation to 32 bits, signed. -/
def sat32 (x : Int) : Int := max (-(2 ^ 31)) (min x (2 ^ 31 - 1))

/-- A `sendc` applied to a COUNT channel (R163). -/
def countApply (q : Chan) (m : Msg) (seq : Nat) : Chan :=
  let n := sat32 (q.counter - sintN 32 (m.payload.toNat))
  { q with counter := n, arrivals := min (q.arrivals + 1) (2 ^ 32 - 1), lastTime := m.stime, lastSender := m.sender,
           present := if n ≤ 0 then (match q.present with | some x => some x | none => some seq) else none }

/-- The next arrival sequence of a JMU (R155). -/
def nextSeq (s : State) (c : CoreId) : Nat × State :=
  ((getCore s c).jmu.seq, updJmu s c (fun j => { j with seq := j.seq + 1 }))

/-- A relay's message forwarded to its target as a send (R164). The sending strand's messages to the relay keep their order, as
all that the relay forwards do (R174). -/
def relayMsg (s : State) (c : CoreId) (q : Chan) (m : Msg) (dom : Nat) (rep : Bool) : State :=
  let (i, s) := fresh s
  { s with flight := s.flight ++ [⟨i, 0, { m with handle := q.target, seq := 0 }, dom, rep, none, 0, c, true, some q.handle, 0⟩] }

/-- A message placed at its home (R160–R164, R175, R181). -/
def placeMsg (s : State) (c : CoreId) (q : Chan) (m : Msg) (dom : Nat) (rep : Bool) : Placed :=
  if m.sc != q.count then .refused .payloadRange s
  else
    let (seq, s') := nextSeq s c
    if q.spilled then ringPut s' c q m seq
    else if q.count then
      if q.nring ≠ 0 then ringPut s' c q m seq
      else .ok (updChan s' c q.handle (fun q => countApply q m seq))
    else if q.relay then
      if q.nring ≠ 0 then ringPut s' c q m seq else .ok (relayMsg s' c q m dom rep)
    else if q.nring = 0 ∧ slotFree c (getCore s c).jmu q then
      .ok (updChan s' c q.handle (fun q => { q with held := q.held ++ [{ m with seq := seq }] }))
    else ringPut s' c q m seq

/-- The message channel toward a package (R380). -/
def vcOf (s : State) (dst : Nat) : VcOut := (s.vcOut.find? (fun v => v.dst == dst)).getD ⟨dst, 0, [], false, false, []⟩
/-- R380. -/
def setVc (s : State) (v : VcOut) : State := { s with vcOut := s.vcOut.filter (fun w => w.dst != v.dst) ++ [v] }

/-- Waiting packets numbered and sent while fewer than 4,096 are unacknowledged, after a resynchronisation (R380). -/
def vcFlush (s : State) (dst : Nat) (fuel : Nat) : State :=
  match fuel with
  | 0 => s
  | k + 1 =>
    let v := vcOf s dst
    match v.waiting with
    | [] => s
    | (p, id) :: t =>
      if !v.synced then
        -- resynchronise first (R380)
        if v.sync then s
        else
          let p := mkPkt s dst 2 19 v.next (elandSrc s) .none []
          sendPkt (setVc s { v with sync := true, unacked := [⟨p, 0, now s, now s⟩] }) p
      else if 4096 ≤ v.unacked.length then s
      else
        let p := { p with rid := BitVec.ofNat 16 v.next, born := bornNow s }
        let s := setVc s { v with waiting := t, next := (v.next + 1) % 65536, unacked := v.unacked ++ [⟨p, id, now s, now s⟩] }
        vcFlush (sendPkt s p) dst k

/-- A packet of the message VC handed to the sending Eland (R380); `id` is the message that it carries, 0 for none. -/
def vcPost (s : State) (dst type : Nat) (srcid : BitVec 28) (payload : List Byte) (id : Nat) (bad : List Nat := []) : State :=
  let v := vcOf s dst
  let s := setVc s { v with waiting := v.waiting ++ [({ mkPkt s dst 2 type 0 srcid .none payload with badLines := bad }, id)] }
  vcFlush s dst (v.waiting.length + 1)

/-- A card or an acknowledgement handed to the sending Eland (R197, R380). -/
def vcSend (s : State) (dst type : Nat) (srcid : BitVec 28) (payload : List Byte) : State := vcPost s dst type srcid payload 0

/-- A message handed to the sending Eland: it stays known until it is acknowledged or given up (R174, R380). -/
def vcMessage (s : State) (dst : Nat) (f : Flight) : State :=
  vcPost { s with flight := s.flight.filter (fun g => g.id != f.id), away := s.away ++ [f] } dst 16 (srcidOf f.m.sender)
    (msgRecord f.m .none 0) f.id (if f.m.pois then [0] else [])

/-- The state of a channel's entry for a handle (R157, R159, R183): live, or the cause. -/
def entCause (h e : Word) : Option Cause :=
  if entState e = 0 then some .channelDestroyed
  else if hGen e ≠ hGen h then some .channelHandleStale
  else if entState e = 2 then some .channelMoved else none

/-- The package of an entry's home (R157). -/
def entPkg (e : Word) : Nat := bitsOf e 30 12

/-- KIND, RELAY and SCOPE of an entry (R157). -/
def entCount (e : Word) : Bool := e.getLsbD 45
/-- R157. -/
def entRelay (e : Word) : Bool := e.getLsbD 44
/-- R157. -/
def entScope (e : Word) : Nat := bitsOf e 42 2

/-- A handle has the form of R156: not null, bits [15:0] zero. -/
def handleForm (h : Word) : Bool := h != 0 && bitsOf h 0 16 == 0

/-- The sending domain of a record: DOM of its sender (R23). -/
def senderDom (m : Msg) : Nat := bitsOf m.sender 28 8

/-- A message of a record as a message in flight: the records of a report channel count as reports, which nothing in a record
tells apart from a send to that channel (R165, R167, log 69). -/
def ofRecord (s : State) (id : Nat) (m : Msg) (dom : Nat) : Flight :=
  let rep := m.handle == (getDom s (hDom m.handle)).repch
  ⟨id, 0, m, if rep then hDom m.handle else dom, rep, none, 0, duikerId, true, none, 0⟩

/-- A message that stood in a channel is reported with a cause to its sending domain (R183). -/
def reportHeld (s : State) (m : Msg) (c : Cause) : State := reportSend s (ofRecord s 0 m (senderDom m)) c

end Sys2Proof.Machine
end

