-- ==== Sys2Proof/Machine/Join.lean ====
section
/-! DEFINITION. The MSG family (R179–R188). -/

namespace Sys2Proof.Machine

/-- Messages of a strand that have not left its core (R181). -/
def unaccepted (s : State) (uid : Nat) : Nat := (s.flight.filter (fun f => f.uid == uid && f.at_.isNone)).length

/-- A send of the strand (R181): stamped, and posted as a release of its earlier accesses. -/
def sendMsg (s : State) (x : Ctx) (h : Word) (payload : BitVec 256) (sc : Bool) : Except Stop (State × Next) :=
  if 16 ≤ unaccepted s x.t.uid then .error (.wait .sends)
  else
    let m : Msg := ⟨payload, now s, strandSid s x.r x.t.dom, h, sc, 0, false⟩
    .ok (postMsg s x.t.uid m x.t.dom s.uid x.r.core, .seq)

/-- R181. -/
def execSend (a b : BitVec 5) (s : State) : Out :=
  issue (.send a b) s (fun s x => do
    needCleanAll x.t.r (a :: (if b = 0 then [] else [b, b + 1, b + 2, b + 3]))
    orTrap (handleForm (rd x.t.r a)) .operandRange
    sendMsg s x (rd x.t.r a) (payloadRegs x.t.r b) false)

/-- R181. -/
def execSendc (a b : BitVec 5) (s : State) : Out :=
  issue (.sendc a b) s (fun s x => do
    needCleanAll x.t.r [a, b]
    orTrap (handleForm (rd x.t.r a)) .operandRange
    let v := rd x.t.r b
    orTrap (v == sextN 32 v.toNat) .payloadRange
    sendMsg s x (rd x.t.r a) (payload4 v 0 0 0) true)

/-- An instruction whose answer is D (R180). -/
def answer (s : State) (x : Ctx) (d : BitVec 5) (v : Word) : Except Stop (State × Next) :=
  .ok (putRegs s x (wr x.t.r d v false), .seq)

/-- A table access that met a fault: logged; the cause for the instruction (R158). -/
def tabLog (s : State) (x : Ctx) (c : Cause) : State := logEvent s (strandSid s x.r x.t.dom) c 0

/-- Waiting for a table access: the instruction executes again (R180). -/
def tabHold (s : State) : Except Stop (State × Next) := .ok (s, .hold (.answer 0))

/-- The checks of R180 on a handle operand of a managing form. -/
def chanCheck (x : Ctx) (h : Word) : Except Stop Unit := do
  orTrap (handleForm h) .operandRange
  orTrap (hDom h == x.t.dom || x.t.priv == .h) .accessTableDenied

/-- A value that another package's JMU answers (log 16). -/
def remoteWord (s : State) : Word × State := (Config.remoteAnswer s.free, { s with free := s.free + 1 })

/-- One of `n` outcomes, as another package decides (log 16). -/
def remotePick (s : State) (n : Nat) : Nat × State := let (v, s) := remoteWord s; (v.toNat % n, s)

/-- The table answers of a strand are used up when its instruction completes. -/
def tabDone (x : Ctx) (o : Except Stop (State × Next)) : Except Stop (State × Next) :=
  match o with
  | .ok (s, .hold w) => .ok (s, .hold w)
  | .ok (s, n) => .ok (tabDrop s x.t.uid, n)
  | .error e => .error e

/-- A handle's entry read for a managing form, and its channel's home here; `fault` and `remote` say what the form does when
the entry cannot be read and when the home is in another package, of which it then has the entry. -/
def withChan (s : State) (x : Ctx) (h : Word) (fault : Cause → State → Except Stop (State × Next))
    (remote : Word → State → Except Stop (State × Next)) (k : CoreId → Chan → Word → State → Except Stop (State × Next)) :
    Except Stop (State × Next) :=
  tabDone x <| match tabRead s (tableAgent x.r.core (hDom h)) (hDom h) (hIdx h) x.t.uid with
  | .error (.miss, s) => tabHold s
  | .error (.fault c, s) => fault c (tabLog s x c)
  | .ok (e, s) =>
    match entCause h e with
    | some c => .error (plainTrap c)
    | none =>
      if entPkg e ≠ s.pkg then remote e s
      else match entHome e with
        | none => .error (plainTrap .channelDestroyed)
        | some c =>
          match findChan s c h with
          | none => .error (plainTrap .channelDestroyed)
          | some q => k c q e s

/-- A HOME word names a core on which the domain may home a channel (R182): the core, or another package. -/
inductive HomeSel where
  | bad
  | here (c : CoreId)
  | other (pkg : Nat)
deriving DecidableEq, Repr

/-- R182. -/
def homeSel (s : State) (dom : Nat) (w : Word) : HomeSel :=
  if bitsOf w 0 24 ≠ 0 ∨ bitsOf w 28 14 ≠ 0 then .bad
  else match coreOfPlaces w with
    | none => .bad
    | some c =>
      if bitsOf w 52 12 ≠ s.pkg then .other (bitsOf w 52 12)
      else
        let ok := match c.kind with
          | .compute => (partitionOf s dom).contains c
          | .markhor => (partitionOf s dom).any (fun p => p.die == c.die && p.clus == c.clus)
          | _ => hasPartition s dom
        if ok then .here c else .bad

/-- Privilege that a HOME of a kind needs (R182). -/
def homePriv (w : Word) : Nat := match bitsOf w 24 4 with | 5 => 1 | 3 => 2 | 4 => 2 | _ => 0

/-- The HOME rules of R182 as faults, for a channel of a domain. -/
def homeCheck (s : State) (x : Ctx) (dom : Nat) (w : Word) : Except Stop HomeSel :=
  match homeSel s dom w with
  | .bad => .error (plainTrap .operandRange)
  | p => if privNum x.t.priv < homePriv w then .error (plainTrap .privileged) else .ok p

/-- The field rules of the channel descriptor (R182). A ring that would pass 2^56 is refused (log 78 DESIGN CHOICE). -/
def chdescOk (l : List Word) : Bool :=
  let g (i : Nat) : Word := (l[i]?).getD 0
  let w := g 0
  let count := w.getLsbD 2
  let relay := w.getLsbD 3
  let rl := bitsOf w 16 5
  bitsOf w 32 32 == 0 && bitsOf w 21 3 == 0 && bitsOf w 5 11 == 0 &&
    (if count then bitsOf w 24 8 == 0 && !relay else decide (1 ≤ bitsOf w 24 8) && decide (bitsOf w 24 8 ≤ 64)) &&
    decide (6 ≤ rl) && decide (rl ≤ 24) && (w.getLsbD 4 || g 1 == 0) &&
    (g 2).toNat % 64 == 0 && decide ((g 2).toNat + 64 * 2 ^ rl ≤ 2 ^ 56) &&
    (if count then decide (1 ≤ bitsOf (g 3) 32 32) && decide (bitsOf (g 3) 32 32 < 2 ^ 31) else g 3 == 0) &&
    (relay || g 4 == 0) && handleZeros (g 4) && g 5 == 0 && g 6 == 0 && g 7 == 0

/-- Slots of the channels at a home whose entries `chnew` is claiming: they hold their place while it waits (R182). -/
def claimed (s : State) (c : CoreId) : List Nat :=
  (allStrands s).filterMap (fun y => match y.2.phase with
    | some (.claiming _ _ pkg home desc) => if pkg = s.pkg ∧ home = c then some (bitsOf ((desc[0]?).getD 0) 24 8) else none
    | _ => none)

/-- A JMU holds its full count of channels, or the reservation would pass its limit (R182). -/
def quotaFull (s : State) (c : CoreId) (slots : Nat) : Bool :=
  let j := (getCore s c).jmu
  let l := claimed s c
  decide (jmuChans c ≤ liveChans j + l.length) || decide (jmuReserve c < reserved j + l.foldl (fun n k => n + k) 0 + slots)

/-- The first free entry from an index, wrapping and skipping 0 (R182); `n` entries are looked at. -/
def freeEntry (s : State) (g : Agent) (dom who i total n : Nat) : Except (DevErr × State) (Option (Nat × Word) × State) :=
  match n with
  | 0 => .ok (none, s)
  | k + 1 =>
    let j := i % total
    if j = 0 then freeEntry s g dom who (i + 1) total k
    else match tabRead s g dom j who with
      | .error e => .error e
      | .ok (e, s) => if entState e = 0 then .ok (some (j, e), s) else freeEntry s g dom who (i + 1) total k

/-- A channel as created (R160, R163, R182). -/
def newChan (s : State) (x : Ctx) (h : Word) (l : List Word) : Chan × State :=
  let g (i : Nat) : Word := (l[i]?).getD 0
  let w := g 0
  let n := sintN 32 (bitsOf (g 3) 0 32)
  let count := w.getLsbD 2
  ({ handle := h, count := count, relay := w.getLsbD 3, scope := bitsOf w 0 2, slots := bitsOf w 24 8, ringlog := bitsOf w 16 5,
     ring := g 2, held := [], head := 0, nring := 0, counter := if count then n else 0, reload := bitsOf (g 3) 32 32, arrivals := 0,
     present := none, lastTime := (Config.freeWord s.free).toNat, lastSender := Config.freeWord (s.free + 1), target := g 4,
     cpriv := x.t.priv, regions := [], spilled := false, retry := none }, { s with free := s.free + 2 })

/-- The channel's state installed at its home; a counter at or below zero has a message present at once (R163). -/
def installChan (s : State) (c : CoreId) (q : Chan) : State :=
  if q.count && decide (q.counter ≤ 0) then
    let (n, s) := nextSeq s c
    updJmu s c (fun j => { j with chans := j.chans ++ [{ q with present := some n }] })
  else updJmu s c (fun j => { j with chans := j.chans ++ [q] })

/-- The relay target rule of R164. -/
def relayOk (s : State) (x : Ctx) (t : Word) : Except (DevErr × State) (Bool × State) :=
  if !handleForm t ∨ hDom t ≠ x.t.dom then .ok (false, s)
  else match tabRead s (tableAgent x.r.core x.t.dom) x.t.dom (hIdx t) x.t.uid with
    | .error e => .error e
    | .ok (e, s) => .ok ((entCause t e).isNone && !entCount e && !entRelay e, s)

/-- The claim of the entry found, and the creation (R182). A claim that another package answers is waited for with what has been
decided; an entry lost to another claim is looked for again. -/
def claimChan (s : State) (x : Ctx) (d : BitVec 5) (i : Nat) (e : Word) (pkg : Nat) (core : CoreId) (l : List Word) : Except Stop (State × Next) :=
  let dom := x.t.dom
  let w := (l[0]?).getD 0
  let gen := (hGen e + 1) % 65536
  let ent := mkEntry gen 1 (w.getLsbD 2) (w.getLsbD 3) (bitsOf w 0 2) pkg core (privNum x.t.priv)
  let clear (s : State) : State := updStrand s x.r (fun t => { t with phase := none })
  let fin (s : State) (v : Word) : Except Stop (State × Next) := answer (clear (tabDrop s x.t.uid)) x d v
  match tabWrite s (tableAgent x.r.core dom) dom i x.t.uid e ent true with
  | .error (.miss, s) => tabHold (updStrand s x.r (fun t => { t with phase := some (.claiming i e pkg core l) }))
  | .error (.fault c, s) => fin (tabLog s x c) (refusalWord c)
  | .ok (false, s) => tabHold (clear s)
  | .ok (true, s) =>
    let h := mkHandle gen i dom
    let dm := getDom s dom
    let s := setDom s dom { dm with hint := (i + 1) % 2 ^ areaLog dm.chtab }
    if pkg = s.pkg then let (q, s) := newChan s x h l; fin (installChan s core q) h else fin s h

/-- A free entry looked for and claimed (R182). -/
def createChan (s : State) (x : Ctx) (d : BitVec 5) (l : List Word) (home : HomeSel) : Except Stop (State × Next) :=
  let dom := x.t.dom
  let fin (s : State) (v : Word) : Except Stop (State × Next) := answer (tabDrop s x.t.uid) x d v
  let w := (l[0]?).getD 0
  let full := match home with | .here c => quotaFull s c (bitsOf w 24 8) | _ => false
  if full then fin s (refusalWord .channelQuota)
  else
    let tab := (getDom s dom).chtab
    let total := 2 ^ areaLog tab
    if areaBase tab = 0 then fin s (refusalWord .channelQuota)
    else
      let g := tableAgent x.r.core dom
      match freeEntry s g dom x.t.uid (getDom s dom).hint total total with
      | .error (.miss, s) => tabHold s
      | .error (.fault c, s) => fin (tabLog s x c) (refusalWord c)
      | .ok (none, s) => fin s (refusalWord .channelQuota)
      | .ok (some (i, e), s) =>
        let (pkg, core) := match home with | .here c => (s.pkg, c) | .other p => (p, (coreOfPlaces ((l[1]?).getD 0)).getD x.r.core) | .bad => (s.pkg, x.r.core)
        claimChan s x d i e pkg core l

/-- `chnew` with a home in another package: its JMU has room, or is full, or the core is none on which the domain may home a
channel (R182, log 16). -/
def createFar (s : State) (x : Ctx) (d : BitVec 5) (l : List Word) (home : HomeSel) : Except Stop (State × Next) :=
  match home with
  | .other _ =>
    let (n, s) := remotePick s 3
    if n = 0 then createChan s x d l home
    else if n = 1 then answer (tabDrop s x.t.uid) x d (refusalWord .channelQuota)
    else throw (plainTrap .operandRange)
  | _ => createChan s x d l home

/-- R182. -/
def execChnew (d a : BitVec 5) (s : State) : Out :=
  issue (.chnew d a) s (fun s x => do
    needClean x.t.r a
    match x.t.phase with
    | some (.claiming i e pkg core l) => claimChan s x d i e pkg core l
    | _ =>
      let (l, s) ← descLoad s x (rd x.t.r a) 8
      orTrap (chdescOk l) .operandRange
      let w := (l[0]?).getD 0
      let home ← (if w.getLsbD 4 then homeCheck s x x.t.dom ((l[1]?).getD 0) else pure (.here x.r.core))
      let target := (l[4]?).getD 0
      if w.getLsbD 3 then
        match relayOk s x target with
        | .error (.miss, s) => tabHold s
        | .error (.fault c, s) => answer (tabDrop (tabLog s x c) x.t.uid) x d (refusalWord c)
        | .ok (false, _) => throw (plainTrap .operandRange)
        | .ok (true, s) => createFar s x d l home
      else createFar s x d l home)

/-- The patterns of a JMU that name a channel. -/
def patsOf (j : Jmu) (h : Word) : List Pat := j.pats.filter (fun p => p.chans.contains h)

/-- A record of a channel's ring as its home reads it: whole, with an error of its line, or not at all. -/
inductive RingRec where
  | whole (m : Msg)
  | bad (c : Cause) (bytes : List Byte)
  | lost (c : Cause)
deriving DecidableEq, Repr

/-- Record `i` after the head of a ring (R161, R162); the error is a miss that is being served. -/
def ringRec (s : State) (c : CoreId) (q : Chan) (i : Nat) : Except State (RingRec × State) :=
  match devRead s (ringAgent c q) (ringAddr q i) 64 with
  | .error (.miss, s) => .error s
  | .error (.fault e, s) =>
    if e = .uncorrectableData ∨ e = .checkValueMismatch then
      match devXlate s (ringAgent c q) (ringAddr q i) .load with
      | .ok (pa, s) => .ok (.bad e (memBytes s.mem pa 64), s)
      | .error (_, s) => .ok (.lost e, s)
    else .ok (.lost e, s)
  | .ok (l, p, s) => .ok (.whole { recordMsg l with pois := p }, s)

/-- The records of a channel's ring, oldest first. -/
def ringRecs (s : State) (c : CoreId) (q : Chan) (i n : Nat) : Except State (List RingRec × State) :=
  match n with
  | 0 => .ok ([], s)
  | k + 1 =>
    match ringRec s c q i with
    | .error s => .error s
    | .ok (r, s) =>
      match ringRecs s c q (i + 1) k with
      | .error s => .error s
      | .ok (t, s) => .ok (r :: t, s)

/-- A record whose read met a data error is reported to the channel's domain with its bytes as read, poisoned (R162). -/
def reportRecord (s : State) (h : Word) (e : Cause) (bytes : List Byte) : State :=
  let (a, s) := writeLog s (hDom h) bytes
  let s := match devXlate s (elandAgent (hDom h) 1) a .load with
    | .ok (pa, s) => if a = 0 then s else { s with memPois := setIns s.memPois (pa / 64) }
    | .error (_, s) => s
  reportWith s (hDom h) e ⟨0, now s, duikerSid s, 0, false, 0, false⟩ h (some a) false

/-- A record that leaves a destroyed channel (R161, R162, R183): one that no translation reaches can only be counted. -/
def dropRecord (s : State) (c : CoreId) (h : Word) (r : RingRec) : State :=
  match r with
  | .whole m => reportHeld s m .channelDestroyed
  | .bad e bytes => reportRecord s h e bytes
  | .lost e => lostReport s (hDom h) (coreSid s c (hDom h)) e h.toNat

/-- An entry with another STATE (R157). -/
def entWith (e : Word) (st : Nat) : Word := BitVec.ofNat 64 (e.toNat / 2 ^ 48 * 2 ^ 48 + st * 2 ^ 46 + e.toNat % 2 ^ 46)

/-- R183. The ring is read before anything is destroyed; the instruction waits while a page of it or of the table is missed. -/
def execChfree (a : BitVec 5) (s : State) : Out :=
  issue (.chfree a) s (fun s x => do
    needClean x.t.r a
    let h := rd x.t.r a
    chanCheck x h
    withChan s x h (fun _ s => .ok (s, .seq)) (fun _ s => .ok (s, .seq)) (fun c q e s =>
      match ringRecs s c q 0 q.nring with
      | .error s => tabHold s
      | .ok (rs, s) =>
        match tabWrite s (tableAgent x.r.core (hDom h)) (hDom h) (hIdx h) x.t.uid e (entWith e 0) false with
        | .error (.miss, s) => tabHold s
        | .error (.fault e, s) => .ok (tabLog s x e, .seq)
        | .ok (_, s) =>
          let s := updJmu s c (fun j => { j with pats := j.pats.filter (fun p => !p.chans.contains h),
                                                 chans := j.chans.filter (fun k => k.handle != h) })
          .ok ((q.held.map RingRec.whole ++ rs).foldl (fun s r => dropRecord s c h r) s, .seq)))

/-- The used pairs of a region set (R184). -/
def regionPairs (l : List Word) : List (Word × Word) :=
  match l with
  | b :: n :: t => if n = 0 then regionPairs t else (b, n) :: regionPairs t
  | _ => []

/-- A used pair obeys R184. -/
def pairOk (p : Word × Word) : Bool :=
  p.1.toNat % 64 == 0 && p.2.toNat % 64 == 0 && decide (p.1.toNat + p.2.toNat ≤ 2 ^ 56)

/-- Two used pairs overlap. -/
def pairsOverlap (l : List (Word × Word)) : Bool :=
  match l with
  | [] => false
  | p :: t => t.any (fun q => decide (p.1.toNat < q.1.toNat + q.2.toNat) && decide (q.1.toNat < p.1.toNat + p.2.toNat)) || pairsOverlap t

/-- R184. -/
def execChbind (a b : BitVec 5) (s : State) : Out :=
  issue (.chbind a b) s (fun s x => do
    needCleanAll x.t.r [a, b]
    let h := rd x.t.r a
    chanCheck x h
    let (l, s) ← descLoad s x (rd x.t.r b) 8
    withChan s x h (fun _ s => .ok (s, .seq))
      (fun _ s => do
        orTrap ((regionPairs l).all pairOk) .operandRange
        orTrap (!pairsOverlap (regionPairs l)) .regionBindConflict
        pure (s, .seq))
      (fun c q _ s => do
        orTrap ((regionPairs l).all pairOk) .operandRange
        orTrap (!pairsOverlap (regionPairs l)) .regionBindConflict
        pure (updChan s c q.handle (fun q => { q with regions := regionPairs l }), .seq)))

/-- Field T, A, V, NCH, PRIV, SERIAL, PRIO of a pattern descriptor (R168). -/
structure PatDesc where
  t : Nat
  a : Nat
  v : Nat
  nch : Nat
  priv : Nat
  serial : Bool
  prio : Nat
  chans : List Word
deriving DecidableEq, Repr

/-- R168. -/
def patDesc (l : List Word) : PatDesc :=
  let g (i : Nat) : Word := (l[i]?).getD 0
  let w := g 0
  { t := bitsOf w 18 4, a := bitsOf w 14 4, v := bitsOf w 8 6, nch := bitsOf w 6 2 + 1, priv := bitsOf w 4 2, serial := w.getLsbD 3,
    prio := bitsOf w 0 3, chans := (l.drop 4).take (bitsOf w 6 2 + 1) }

/-- Item 1 of R185. -/
def patFieldsOk (dom : Nat) (l : List Word) : Bool :=
  let g (i : Nat) : Word := (l[i]?).getD 0
  let p := patDesc l
  bitsOf (g 0) 22 42 == 0 && g 3 == 0 && p.priv != 3 && decide (p.v ≤ 32) && decide (p.a ≤ 8) && decide (p.t ≤ 8) &&
    p.chans.dedup.length == p.chans.length && p.chans.all (fun h => h != 0) && (l.drop (4 + p.nch)).all (fun h => h == 0) &&
    p.chans.all (fun h => bitsOf h 0 16 == 0 && hDom h == dom)

/-- The entries of a pattern's channels, or the first cause of item 2 of R185. -/
def patEntries (s : State) (x : Ctx) (l : List Word) : Except (DevErr × State) (List Word × Option Cause × State) :=
  match l with
  | [] => .ok ([], none, s)
  | h :: t =>
    match tabRead s (tableAgent x.r.core (hDom h)) (hDom h) (hIdx h) x.t.uid with
    | .error e => .error e
    | .ok (e, s) =>
      match patEntries s x t with
      | .error e => .error e
      | .ok (es, c, s) => .ok (e :: es, (match entCause h e with | some k => some k | none => c), s)

/-- The lowest free pattern index. -/
def freeIdx (c : CoreId) (j : Jmu) : Option Nat := (List.range (jmuPats c)).find? (fun i => j.pats.all (fun p => p.idx != i))

/-- A pattern descriptor checked at its home from item 5 of R185, and installed. -/
def installPat (s : State) (x : Ctx) (c : CoreId) (l : List Word) : Except Cause (Nat × State) :=
  let p := patDesc l
  let j := (getCore s c).jmu
  if privNum x.t.priv < p.priv ∨ (p.priv = 2 ∧ c.kind = .compute) then .error .privileged
  else if p.chans.any (fun h => (findChan s c h).isNone) then .error .channelDestroyed
  else match freeIdx c j with
    | none => .error .patternTableFull
    | some i =>
      if p.chans.any (fun h => decide (8 ≤ (patsOf j h).length)) then .error .patternTableFull
      else
        let (v, a, t) := poolOf c (getCore s c).pword
        if v < p.v ∨ a < p.a ∨ t < p.t then .error .frameUnadmittable
        else
          let g (i : Nat) : Word := (l[i]?).getD 0
          let q : Pat := { idx := i, prio := p.prio, serial := p.serial, priv := privOf p.priv, v := p.v, a := p.a, t := p.t,
                           body := g 1, sbase := (g 2).setWidth 32, sstride := ((g 2) >>> 32).setWidth 32, chans := p.chans, live := false,
                           key := s.uid }
          .ok (i, updJmu { s with uid := s.uid + 1 } c (fun j => { j with pats := j.pats ++ [q] }))

/-- `patadd` with a home in another package (R185): item 5 is decided here, items 6 and 7 and the index there (log 16). -/
def installFar (s : State) (x : Ctx) (e : Word) (p : PatDesc) : Word × State :=
  if privNum x.t.priv < p.priv ∨ (p.priv = 2 ∧ bitsOf e 16 4 = 0) then (refusalWord .privileged, s)
  else
    let (n, s) := remotePick s 258
    (if n < 256 then BitVec.ofNat 64 n else if n = 256 then refusalWord .patternTableFull else refusalWord .frameUnadmittable, s)

/-- R185. -/
def execPatadd (d a : BitVec 5) (s : State) : Out :=
  issue (.patadd d a) s (fun s x => do
    needClean x.t.r a
    let (l, s) ← descLoad s x (rd x.t.r a) 8
    let fin (s : State) (v : Word) : Except Stop (State × Next) := answer (tabDrop s x.t.uid) x d v
    if !patFieldsOk x.t.dom l then fin s (refusalWord .patternInvalid)
    else match patEntries s x (patDesc l).chans with
      | .error (.miss, s) => tabHold s
      | .error (.fault c, s) => fin (tabLog s x c) (refusalWord c)
      | .ok (_, some c, s) => fin s (refusalWord c)
      | .ok (es, none, s) =>
        let e0 := (es[0]?).getD 0
        if es.any entRelay then fin s (refusalWord .patternInvalid)
        else if es.any (fun e => bitsOf e 16 26 != bitsOf e0 16 26) then fin s (refusalWord .patternHomeMismatch)
        else if entPkg e0 ≠ s.pkg then let (v, s) := installFar s x e0 (patDesc l); fin s v
        else match entHome e0 with
          | none => fin s (refusalWord .channelDestroyed)
          | some c =>
            match installPat s x c l with
            | .error e => fin s (refusalWord e)
            | .ok (i, s) => fin s (BitVec.ofNat 64 i))

/-- R186. -/
def execPatdel (a b : BitVec 5) (s : State) : Out :=
  issue (.patdel a b) s (fun s x => do
    needCleanAll x.t.r [a, b]
    let h := rd x.t.r a
    chanCheck x h
    let i := (rd x.t.r b).toNat
    withChan s x h (fun _ s => .ok (s, .seq))
      (fun _ s => do
        -- whether the pattern at the index has this channel 0 is the other package's to say (log 16)
        let (n, s) := remotePick s 2
        orTrap (decide (i ≤ 255) && n == 0) .patternInvalid
        pure (s, .seq))
      (fun c _ _ s =>
        let j := (getCore s c).jmu
        if i ≤ 255 ∧ j.pats.any (fun p => p.idx == i && p.chans.head? == some h) then
          .ok (updJmu s c (fun j => { j with pats := j.pats.filter (fun p => p.idx != i) }), .seq)
        else .error (plainTrap .patternInvalid)))

/-- The channel status word (R187). -/
def chanStatus (s : State) (c : CoreId) (q : Chan) : Word :=
  let npat := (patsOf (getCore s c).jmu q.handle).length
  let held := if q.count then natN 32 q.counter else q.held.length + q.nring
  BitVec.ofNat 64 (2 ^ 62 + (if q.count then 2 ^ 61 else 0) + (if q.relay then 2 ^ 60 else 0) + q.scope * 2 ^ 58 +
    q.regions.length % 8 * 2 ^ 55 + npat % 16 * 2 ^ 51 + (if q.count then 0 else q.held.length % 4096 * 2 ^ 32) + held % 2 ^ 32)

/-- The status word of a channel homed in another package (R187): what the entry does not say, that package answers
(log 16). A relay has no pattern (R169), a COUNT channel no slot; a FIFO channel's messages are those in slots and those of the
ring. -/
def statusFar (s : State) (e : Word) : Word × State :=
  let (v, s) := remoteWord s
  let inslot := if entCount e then 0 else v.toNat / 2 ^ 32 % 2049
  let low := if entCount e then v.toNat % 2 ^ 32 else inslot + v.toNat % (2 ^ 24 + 1)
  let npat := if entRelay e then 0 else v.toNat / 2 ^ 51 % 9
  (BitVec.ofNat 64 (2 ^ 62 + (if entCount e then 2 ^ 61 else 0) + (if entRelay e then 2 ^ 60 else 0) + entScope e * 2 ^ 58 +
    v.toNat / 2 ^ 56 % 5 * 2 ^ 55 + npat * 2 ^ 51 + inslot * 2 ^ 32 + low), s)

/-- R187. -/
def execChstat (d a : BitVec 5) (s : State) : Out :=
  issue (.chstat d a) s (fun s x => do
    needClean x.t.r a
    let h := rd x.t.r a
    chanCheck x h
    withChan s x h (fun c s => answer s x d (refusalWord c)) (fun e s => let (v, s) := statusFar s e; answer s x d v)
      (fun c q _ s => answer s x d (chanStatus s c q)))

/-- The group of channels: those joined to it by patterns, transitively (R188); `n` rounds. -/
def groupOf (j : Jmu) (g : List Word) (n : Nat) : List Word :=
  match n with
  | 0 => g
  | k + 1 => groupOf j ((g ++ (j.pats.filter (fun p => p.chans.any (fun h => g.contains h))).flatMap (fun p => p.chans)).dedup) k

/-- The patterns of a group. -/
def groupPats (j : Jmu) (g : List Word) : List Pat := j.pats.filter (fun p => p.chans.any (fun h => g.contains h))
/-- A firing of a group's pattern awaits admission. -/
def groupFiring (g : List Word) (f : Firing) : Bool :=
  match f.what with | .pattern p _ _ => p.chans.any (fun h => g.contains h) | _ => false

/-- A JMU without a group. -/
def dropGroup (j : Jmu) (g : List Word) : Jmu :=
  { j with chans := j.chans.filter (fun q => !g.contains q.handle), pats := j.pats.filter (fun p => !p.chans.any (fun h => g.contains h)),
           queue := j.queue.filter (fun f => !groupFiring g f) }

/-- Messages renumbered in ascending order of their old sequences at a new home (R188, R337). -/
def reSeq (base : Nat) (olds : List Nat) (n : Nat) : Nat := base + (olds.filter (fun m => decide (m < n))).length

/-- Free pattern indices of a JMU, ascending. -/
def freeIdxs (c : CoreId) (j : Jmu) : List Nat := (List.range (jmuPats c)).filter (fun i => j.pats.all (fun p => p.idx != i))

/-- A group moved from one core's JMU to another's (R188): its channels, patterns and firings awaiting admission, with new
sequences and pattern indices; the forwarding entries last until the move's end has set their time (R175); a live SERIAL strand, saved or not, follows its pattern's new index. -/
def moveGroup (s : State) (src dst : CoreId) (g : List Word) : State :=
  let j := (getCore s src).jmu
  let k := (getCore s dst).jmu
  let chans := j.chans.filter (fun q => g.contains q.handle)
  let pats := groupPats j g
  let fires := j.queue.filter (groupFiring g)
  let olds := chans.flatMap (fun q => q.held.map (fun m => m.seq) ++ (match q.present with | some n => [n] | none => []))
  let seqOf := reSeq k.seq olds
  let mv (q : Chan) : Chan := { q with held := q.held.map (fun m => { m with seq := seqOf m.seq }), present := q.present.map seqOf, spilled := false }
  let idxs := List.zip (pats.map (fun p => p.idx)) (freeIdxs dst k)
  let re (i : Nat) : Nat := (aget idxs i).getD i
  let mp (p : Pat) : Pat := { p with idx := re p.idx }
  let mf (f : Firing) : Firing := match f.what with
    | .pattern p ms rs => { f with what := .pattern (mp p) ms rs }
    | _ => f
  let s := updJmu s src (fun j => dropGroup
    { j with fwds := j.fwds.filter (fun f => !g.contains f.handle) ++ g.map (fun h => ⟨h, dst, 2 ^ 64, none⟩) } g)
  let s := updJmu s dst (fun k =>
    { k with seq := k.seq + olds.length, chans := k.chans ++ chans.map mv, pats := k.pats ++ pats.map mp,
             queue := k.queue ++ fires.map mf, fwds := k.fwds.filter (fun f => !g.contains f.handle) })
  let ro (o : Origin) (path : Word) : Origin := match o with
    | .pattern i k => if g.contains path then .pattern (re i) k else o
    | _ => o
  { s with cores := s.cores.map (fun c => (c.1, { c.2 with strands := c.2.strands.map (fun y =>
             (y.1, { y.2 with origin := ro y.2.origin y.2.path })) })),
           doms := s.doms.map (fun d => (d.1, { d.2 with origins := d.2.origins.map (fun x => { x with origin := ro x.origin x.path }) })) }

/-- The new home has room for a group, or the cause of the refusal (R188); room for its firings in the admission queue of 64 is asked
too (log 71 DESIGN CHOICE). -/
def moveRoom (s : State) (src dst : CoreId) (g : List Word) : Option Cause :=
  let j := (getCore s src).jmu
  let k := (getCore s dst).jmu
  let chans := j.chans.filter (fun q => g.contains q.handle)
  let slots := chans.foldl (fun n q => n + q.slots) 0
  let used := chans.foldl (fun n q => n + (slotsUsed j q - q.slots)) 0
  if jmuChans dst < liveChans k + chans.length ∨ jmuReserve dst < reserved k + slots ∨
      jmuSlots dst < reserved k + sharedUsed k + slots + used ∨ 64 < k.queue.length + (j.queue.filter (groupFiring g)).length then some .channelQuota
  else if jmuPats dst < k.pats.length + (groupPats j g).length then some .patternTableFull
  else none

/-- The entries of a group, as its table holds them (R188); none of them may be beyond an atomic's reach. -/
def groupEntries (s : State) (x : Ctx) (l : List Word) : Except (DevErr × State) (List (Word × Word) × State) :=
  match l with
  | [] => .ok ([], s)
  | h :: t =>
    let g := tableAgent x.r.core (hDom h)
    match tabRead s g (hDom h) (hIdx h) x.t.uid with
    | .error e => .error e
    | .ok (e, s) =>
      match (match entAddr s (hDom h) (hIdx h) with
          | some a => devXlate s { g with dom := hDom h, priv := 1 } a .atomic true
          | none => .ok (0, s)) with
      | .error (.miss, s) => .error (.miss, s)
      | .error (.fault c, s) =>
        if c = .pageNotLocal then (groupEntries s x t).map (fun r => ((h, e) :: r.1, r.2)) else .error (.fault c, s)
      | .ok (_, s) => (groupEntries s x t).map (fun r => ((h, e) :: r.1, r.2))

/-- A strand's move (R188). -/
def moveOf (s : State) (uid : Nat) : Option Move := s.moves.find? (fun m => m.uid == uid)
/-- A move written, in place of the strand's earlier one. -/
def setMove (s : State) (m : Move) : State := { s with moves := s.moves.filter (fun n => n.uid != m.uid) ++ [m] }
/-- A move ended. -/
def endMove (s : State) (uid : Nat) : State := { s with moves := s.moves.filter (fun n => n.uid != uid) }

/-- The entry writes of a move's stage, one after another; those done are not done again. -/
def moveWrites (s : State) (x : Ctx) (m : Move) (l : List (Word × Word × Word)) : Except (DevErr × State) State :=
  match l with
  | [] => .ok s
  | (h, old, new) :: t =>
    match tabWrite s (tableAgent x.r.core (hDom h)) (hDom h) (hIdx h) x.t.uid old new false with
    | .error e => .error e
    | .ok (_, s) => moveWrites (setMove s { m with todo := t }) x m t

/-- An entry with a new home, live (R157, R188). -/
def entMoved (e : Word) (pkg : Nat) (c : CoreId) : Word :=
  mkEntry (hGen e) 1 (entCount e) (entRelay e) (entScope e) pkg c (bitsOf e 14 2)

/-- Channels marked spilled, as those of a group that moves are (R175), or as they were. -/
def spillMarks (s : State) (c : CoreId) (g : List Word) (f : Word → Bool) : State :=
  updJmu s c (fun j => { j with chans := j.chans.map (fun q => if g.contains q.handle then { q with spilled := f q.handle } else q) })

/-- A group leaves for another package, to which its old home forwards for 1 ms (R175, R188). -/
def leaveGroup (s : State) (c dst : CoreId) (pkg : Nat) (g : List Word) : State :=
  updJmu s c (fun j => dropGroup
    { j with fwds := j.fwds.filter (fun f => !g.contains f.handle) ++ g.map (fun h => ⟨h, dst, now s + 1000000, some pkg⟩) } g)

/-- The forwarding entries of a move that is over last 1 ms (R175, R188). -/
def stampFwds (s : State) (c : CoreId) (g : List Word) : State :=
  updJmu s c (fun j => { j with fwds := j.fwds.map (fun f => if g.contains f.handle then { f with until_ := now s + 1000000 } else f) })

/-- Stage 3 of a move that a table fault stops (R158): the entries get back what they held, and the fault refuses. -/
def moveUndo (s : State) (x : Ctx) (m : Move) : Except (DevErr × State) (Option Cause × State) :=
  match moveWrites s x m m.todo with
  | .error (.miss, s) => .error (.miss, s)
  | .error (.fault e, s) => .ok (some m.cause, endMove (spillMarks (tabLog s x e) m.src m.group (fun h => m.spilled.contains h)) x.t.uid)
  | .ok s => .ok (some m.cause, endMove (spillMarks s m.src m.group (fun h => m.spilled.contains h)) x.t.uid)

/-- The entries of a move's group that hold something else than before get it back. -/
def undoFrom (s : State) (x : Ctx) (m : Move) (done : List (Word × Word)) (c : Cause) : Except (DevErr × State) (Option Cause × State) :=
  let m := { m with stage := 3, cause := c, todo := done.map (fun p => (p.1, entWith p.2 2, p.2)) }
  moveUndo (setMove (tabLog s x c) m) x m

/-- Stage 2 (R188): the entries name the new home; the group has moved, or leaves for another package. -/
def moveFinal (s : State) (x : Ctx) (m : Move) : Except (DevErr × State) (Option Cause × State) :=
  match moveWrites s x m m.todo with
  | .error (.miss, s) => .error (.miss, s)
  | .error (.fault e, s) =>
    undoFrom (match m.pkg with | none => stampFwds (moveGroup s m.dst m.src m.group) m.dst m.group | some _ => s) x m m.olds e
  | .ok s =>
    let s := match m.pkg with | none => stampFwds s m.src m.group | some p => leaveGroup s m.src m.dst p m.group
    .ok (none, endMove s x.t.uid)

/-- Stage 1 (R188): every entry of the group reads STATE 2; then the group moves. -/
def moveMark (s : State) (x : Ctx) (m : Move) : Except (DevErr × State) (Option Cause × State) :=
  match moveWrites s x m m.todo with
  | .error (.miss, s) => .error (.miss, s)
  | .error (.fault e, s) =>
    let left := match moveOf s x.t.uid with | some n => n.todo | none => m.todo
    undoFrom s x m (m.olds.filter (fun p => left.all (fun t => t.1 != p.1))) e
  | .ok s =>
    let s := match m.pkg with | none => moveGroup s m.src m.dst m.group | some _ => s
    let m := { m with stage := 2, todo := m.olds.map (fun p => (p.1, entWith p.2 2, entMoved p.2 (m.pkg.getD s.pkg) m.dst)) }
    moveFinal (setMove s m) x m

/-- A move goes on from where it stands; the refusal of one that is undone. -/
def moveOn (s : State) (x : Ctx) (m : Move) : Except (DevErr × State) (Option Cause × State) :=
  if m.stage = 1 then moveMark s x m else if m.stage = 2 then moveFinal s x m else moveUndo s x m

/-- A group's move begins (R188): the entries are read, the group's channels spill, and the entries are marked. -/
def moveStart (s : State) (x : Ctx) (src dst : CoreId) (pkg : Option Nat) (g : List Word) : Except (DevErr × State) (Option Cause × State) :=
  match groupEntries s x g with
  | .error e => .error e
  | .ok (es, s) =>
    let was := ((getCore s src).jmu.chans.filter (fun q => g.contains q.handle && q.spilled)).map (fun q => q.handle)
    let m : Move := { uid := x.t.uid, group := g, src := src, dst := dst, pkg := pkg, stage := 1,
                      todo := es.map (fun p => (p.1, p.2, entWith p.2 2)), olds := es, spilled := was, cause := .none }
    moveMark (setMove (spillMarks s src g (fun _ => true)) m) x m

/-- A group with a pattern of PRIV H does not move to a compute core (R9, log 71). -/
def movePriv (s : State) (src dst : CoreId) (g : List Word) : Bool :=
  dst.kind == .compute && (groupPats (getCore s src).jmu g).any (fun p => p.priv == .h)

/-- The answer of a move. -/
def moveAnswer (x : Ctx) (d : BitVec 5) (o : Except (DevErr × State) (Option Cause × State)) : Except Stop (State × Next) :=
  match o with
  | .error (.miss, s) => tabHold s
  | .error (.fault e, s) => answer (tabLog s x e) x d (refusalWord e)
  | .ok (some e, s) => answer s x d (refusalWord e)
  | .ok (none, s) => answer s x d 0

/-- The first checks of a move and its beginning (R188). The home's own core and a domain without a table come first (R157). -/
def moveGo (s : State) (x : Ctx) (d : BitVec 5) (h : Word) (home : HomeSel) (w : Word) : Except Stop (State × Next) :=
  if areaBase (getDom s (hDom h)).chtab = 0 then answer s x d (refusalWord .channelQuota)
  else
    withChan s x h (fun c s => answer s x d (refusalWord c))
      (fun _ s =>
        let (n, s) := remotePick s 3
        answer s x d (if n = 0 then 0 else refusalWord (if n = 1 then .channelQuota else .patternTableFull)))
      (fun c _ _ s =>
        let g := groupOf (getCore s c).jmu [h] 256
        match home with
        | .here dst =>
          if dst = c then answer s x d 0
          else if movePriv s c dst g then answer s x d (refusalWord .privileged)
          else (match moveRoom s c dst g with
            | some e => answer s x d (refusalWord e)
            | none => moveAnswer x d (moveStart s x c dst none g))
        | .other p =>
          -- the other package has room for the group, or refuses it, or knows no such home (log 16)
          let dst := (coreOfPlaces w).getD c
          let (n, s) := remotePick s 4
          if n = 1 then answer s x d (refusalWord .channelQuota)
          else if n = 2 then answer s x d (refusalWord .patternTableFull)
          else if n = 3 then throw (plainTrap .operandRange)
          else if movePriv s c dst g then answer s x d (refusalWord .privileged)
          else moveAnswer x d (moveStart s x c dst (some p) g)
        | .bad => throw (plainTrap .operandRange))

/-- R188. A move that waits for the table goes on where it stood. -/
def execChmove (d a b : BitVec 5) (s : State) : Out :=
  issue (.chmove d a b) s (fun s x => do
    needCleanAll x.t.r [a, b]
    match moveOf s x.t.uid with
    | some m => tabDone x (moveAnswer x d (moveOn s x m))
    | none =>
      let h := rd x.t.r a
      chanCheck x h
      let home ← homeCheck s x (hDom h) (rd x.t.r b)
      moveGo s x d h home (rd x.t.r b))

end Sys2Proof.Machine
end

