-- ==== Sys2Proof/Machine/Match.lean ====
section
/-! DEFINITION. What happens to messages on their way and at their homes: arrivals (R155, R159–R164, R174, R175, R177), match
decisions (R170–R172), ring reads (R162), spilled records (R175), forwarding entries, host sends (R178). -/

namespace Sys2Proof.Machine

/-- A message in flight removed. -/
def dropFlight (s : State) (id : Nat) : State := { s with flight := s.flight.filter (fun f => f.id != id) }
/-- A message's next place, which it reaches in this cycle. -/
def setAt (s : State) (id : Nat) (c : CoreId) : State :=
  { s with flight := s.flight.map (fun f => if f.id = id then { f with at_ := some c, reach := s.cycle } else f) }

/-- A message that is not placed: reported, its table answers dropped. -/
def dropReport (s : State) (f : Flight) (c : Cause) : State := reportSend (tabDrop (dropFlight s f.id) f.id) f c

/-- A message offered to its home core (R160–R164, R175): a JMU accepts one arrival in a cycle (R155). -/
def offerMsg (s : State) (f : Flight) (c : CoreId) (q : Chan) : State :=
  if s.cycle < (getCore s c).jmu.acceptAt then s
  else
    let taken (s' : State) : State := updJmu s' c (fun j => { j with acceptAt := s.cycle + 1 })
    match placeMsg s c q f.m f.dom f.rep with
    | .ok s => wakeCore (taken (tabDrop (dropFlight s f.id) f.id)) c
    | .refused e s => taken (dropReport s f e)
    | .later s' => updJmu s' c (fun j => { j with seq := (getCore s c).jmu.seq })

/-- The die through whose home cache a core's messages go; other messages go through Eland, which has none (R155, R158,
R159). -/
def sendDie (c : CoreId) : Option Nat := match c.kind with | .compute | .markhor => some c.die | _ => none

/-- The sending die's cache entry of a channel is invalidated (R159). -/
def dropHome (s : State) (f : Flight) : State :=
  match sendDie f.src with
  | none => s
  | some n => let d := getDie s n; setDie s n { d with homeCache := adel d.homeCache f.m.handle }

/-- Entries of a home cache (R159). -/
def homeCap : Nat := 8192

/-- An entry read is kept in the sending die's cache (R159); a full cache displaces its oldest one (log 72). -/
def keepHome (s : State) (f : Flight) (e : Word) : State :=
  match sendDie f.src with
  | none => s
  | some n =>
    let d := getDie s n
    let l := adel d.homeCache f.m.handle
    setDie s n { d with homeCache := (if homeCap ≤ l.length then l.drop 1 else l) ++ [(f.m.handle, e)] }

/-- The entry of a channel in the sending die's cache. -/
def cachedHome (s : State) (f : Flight) : Option Word := (sendDie f.src).bind (fun n => aget (getDie s n).homeCache f.m.handle)

/-- The package to which a message in `away` goes. -/
def awayTo (s : State) (id : Nat) : Option Nat :=
  (s.vcOut.find? (fun v => v.unacked.any (fun u => u.id == id) || v.waiting.any (fun u => u.2 == id))).map (fun v => v.dst)

/-- The route of a channel has changed while messages sent on the old one are not yet placed (R174): a new message is held. -/
def routeHeld (s : State) (h : Word) (dst : Option Nat) : Bool := s.away.any (fun g => g.m.handle == h && awayTo s g.id != dst)

/-- A message that goes to another package (R173, R174, R374). Behind 4,096 packets that are not acknowledged it waits, and counts
for its sender (R181, R380). -/
def toPackage (s : State) (f : Flight) (p : Nat) : State :=
  if routeHeld s f.m.handle (some p) then s
  else if s.deadLinks.contains p then dropReport s f .linkDead
  else if 4096 ≤ (vcOf s p).unacked.length + (vcOf s p).waiting.length then s
  else vcMessage (tabDrop s f.id) p f

/-- A message at a core (R159, R175): placed at its channel, forwarded, or routed from the entry read afresh. -/
def arriveAt (s : State) (f : Flight) (c : CoreId) : State :=
  match findChan s c f.m.handle with
  | some q => offerMsg s f c q
  | none =>
    match (getCore s c).jmu.fwds.find? (fun w => w.handle == f.m.handle && decide (now s < w.until_)) with
    | some w => (match w.pkg with | some p => toPackage s f p | none => setAt s f.id w.home)
    | none =>
      let s := dropHome s f
      match tabRead s (tableAgent c (hDom f.m.handle)) (hDom f.m.handle) (hIdx f.m.handle) f.id with
      | .error (.miss, s) => s
      | .error (.fault e, s) => dropReport (logEvent s f.m.sender e f.m.handle.toNat) f e
      | .ok (e, s) =>
        match entCause f.m.handle e with
        | some .channelMoved => tabDrop s f.id
        | some k => dropReport s f k
        | none =>
          if entPkg e ≠ s.pkg then toPackage s f (entPkg e)
          else match entHome e with
            | none => dropReport s f .channelDestroyed
            | some h => if h = c then dropReport s f .channelDestroyed else setAt (tabDrop s f.id) f.id h

/-- A message that has not left its sender: routed by the die's home cache, or by the entry, which the die or Eland reads
(R158, R159). Its home takes it in a later event, among all that reach it (R155). -/
def leaveSender (s : State) (f : Flight) : State :=
  let h := f.m.handle
  let go (s : State) (e : Word) : State :=
    if entPkg e ≠ s.pkg then toPackage s f (entPkg e)
    else if routeHeld s h none then s
    else match entHome e with
      | none => dropReport s f .channelDestroyed
      | some c => setAt s f.id c
  match cachedHome s f with
  | some e => go s e
  | none =>
    let g := match sendDie f.src with | some n => tableAgent (computeId n 0 0) (hDom h) | none => elandAgent (hDom h) 1
    match tabRead s g (hDom h) (hIdx h) f.id with
    | .error (.miss, s) => s
    | .error (.fault e, s) => dropReport (logEvent s f.m.sender e h.toNat) f e
    | .ok (e, s) =>
      match entCause h e with
      | some .channelMoved => tabDrop s f.id
      | some k => dropReport s f k
      | none => go (tabDrop (keepHome s f e) f.id) e

/-- The filter's verdict for a message that crosses domains (R177): it may pass, with the counts of the interval. -/
def filterPass (s : State) (src dst : Nat) : Bool × State :=
  let w := (aget s.filter (src, dst)).getD 0
  let act := bitsOf (w.setWidth 64) 0 2
  let rate := bitsOf (w.setWidth 64) 16 16
  if act = 2 then (true, s)
  else if act = 3 then
    let t := now s / 1000
    let n := match aget s.filterCount (src, dst) with | some (t', n) => if t' = t then n else 0 | none => 0
    if n < rate then (true, { s with filterCount := aset s.filterCount (src, dst) (t, n + 1) }) else (false, s)
  else (false, s)

/-- A message moves on: its place in its sender's order (R174), the release of the send, for which the device drains all of the
sender's earlier writes (R176), the send unit (R181), the filter (R177), then its route. -/
def execMessageArrival (id : Nat) (s : State) : Out :=
  match s.flight.find? (fun f => f.id == id) with
  | none => .next s
  | some f =>
    let before := s.flight.takeWhile (fun g => g.id != id)
    if before.any (fun g => g.uid == f.uid && g.m.handle == f.m.handle) ∨ !belowDone s f.src f.uid f.floor (ownOpeners s f.uid) 2 then
      .next s
    else if f.at_.isNone ∧ f.uid ≠ 0 ∧ s.cycle < (getCore s f.src).sendAt then .next s
    else
      let cross := hDom f.m.handle != f.dom && !f.rep && !f.passed
      let (ok, s) := if cross then filterPass s f.dom (hDom f.m.handle) else (true, s)
      if !ok then .next (dropReport s f .crossTenantFiltered)
      else
        let s := { s with flight := s.flight.map (fun g => if g.id = id then { g with passed := true } else g) }
        let f := { f with passed := true }
        .next (match f.at_ with
          | some c => arriveAt s f c
          | none =>
            let s' := leaveSender s f
            if f.uid = 0 ∨ s'.flight.any (fun g => g.id == id && g.at_.isNone) then s'
            else updCore s' f.src (fun k => { k with sendAt := s.cycle + 1 }))

/-- The arrival sequence of a channel's present message (R160, R163, R170). -/
def headSeq (q : Chan) : Option Nat :=
  if q.spilled || q.relay then none
  else if q.count then q.present
  else match q.held with | [] => none | m :: _ => some m.seq

/-- The channels of a pattern at its home, in pattern order. -/
def patChans (j : Jmu) (p : Pat) : List Chan := p.chans.filterMap (fun h => j.chans.find? (fun q => q.handle == h))

/-- The pattern is a candidate (R170): the least sequence of its head messages. -/
def candidate (j : Jmu) (p : Pat) : Option Nat :=
  let qs := patChans j p
  if (p.serial && p.live) || qs.length != p.chans.length then none
  else
    let ns := qs.filterMap headSeq
    if ns.length = qs.length then leastBy (fun a b => decide (a < b)) ns else none

/-- The winner of an evaluation (R170): highest PRIO, then the least sequence, then the lowest index. -/
def winner (j : Jmu) : Option Pat :=
  (leastBy (fun a b => lexLt a.1 b.1) (j.pats.filterMap (fun p => (candidate j p).map (fun n => ([7 - p.prio, n, p.idx], p))))).map (fun x => x.2)

/-- The message that a consumption delivers, and the channel after it (R163, R170, R171); `n` is the JMU's next sequence. -/
def consume (q : Chan) (n : Nat) : Msg × Chan × Nat :=
  if q.count then
    let c := sat32 (q.counter + Int.ofNat q.reload)
    let left := decide (c ≤ 0)
    (⟨payload4 (BitVec.ofInt 64 c) (BitVec.ofNat 64 q.arrivals) 0 0, q.lastTime, q.lastSender, q.handle, true, q.present.getD 0, false⟩,
     { q with counter := c, arrivals := 0, present := if left then some n else none }, if left then n + 1 else n)
  else match q.held with
    | m :: t => (m, { q with held := t }, n)
    | [] => (⟨0, 0, 0, q.handle, false, 0, false⟩, q, n)

/-- The channels of a winner consumed in pattern order. -/
def consumeAll (j : Jmu) (hs : List Word) : List Msg × Jmu :=
  match hs with
  | [] => ([], j)
  | h :: t =>
    match j.chans.find? (fun q => q.handle == h) with
    | none => consumeAll j t
    | some q =>
      let (m, q', n) := consume q j.seq
      let (ms, j) := consumeAll { j with seq := n, chans := j.chans.map (fun k => if k.handle = h then q' else k) } t
      (m :: ms, j)

/-- MATCH_DECISION (R170): one evaluation of a core's JMU, which decides a firing at most every two cycles (R14, R155). -/
def execMatchDecision (c : CoreId) (s : State) : Out :=
  let j := (getCore s c).jmu
  match winner j with
  | none => .next s
  | some p =>
    if 64 ≤ j.queue.length ∨ s.cycle < j.decideAt then .next s
    else
      let binds := (patChans j p).map (fun q => (q.scope, q.regions))
      let (ms, j) := consumeAll j p.chans
      let (o, s) := fresh s
      let j := { j with pats := j.pats.map (fun q => if q.idx = p.idx then { q with live := q.serial } else q),
                        queue := j.queue ++ [⟨.pattern p ms binds, p.prio, now s, o⟩], decideAt := s.cycle + 2 }
      .next (updCore s c (fun k => { k with jmu := j }))

/-- A ring read that met a fault (R162): retried every 1 ms, reported once. -/
def ringFault (s : State) (c : CoreId) (q : Chan) (e : Cause) : State :=
  let first := q.retry.isNone
  let s := updChan s c q.handle (fun q => { q with retry := some (now s + 1000000) })
  if first then
    reportWith (logEvent s (coreSid s c (hDom q.handle)) e q.handle.toNat) (hDom q.handle) e ⟨0, now s, duikerSid s, 0, false, 0, false⟩ q.handle none true
  else s

/-- The ring's head record read: a FIFO message into a slot (R160), a `sendc` record applied to its counter (R175), a relay's
message forwarded (R164); a `sendc` record takes a new sequence (log 68). A record whose read met a data error leaves the ring
and is reported (R162). -/
def ringTake (s : State) (c : CoreId) (q : Chan) : State :=
  let pop (q : Chan) : Chan := { q with head := (q.head + 1) % 2 ^ q.ringlog, nring := q.nring - 1, retry := none }
  match ringRec s c q 0 with
  | .error s => s
  | .ok (.lost e, s) => ringFault s c q e
  | .ok (.bad e bytes, s) => reportRecord (updChan s c q.handle pop) q.handle e bytes
  | .ok (.whole m, s) =>
    let m := { m with handle := q.handle }
    if q.count then let (n, s) := nextSeq s c; wakeCore (updChan s c q.handle (fun q => pop (countApply q m n))) c
    else if q.relay then
      let f := ofRecord s 0 m (senderDom m)
      relayMsg (updChan s c q.handle pop) c q m f.dom f.rep
    else wakeCore (updChan s c q.handle (fun q => pop { q with held := q.held ++ [m] })) c

/-- The channel may take a record from its ring. -/
def mayRefill (s : State) (c : CoreId) (q : Chan) : Bool :=
  !q.spilled && q.nring != 0 && (q.count || q.relay || slotFree c (getCore s c).jmu q)

/-- RING_REFILL (R160). -/
def execRingRefill (c : CoreId) (h : BitVec 64) (s : State) : Out :=
  match findChan s c h with
  | none => .next s
  | some q => if mayRefill s c q && !q.count && !q.relay && q.retry.isNone then .next (ringTake s c q) else .next s

/-- RING_READ_RETRY (R162): every 1 ms. -/
def execRingReadRetry (c : CoreId) (h : BitVec 64) (s : State) : Out :=
  match findChan s c h with
  | none => .next s
  | some q =>
    match q.retry with
    | some t => if mayRefill s c q ∧ t ≤ now s then .next (ringTake s c q) else .next s
    | none => .next s

/-- SPILLED_RECORD_APPLY (R175): the records of a COUNT or relay channel that is active again, in ring order. -/
def execSpilledRecordApply (c : CoreId) (h : BitVec 64) (s : State) : Out :=
  match findChan s c h with
  | none => .next s
  | some q => if mayRefill s c q && (q.count || q.relay) && q.retry.isNone then .next (ringTake s c q) else .next s

/-- FORWARDING_ENTRY_EXPIRY (R175): 1 ms after the move. -/
def execForwardingEntryExpiry (c : CoreId) (h : BitVec 64) (s : State) : Out :=
  .next (updJmu s c (fun j => { j with fwds := j.fwds.filter (fun f => f.handle != h || decide (now s < f.until_)) }))

/-- HOST_CHANNEL_SEND (R178): a posted write into BAR2; a malformed or refused one is discarded and counted (R167). -/
def execHostChannelSend (off size : Nat) (data : BitVec 512) (s : State) : Out :=
  let dom := off / 4096 % 256
  let sid := sidOf s.pkg 0 0 0 0 dom 2
  let h := data.setWidth 64
  if size ≠ 64 ∨ off % 64 ≠ 0 ∨ data.extractLsb' 320 192 ≠ 0 then .next (lostReport s dom sid .payloadRange off)
  else if !(accessBits s 6 0 dom).getLsbD 3 then .next (lostReport s dom sid .accessTableDenied off)
  else
    let m : Msg := ⟨data.extractLsb' 64 256, now s, sid, h, false, 0, false⟩
    .next (postMsg s 0 m dom 0 duikerId)

end Sys2Proof.Machine
end

