-- ==== Sys2Proof/Machine/Launch.lean ====
section
/-! DEFINITION. Cards, jobs, dealing and gangs (R189–R198, R202–R208). -/

namespace Sys2Proof.Machine

/-- Fields of a card (R189), word by word. -/
def cw (l : List Word) (i : Nat) : Word := (l[i]?).getD 0

/-- NRANGE of a card. -/
def cardRanges (l : List Word) : List (Nat × Nat) :=
  (List.range (bitsOf (cw l 0) 22 4)).map (fun k => ((cw l (16 + 2 * k)).toNat, (cw l (17 + 2 * k)).toNat))

/-- A forecast range obeys R189. -/
def rangeOk (r : Nat × Nat) : Bool := r.1 % 65536 == 0 && r.2 % 65536 == 0 && r.2 != 0 && decide (r.1 + r.2 ≤ 2 ^ 56)

/-- The core that owns the AFTER timeline (R189, R196). -/
def afterCore (s : State) (l : List Word) : Option CoreId :=
  let w := cw l 9
  if bitsOf w 52 12 = s.pkg ∧ bitsOf w 46 4 < 10 then some (computeId (bitsOf w 50 2) (bitsOf w 46 4) (bitsOf w 42 4)) else none

/-- AFTER is set. -/
def cardAfter (l : List Word) : Bool := (cw l 0).getLsbD 7
/-- PRIV of a card. -/
def cardPriv (l : List Word) : Nat := bitsOf (cw l 0) 4 2
/-- COUNT of a card. -/
def cardCount (l : List Word) : Nat := bitsOf (cw l 5) 0 40
/-- GN of a card. -/
def cardGn (l : List Word) : Nat := bitsOf (cw l 13) 0 13

/-- The fields of a card obey R189 and R205; GLIST's contents are examined apart. ATL 6 and 7 are refused only when AFTER is set
(log 78 DESIGN CHOICE). -/
def cardOk (s : State) (gang : Bool) (l : List Word) : Bool :=
  let w := cw l 0
  let n := bitsOf w 22 4
  bitsOf w 26 38 == 0 && bitsOf w 6 1 == 0 && bitsOf w 3 1 == 0 && bitsOf (cw l 4) 32 32 == 0 && bitsOf (cw l 5) 40 24 == 0 &&
    bitsOf (cw l 6) 40 24 == 0 && bitsOf (cw l 7) 16 48 == 0 && bitsOf (cw l 9) 3 39 == 0 && bitsOf (cw l 13) 13 51 == 0 &&
    cw l 14 == 0 && cw l 15 == 0 && handleZeros (cw l 8) && cardPriv l != 3 && decide (bitsOf w 8 6 ≤ 32) && decide (bitsOf w 14 4 ≤ 8) &&
    decide (bitsOf w 18 4 ≤ 8) && decide (n ≤ 8) && (cardRanges l).all rangeOk && (l.drop (16 + 2 * n)).all (fun x => x == 0) &&
    (!cardAfter l || (decide (bitsOf (cw l 9) 0 3 ≤ 5) && (afterCore s l).isSome)) &&
    (if gang then decide (1 ≤ cardGn l) && decide (cardGn l ≤ 4096) else cw l 11 == 0 && cw l 12 == 0 && cardGn l == 0)

/-- The core set of a job in the package (R190). -/
def coreSet (s : State) (dom : Nat) (clmask : BitVec 40) (cmask : BitVec 16) : List CoreId :=
  (partitionOf s dom).filter (fun c => (clmask == 0 || clmask.getLsbD (10 * c.die + c.clus)) && (cmask == 0 || cmask.getLsbD c.num))

/-- The frame exceeds the word of a core (R15, R205). -/
def frameTooBig (s : State) (v a t : Nat) (c : CoreId) : Bool :=
  let (pv, pa, pt) := poolOf c (getCore s c).pword
  decide (pv < v) || decide (pa < a) || decide (pt < t)

/-- The next free entry of the job table after the one last taken (R203). -/
def freeJob (s : State) : Option Nat :=
  ((List.range 4096).map (fun i => (s.lastJob + 1 + i) % 4096)).find? (fun i => match aget s.jobs i with
    | none => true
    | some j => j.st == .complete)

/-- GEN of an entry taken again: 1 to 0xFFFF (R203). -/
def nextJobGen (s : State) (i : Nat) : Nat := match aget s.jobs i with | none => 1 | some j => if j.gen = 65535 then 1 else j.gen + 1

/-- A job's handle (R203). -/
def jobHandle (s : State) (i : Nat) (j : Job) : Word :=
  BitVec.ofNat 64 (s.pkg * 2 ^ 51 + j.gen * 2 ^ 32 + j.dom * 2 ^ 24 + i)

/-- The dealer's die of a job that a compute core or Markhor spawns (R191). -/
def dealerOf (c : CoreId) : Option Nat := match c.kind with | .compute | .markhor => some c.die | _ => none

/-- The dealer's die of any other job, taken when dealing begins (R191). -/
def lowestDie (s : State) (j : Job) : Option Nat := (coreSet s j.dom j.clmask j.cmask).head?.map (fun c => c.die)

/-- A job from its card (R189). -/
def mkJob (s : State) (gen dom : Nat) (l : List Word) (issuer : Word) (issued order : Nat) (dealer : Option Nat) : Job :=
  let w := cw l 0
  { gen := gen, dom := dom, st := .held, prio := bitsOf w 0 3, priv := privOf (cardPriv l), v := bitsOf w 8 6, a := bitsOf w 14 4,
    t := bitsOf w 18 4, body := cw l 1, sbase := (cw l 2).setWidth 32, sstride := ((cw l 2) >>> 32).setWidth 32, args := cw l 3,
    astride := bitsOf (cw l 4) 0 32, count := cardCount l, clmask := (cw l 6).setWidth 40, cmask := (cw l 7).setWidth 16,
    donech := cw l 8, after := if cardAfter l then (afterCore s l).map (fun c => (c, bitsOf (cw l 9) 0 3, (cw l 10).toNat)) else none,
    start := 0, ranges := cardRanges l, undealt := if cardCount l = 0 then [] else [(0, cardCount l)], dealer := dealer,
    ended := 0, never := 0, outstanding := 0, cause := .none, late := 0, issuer := issuer, issued := issued, order := order,
    gang := none, card := [], ending := [], parent := none, cancelled := false }

/-- A job written. -/
def setJob (s : State) (i : Nat) (j : Job) : State := { s with jobs := aset s.jobs i j }

/-- The chunks of a job that cores hold. -/
def chunksOf (s : State) (i gen : Nat) : List (CoreId × Chunk) :=
  s.cores.flatMap (fun c => (c.2.launchq.filter (fun q => q.job == i && q.gen == gen)).map (fun q => (c.1, q)))

/-- Items in ranges. -/
def rangeCount (l : List (Nat × Nat)) : Nat := l.foldl (fun n r => n + (r.2 - r.1)) 0

/-- The place from which a job's completion is sent: its dealer's die, or Eland (R194, R197). -/
def dealerPlace (j : Job) : CoreId := match j.dealer with | some d => computeId d 0 0 | none => duikerId

/-- A completion message (R194, R197), sent by the issuing strand's identity. -/
def completion (s : State) (src : CoreId) (dom : Nat) (donech issuer handle : Word) (ended never late : Nat) (c : Cause) : State :=
  if donech = 0 then s
  else
    let s19 := min late (2 ^ 32 - 1) * 2 ^ 32 + causeCode c
    postMsg s 0 ⟨payload4 handle (BitVec.ofNat 64 (ended % 2 ^ 40)) (BitVec.ofNat 64 (never % 2 ^ 40)) (BitVec.ofNat 64 s19),
      now s, issuer, donech, false, 0, false⟩ dom 0 src

/-- A member's job as the parent knows it. -/
def setMember (s : State) (i pkg : Nat) (f : Member → Member) : State :=
  match aget s.jobs i with
  | none => s
  | some j => setJob s i { j with gang := j.gang.map (fun ms => ms.map (fun m => if m.pkg = pkg then f m else m)) }

/-- A gang is complete when all of its completions have been sent (R206). -/
def gangCheck (s : State) (i : Nat) : State :=
  match aget s.jobs i with
  | none => s
  | some j =>
    match j.gang with
    | none => s
    | some ms =>
      if j.st = .dealing ∧ ms.all (fun m => m.done) then setJob s i { j with st := .complete, ended := ms.foldl (fun n m => n + m.ended) 0 }
      else setJob s i { j with ended := ms.foldl (fun n m => n + m.ended) 0 }

/-- The completion reported to the gang's issuing package: a GACK of words handle, kind 1, items ended (the layout is the
model's own, log 17). -/
def tellParent (s : State) (j : Job) : State :=
  match j.parent with
  | none => s
  | some (pkg, h) =>
    if pkg = s.pkg then gangCheck (setMember s (bitsOf h 0 12) pkg (fun m => { m with done := true, ended := j.ended })) (bitsOf h 0 12)
    else vcSend s pkg 18 (srcidOf j.issuer) (word8 h ++ leBytes 8 1 ++ leBytes 8 j.ended ++ leBytes 8 0)

/-- A job is complete when R = 0 and every dealt item has ended or been withdrawn (R194); its completion goes out once. -/
def jobCheck (s : State) (i : Nat) : State :=
  match aget s.jobs i with
  | none => s
  | some j =>
    if j.st = .complete ∨ j.gang.isSome ∨ (j.st = .held ∧ j.undealt ≠ []) ∨ j.undealt ≠ [] ∨ j.outstanding ≠ 0 ∨
        !(chunksOf s i j.gen).isEmpty then s
    else
      let s := setJob s i { j with st := .complete }
      let late := if j.cause = .gangLate then j.late else 0
      tellParent (completion s (dealerPlace j) j.dom j.donech j.issuer (jobHandle s i j) j.ended j.never late j.cause) j

/-- The first `n` items taken off ascending ranges. -/
def takeItems (l : List (Nat × Nat)) (n : Nat) : List (Nat × Nat) × List (Nat × Nat) :=
  match l with
  | [] => ([], [])
  | (lo, hi) :: t =>
    if n = 0 then ([], (lo, hi) :: t)
    else if n < hi - lo then ([(lo, lo + n)], (lo + n, hi) :: t)
    else
      let (a, b) := takeItems t (n - (hi - lo))
      ((lo, hi) :: a, b)

/-- A chunk dealt to a core, of the size of R191. -/
def dealTo (s : State) (i : Nat) (c : CoreId) : State :=
  match aget s.jobs i with
  | none => s
  | some j =>
    let r := rangeCount j.undealt
    let n := (coreSet s j.dom j.clmask j.cmask).length
    if r = 0 ∨ n = 0 then s
    else
      let size := min r (max 1 ((r + 2 * n - 1) / (2 * n)))
      let (items, rest) := takeItems j.undealt size
      let base := match items with | [] => 0 | (lo, _) :: _ => lo
      let s := setJob s i { j with undealt := rest }
      updCore s c (fun k => { k with launchq := k.launchq ++ [⟨i, j.gen, base, items⟩] })

/-- A job whose core set is empty deals nothing more, and completes with `partition-changed` (R201). -/
def jobEmpty (s : State) (i : Nat) : State :=
  match aget s.jobs i with
  | none => s
  | some j =>
    if j.st = .complete ∨ j.gang.isSome ∨ !(coreSet s j.dom j.clmask j.cmask).isEmpty then s
    else
      let n := rangeCount j.undealt
      jobCheck (setJob s i { j with st := .dealing, undealt := [], never := j.never + n,
                                    cause := .partitionChanged }) i

/-- A chunk is dealt to each core of the set in ascending order, and again in a second round (R192). -/
def dealRounds (s : State) (i : Nat) : State :=
  match aget s.jobs i with
  | none => s
  | some j =>
    let cs := coreSet s j.dom j.clmask j.cmask
    (cs ++ cs).foldl (fun s c => dealTo s i c) (setJob s i { j with st := .dealing, dealer := (match j.dealer with
      | some d => some d
      | none => lowestDie s j) })

/-- The AFTER condition holds (R196). -/
def afterHolds (s : State) (j : Job) : Bool :=
  match j.after with
  | none => true
  | some (c, k, n) => decide (n ≤ (tlOf (getCore s c) k).value)

/-- The payload of a GANG packet: the card, then the issuer's identity, the time of issue, the gang's handle, the time
after which the member is unreachable (R197, log 17). -/
def gangPayload (s : State) (i : Nat) (j : Job) : List Byte :=
  j.card ++ word8 j.issuer ++ leBytes 8 j.issued ++ word8 (jobHandle s i j) ++ leBytes 8 (max (wordAt j.card 11).toNat (now s + 100000))

/-- A gang card arrives at a member (R197): a job of its own, dealt from START or at once; none while no entry is free. A card of
PRIV H, which no compute core runs (R9), is refused as `gang` refuses it, and one with a damaged line as an invalid one (R205, R381,
log 75). -/
def gangArrive (s : State) (pkg : Nat) (parent : Word) (l : List Word) (dom : Nat) (issuer : Word) (issued : Nat)
    (damaged : Bool := false) : Option State :=
  match freeJob s with
  | none => none
  | some i =>
    let start := (cw l 11).toNat
    let order := if start = 0 then now s else start
    let j := { mkJob s (nextJobGen s i) dom l issuer issued order none with
      start := start, after := none, parent := some (pkg, parent),
      cause := if start ≠ 0 ∧ start < now s then .gangLate else .none, late := if start ≠ 0 then now s - start else 0 }
    let s := { s with lastJob := i }
    let refuse (c : Cause) : State :=
      let s := setJob s i { j with st := .complete, undealt := [], never := j.count, cause := c }
      tellParent (completion s duikerId dom j.donech issuer (jobHandle s i j) 0 j.count 0 c) j
    let cs := coreSet s dom j.clmask j.cmask
    if damaged then some (refuse .launchCardInvalid)
    else if 2 ≤ cardPriv l then some (refuse .privileged)
    else if cs.isEmpty then some (refuse .launchCardInvalid)
    else if cs.any (frameTooBig s j.v j.a j.t) then some (refuse .frameUnadmittable)
    else
      let s := setJob s i j
      some (jobCheck (if start ≤ now s ∨ j.count = 0 then dealRounds s i else s) i)

/-- A cancellation of a gang at a member (R207): a GANG packet of one step, the gang's handle and kind 1 (log 17). -/
def cancelPacket (h : Word) : List Byte := word8 h ++ leBytes 8 1 ++ leBytes 16 0
/-- A cancellation of a job of another package (R207): a GANG packet of one step, the job's handle and kind 2 (log 17). -/
def cancelFar (h : Word) : List Byte := word8 h ++ leBytes 8 2 ++ leBytes 16 0

/-- Undealt items and items not yet offered are withdrawn (R207): their number. -/
def cancelJob (s : State) (i : Nat) : Nat × State :=
  match aget s.jobs i with
  | none => (0, s)
  | some j =>
    if j.st = .complete then (0, s)
    else
      let n := rangeCount j.undealt + (chunksOf s i j.gen).foldl (fun n q => n + rangeCount q.2.items) 0
      let s := { s with cores := s.cores.map (fun c => (c.1, { c.2 with launchq := c.2.launchq.filter (fun q => q.job != i || q.gen != j.gen) })) }
      let s := setJob s i { j with undealt := [], never := j.never + n, cause := if n = 0 then j.cause else .jobCancelled, cancelled := true }
      (n, jobCheck s i)

/-- This package's own member of a gang receives its card, once a job table entry is free (R197). -/
def ownCard (s : State) (i : Nat) (j : Job) : State :=
  match gangArrive s s.pkg (jobHandle s i j) ((List.range 32).map (wordAt j.card)) j.dom j.issuer j.issued with
  | some s =>
    let s := setMember s i s.pkg (fun m => { m with acked := true })
    (match (if j.cancelled then s.jobs.find? (fun y => y.2.parent == some (s.pkg, jobHandle s i j)) else none) with
     | some (k, _) => (cancelJob s k).2
     | none => s)
  | none => s

/-- The cards of a gang sent to its members (R197), this package's own member run here. -/
def sendCards (s : State) (i : Nat) : State :=
  match aget s.jobs i with
  | none => s
  | some j =>
    match j.gang with
    | none => s
    | some ms =>
      let s := setJob s i { j with st := .dealing, gang := some (ms.map (fun m => { m with sent := now s })) }
      ms.foldl (fun s m =>
        if m.pkg = s.pkg then ownCard s i j
        else
          let s := vcSend s m.pkg 17 (srcidOf j.issuer) (gangPayload s i j)
          if j.cancelled then vcSend s m.pkg 17 (srcidOf j.issuer) (cancelPacket (jobHandle s i j)) else s) s

/-- JOB_START (R192, R196, R197): after the AFTER condition, or at START; a gang's own card that found no job table entry is offered
again. -/
def execJobStart (i : Nat) (s : State) : Out :=
  match aget s.jobs i with
  | none => .next s
  | some j =>
    if j.st = .dealing ∧ (j.gang.getD []).any (fun m => m.pkg == s.pkg && !m.acked && !m.done) then .next (ownCard s i j)
    else if j.st ≠ .held ∨ !afterHolds s j ∨ now s < j.start then .next s
    else if j.gang.isSome then .next (sendCards s i)
    else .next (jobEmpty (jobCheck (dealRounds s i) i) i)

/-- Chunks of a job that a core of its set may still ask for: it holds fewer than two, and items are undealt (R192). -/
def chunkWant (s : State) (i : Nat) (j : Job) (c : CoreId) : Nat :=
  if j.st = .dealing ∧ j.gang.isNone ∧ j.undealt ≠ [] ∧ (coreSet s j.dom j.clmask j.cmask).contains c then
    2 - ((getCore s c).launchq.filter (fun q => q.job == i && q.gen == j.gen)).length
  else 0

/-- A request still stands (R192). -/
def askStands (s : State) (x : Nat × Nat × CoreId) : Bool :=
  match aget s.jobs x.1 with
  | some j => j.gen == x.2.1 && chunkWant s x.1 j x.2.2 != 0
  | none => false

/-- The requests of this cycle join those to a die's launch unit, ties in ascending core order (R192). -/
def renewAsks (s : State) (n : Nat) : State :=
  let d := getDie s n
  let old := d.asks.filter (askStands s)
  let new := s.jobs.flatMap (fun y =>
    if y.2.dealer = some n then (coreSet s y.2.dom y.2.clmask y.2.cmask).flatMap (fun c =>
      List.replicate (chunkWant s y.1 y.2 c - (old.filter (fun x => x == (y.1, y.2.gen, c))).length) (y.1, y.2.gen, c))
    else [])
  let new := sortBy (fun a b => lexLt [a.2.2.die, a.2.2.clus, a.2.2.num, a.1] [b.2.2.die, b.2.2.clus, b.2.2.num, b.1]) new
  if old ++ new = d.asks then s else setDie s n { d with asks := old ++ new }

/-- CHUNK_DEAL (R191, R192): the launch unit of the dealer's die serves the first request that stands, one in a cycle. -/
def execChunkDeal (i : Nat) (c : CoreId) (s : State) : Out :=
  match aget s.jobs i with
  | none => .next s
  | some j =>
    match j.dealer with
    | none => .next s
    | some n =>
      let d := getDie s n
      match d.asks.filter (askStands s) with
      | [] => .next s
      | x :: rest =>
        if d.dealAt ≤ s.cycle ∧ x = (i, j.gen, c) then .next (setDie (dealTo s i c) n { d with asks := rest, dealAt := s.cycle + 1 })
        else .next s

/-- An item of the core's launch queue awaits admission (R193). -/
def itemWaits (k : Core) : Bool := k.jmu.queue.any (fun f => match f.what with | .item _ _ _ _ => true | _ => false)

/-- LAUNCH_ITEM_OFFER (R193): the next item of the job of highest PRIO, then of the earliest launch. -/
def execLaunchItemOffer (c : CoreId) (s : State) : Out :=
  let k := getCore s c
  if itemWaits k ∨ 64 ≤ k.jmu.queue.length ∨ k.leaving ∨ k.pendWord.isSome then .next s
  else
    let keyed := k.launchq.filterMap (fun q => (aget s.jobs q.job).map (fun j => ([7 - j.prio, j.issued, q.job], q, j)))
    match leastBy (fun a b => lexLt a.1 b.1) keyed with
    | none => .next s
    | some (_, q, j) =>
      match q.items with
      | [] => .next s
      | (lo, hi) :: t =>
        let items := if lo + 1 < hi then (lo + 1, hi) :: t else t
        let (o, s) := fresh s
        let drop := fun (l : List Chunk) => l.filterMap (fun p => if p = q then (if items.isEmpty then none else some { p with items := items }) else some p)
        let s := updCore s c (fun k => { k with launchq := drop k.launchq })
        let s := updJmu s c (fun m => { m with queue := m.queue ++ [⟨.item q.job q.gen lo q.base, j.prio, now s, o⟩] })
        .next (setJob s q.job { j with outstanding := j.outstanding + 1 })

/-- ITEM_END (R194): once the strand's stores, atomics and sends have reached their homes, with the writes of its cluster that it
may have read, which the completion message releases too (R242). -/
def execItemEnd (uid : Nat) (s : State) : Out :=
  match s.jobs.findSome? (fun j => (j.2.ending.find? (fun e => e.uid == uid)).map (fun e => (j.1, j.2, e))) with
  | none => .next s
  | some (i, j, e) =>
    if !belowDone s e.core uid e.floor [] 2 then .next s
    else .next (jobCheck (setJob s i { j with ending := j.ending.filter (fun u => u.uid != uid), ended := j.ended + 1, outstanding := j.outstanding - 1 }) i)

/-- GANG_MEMBER_UNREACHABLE (R197): no acknowledgement by the later of START and 100 µs after sending. -/
def execGangMemberUnreachable (i pkg : Nat) (s : State) : Out :=
  match aget s.jobs i with
  | none => .next s
  | some j =>
    match j.gang.bind (fun ms => ms.find? (fun m => m.pkg == pkg)) with
    | none => .next s
    | some m =>
      let start := (wordAt j.card 11).toNat
      if j.st = .dealing ∧ !m.acked ∧ !m.done ∧ max start (m.sent + 100000) ≤ now s then
        let s := completion s duikerId j.dom j.donech j.issuer (BitVec.ofNat 64 (pkg * 2 ^ 51)) 0 j.count 0 .gangMemberUnreachable
        .next (gangCheck (setMember s i pkg (fun m => { m with done := true })) i)
      else .next s

/-- Halfwords read as loads (R189): GLIST. -/
def halfLoads (s : State) (x : Ctx) (va : Word) (n : Nat) : Except Stop (List Nat × State) :=
  match n with
  | 0 => .ok ([], s)
  | k + 1 => do
    let (l, s) ← locate s x.r x.t va 2 2 .load
    if ownAtomic s x.t.uid s.uid l 2 || openerOn x.t l 2 then throw (.wait .writes)
    if loadDenied s x.r.core x.t.dom 0 l then throw (.trap .accessTableDenied 0 va)
    let (bs, p, e, s) := readLoc s x.r.core x.t.uid s.uid 0 l 2
    if p || e.isSome then throw (.trap .poisonConsumed 0x40#64 va)
    let (t, s) ← halfLoads s x (va + 2#64) k
    pure (leNat bs :: t, s)

/-- The refusals of R205 after the card's fields, in order. -/
def launchRefusal (s : State) (x : Ctx) (gang : Bool) (l : List Word) : Option Cause :=
  let w := cw l 0
  let cs := coreSet s x.t.dom ((cw l 6).setWidth 40) ((cw l 7).setWidth 16)
  if !gang && cs.isEmpty then some .launchCardInvalid
  else if 2 ^ 32 < cardCount l then some .launchCountRange
  else if privNum x.t.priv < cardPriv l ∨ cardPriv l = 2 then some .privileged
  else if !gang && cs.any (frameTooBig s (bitsOf w 8 6) (bitsOf w 14 4) (bitsOf w 18 4)) then some .frameUnadmittable
  else none

/-- The job or the gang of a good card (R205). -/
def launchJob (s : State) (x : Ctx) (gang : Option (List Nat)) (l : List Word) (i : Nat) : Word × State :=
  let dealer := if gang.isSome then none else dealerOf x.r.core
  let j := mkJob s (nextJobGen s i) x.t.dom l (strandSid s x.r x.t.dom) (now s) (now s) dealer
  let s := { s with lastJob := i }
  match gang with
  | none => (jobHandle s i j, jobCheck (setJob s i j) i)
  | some ms =>
    (jobHandle s i j, setJob s i { j with gang := some (ms.map (fun p => ⟨p, false, false, 0, 0⟩)), card := l.flatMap word8 })

/-- `spawn` and `gang` (R205). -/
def launch (i : Instr) (gang : Bool) (d a : BitVec 5) (s : State) : Out :=
  issue i s (fun s x => do
    needClean x.t.r a
    let va := rd x.t.r a
    let refuse (s : State) (c : Cause) : Except Stop (State × Next) := answer s x d (refusalHigh c)
    if va.toNat % 64 ≠ 0 then refuse s .launchCardInvalid
    else
      -- a `gang` publishes the card that it reads and what AFTER names (R198)
      if !gang && !belowDone s x.r.core x.t.uid s.uid x.t.openers 2 then throw (.wait (.fence 2))
      let (l, s) ← descLoad s x va 32
      if !cardOk s gang l then refuse s .launchCardInvalid
      else
        let (ids, s) ← (if gang then halfLoads s x (cw l 12) (cardGn l) else pure ([], s))
        if gang && !mlistOk ids then refuse s .launchCardInvalid
        else match launchRefusal s x gang l with
          | some c => refuse s c
          | none =>
            match freeJob s with
            | none => throw (.wait (.job gang d a l ids))
            | some k =>
              let (h, s) := launchJob s x (if gang then some ids else none) l k
              answer s x d h)

/-- A strand whose `spawn` or `gang` waits for a job table entry completes it with the card that it has checked (R205). -/
def jobGrant (s : State) (r : StrandRef) (t : Strand) : State :=
  match t.status, freeJob s with
  | .waiting (.job gang d a l ids), some k =>
    let i : Instr := if gang then .gang d a else .spawn d a
    let x : Ctx := ⟨r, t, i.len, i.word0⟩
    let (h, s) := launchJob s x (if gang then some ids else none) l k
    updStrand (finish i (putRegs s x (wr t.r d h false)) x .seq) r (fun t => { t with since := s.cycle, readyAt := s.cycle })
  | _, _ => s

/-- R205. -/
def execSpawn (d a : BitVec 5) (s : State) : Out := launch (.spawn d a) false d a s
/-- R205. -/
def execGang (d a : BitVec 5) (s : State) : Out := launch (.gang d a) true d a s

/-- The handle faults of R206. -/
def jobHandleCheck (x : Ctx) (h : Word) : Except Stop Unit := do
  orTrap (bitsOf h 63 1 == 0 && bitsOf h 48 3 == 0 && bitsOf h 12 12 == 0) .operandRange
  orTrap (bitsOf h 24 8 == x.t.dom || x.t.priv == .h) .accessTableDenied

/-- The job that a handle names, if its generation is current. -/
def jobOf (s : State) (h : Word) : Option (Nat × Job) :=
  match aget s.jobs (bitsOf h 0 12) with
  | some j => if j.gen = bitsOf h 32 16 ∧ j.dom = bitsOf h 24 8 then some (bitsOf h 0 12, j) else none
  | none => none

/-- STATE of a job (R206). -/
def jobState (j : Job) : Nat :=
  match j.st with
  | .held => 1
  | .complete => 4
  | .dealing => if j.gang.isNone ∧ j.undealt = [] then 3 else 2

/-- The status word of a job of another package (R206): its state, the cause so far and the items ended are that package's
(log 16). -/
def jobFar (s : State) : Word × State :=
  let (n, s) := remotePick s 5
  let (k, s) := remotePick s 7
  let (v, s) := remoteWord s
  let c : Cause := match k with
    | 0 => .none | 1 => .gangLate | 2 => .gangMemberUnreachable | 3 => .jobCancelled | 4 => .partitionChanged | 5 => .frameUnadmittable
    | _ => .launchCardInvalid
  (if n = 0 then 0 else BitVec.ofNat 64 (n * 2 ^ 61 + causeCode c * 2 ^ 54 + v.toNat % 2 ^ 40), s)

/-- R206. -/
def execJstat (d a : BitVec 5) (s : State) : Out :=
  issue (.jstat d a) s (fun s x => do
    needClean x.t.r a
    let h := rd x.t.r a
    jobHandleCheck x h
    if bitsOf h 51 12 ≠ s.pkg then let (v, s) := jobFar s; answer s x d v
    else match jobOf s h with
      | none => answer s x d 0
      | some (_, j) => answer s x d (BitVec.ofNat 64 (jobState j * 2 ^ 61 + causeCode j.cause * 2 ^ 54 + j.ended % 2 ^ 40)))

/-- The job of a handle of this package cancelled (R207): the items withdrawn; the cancel of a gang is forwarded to every member. -/
def cancelHandle (s : State) (h : Word) : Nat × State :=
  match jobOf s h with
  | none => (0, s)
  | some (i, j) =>
    match j.gang with
    | none => cancelJob s i
    | some ms =>
      if j.st = .complete then (0, s)
      else
        let s := setJob s i { j with cancelled := true }
        if j.st = .held then (0, s)
        else (0, ms.foldl (fun s m =>
          if m.pkg = s.pkg then
            (match s.jobs.find? (fun y => y.2.parent == some (s.pkg, jobHandle s i j)) with
             | some (k, _) => (cancelJob s k).2
             | none => s)
          else vcSend s m.pkg 17 (srcidOf j.issuer) (cancelPacket (jobHandle s i j))) s)

/-- R207. -/
def execJcancel (d a : BitVec 5) (s : State) : Out :=
  issue (.jcancel d a) s (fun s x => do
    needClean x.t.r a
    let h := rd x.t.r a
    jobHandleCheck x h
    if bitsOf h 51 12 ≠ s.pkg then
      -- the cancel goes to the job's package, which answers the items withdrawn (logs 16, 17)
      let (n, s) := remotePick s (2 ^ 32 + 1)
      answer (vcSend s (bitsOf h 51 12) 17 (srcidOf (strandSid s x.r x.t.dom)) (cancelFar h)) x d (BitVec.ofNat 64 n)
    else let (n, s) := cancelHandle s h; answer s x d (BitVec.ofNat 64 n))

/-- R208. -/
def execTnow (d : BitVec 5) (s : State) : Out :=
  issue (.tnow d) s (fun s x => answer s x d (BitVec.ofNat 64 (now s)))

end Sys2Proof.Machine
end

