-- ==== Sys2Proof/Machine/System.lean ====
section
/-! DEFINITION. CSRs (R320–R322, R329), return from a trap (R331), record grants and retries (R325, R407), the end of
run-ahead (R141), debug halts (R340), timers (R326). -/

namespace Sys2Proof.Machine

/-- The firing word of a strand (R21). -/
def fireWord (t : Strand) : Word := BitVec.ofNat 64 (t.prio * 65536 + t.kind * 256 + t.pat)

/-- The value of a listed CSR (R320). -/
def csrValue (s : State) (x : Ctx) (c : BitVec 12) : Word :=
  let d := getDom s x.t.dom
  match c.toNat with
  | 0x001 => x.t.r.fctl
  | 0x002 => strandSid s x.r x.t.dom
  | 0x003 => fireWord x.t
  | 0x004 => BitVec.ofNat 64 s.cycle
  | 0x005 => (getCore s x.r.core).pword.setWidth 64
  | 0x100 => d.chtab
  | 0x101 => d.trapch
  | 0x102 => d.repch
  | 0x103 => d.replog
  | 0x104 => d.pagerch
  | 0x105 => d.lostrep
  | 0x106 => d.trarea
  | 0x107 => d.imgarea
  | 0x108 => d.roothub
  | 0x109 => d.tmcmp
  | 0x10A => d.repseq
  | n =>
    if 0x120 ≤ n ∧ n ≤ 0x123 then (d.bkpt.toList[n - 0x120]?).getD 0
    else if 0x128 ≤ n ∧ n ≤ 0x129 then (d.wpt.toList[n - 0x128]?).getD 0
    else if 0x180 ≤ n ∧ n ≤ 0x1BF then (aget s.bar4ap (n - 0x180)).getD 0
    else 0

/-- Bits of an area CSR that are not marked zero (R321); a write ignores the others (R3). -/
def areaMask (w : Word) : Word := w &&& 0x00FFFFFFFFFFF01F#64

/-- The layout of an area CSR (R321): LOG range and alignment; BASE 0 means none. -/
def areaOk (w : Word) (entry lo hi : Nat) : Bool :=
  let base := areaBase w
  let log := areaLog w
  let size := entry * 2 ^ log
  (if base = 0 then decide (log = 0) || (decide (lo ≤ log) && decide (log ≤ hi))
   else decide (lo ≤ log) && decide (log ≤ hi) && decide (base % (if size < 4096 then 4096 else size) = 0))

/-- A domain has a record pending, of a strand in its slot, of a saved strand or of an engine command (R322). -/
def recordPending (s : State) (dom : Nat) : Bool := !(getDom s dom).recs.isEmpty

/-- A record is closed (R331, R356). -/
def closeRecord (s : State) (dom : Nat) (h : Word) : State :=
  let d := getDom s dom
  setDom s dom { d with recs := d.recs.filter (fun x => x != h) }

/-- The package homes a live channel of the domain (R322). -/
def homesChannel (s : State) (dom : Nat) : Bool :=
  s.cores.any (fun c => c.2.jmu.chans.any (fun q => hDom q.handle == dom))

/-- A CSR write that R322 accepts, applied with the bits marked zero ignored (R3); none where it raises
`operand-range`. -/
def csrWrite (s : State) (x : Ctx) (c : BitVec 12) (v : Word) : Option State :=
  let dom := x.t.dom
  let d := getDom s dom
  let put (d : Dom) : Option State := some (setDom s dom d)
  let m := areaMask v
  match c.toNat with
  | 0x001 => some (setRegs s x { x.t.r with fctl := v &&& 0x7F#64 })
  | 0x100 => if areaOk m 8 10 24 && !homesChannel s dom then put { d with chtab := m, hint := 1 } else none
  | 0x101 => put { d with trapch := v }
  | 0x102 => put { d with repch := v }
  | 0x103 => if areaOk m 64 0 20 then put { d with replog := m, logPos := 0 } else none
  | 0x104 => put { d with pagerch := v }
  | 0x105 => put { d with lostrep := 0 }
  | 0x106 =>
    if areaOk m 512 0 16 && decide (areaBase m + 512 * 2 ^ areaLog m ≤ 2 ^ 48) && !recordPending s dom then
      put { d with trarea := m, lastSlot := none } else none
  | 0x107 => if areaOk m 65536 0 12 && d.imgUsed.isEmpty && d.imgReserved == 0 then put { d with imgarea := m } else none
  | 0x108 => put { d with roothub := v &&& 0x1FFF#64 }
  | 0x109 => put { d with tmcmp := v }
  | n =>
    if h : 0x120 ≤ n ∧ n ≤ 0x123 then
      put { d with bkpt := d.bkpt.set (n - 0x120) (v &&& 0xFFFFFFFFFFFFFFFD#64) (by omega) }
    else if h : 0x128 ≤ n ∧ n ≤ 0x129 then
      put { d with wpt := d.wpt.set (n - 0x128) (v &&& 0xFFFFFFFFFFFFFFC3#64) (by omega) }
    else if 0x180 ≤ n ∧ n ≤ 0x1BF then
      some { s with bar4ap := aset s.bar4ap (n - 0x180) (v &&& 0x8000FFFFC00000FF#64) }
    else none

/-- R329. -/
def execCsrr (r : BitVec 5) (csr : BitVec 12) (s : State) : Out :=
  issue (.csrr r csr) s (fun s x => .ok (setRegs s x (wr x.t.r r (csrValue s x csr) false), .seq))

/-- A CSR write of a computed value (R322, R329). -/
def csrOp (i : Instr) (r : BitVec 5) (csr : BitVec 12) (f : Word → Word → Word) (s : State) : Out :=
  issue i s (fun s x => do
    needClean x.t.r r
    match (if csrWritable csr then csrWrite s x csr (f (csrValue s x csr) (rd x.t.r r)) else none) with
    | some s => pure (s, .seq)
    | none => throw (.trap .operandRange 0 0))

/-- R329. -/
def execCsrw (r : BitVec 5) (csr : BitVec 12) (s : State) : Out := csrOp (.csrw r csr) r csr (fun _ v => v) s
/-- R329. -/
def execCsrs (r : BitVec 5) (csr : BitVec 12) (s : State) : Out := csrOp (.csrs r csr) r csr (fun o v => o ||| v) s
/-- R329. -/
def execCsrc (r : BitVec 5) (csr : BitVec 12) (s : State) : Out := csrOp (.csrc r csr) r csr (fun o v => o &&& ~~~v) s

/-- The registers that a trap record holds (R324): s1 to s31, SPOIS, FCTL, p1 to p7. -/
def recordRegs (r : Regs) (l : List Byte) : Regs :=
  let s0 := (List.range 31).foldl (fun (r : Regs) i => wr r (BitVec.ofNat 5 (i + 1)) (wordAt l (18 + i)) ((wordAt l 8).getLsbD (i + 1))) r
  { s0 with fctl := (wordAt l 9) &&& 0x7F#64,
            p := (List.range 7).foldl (fun (p : Vector Word 8) i => p.setIfInBounds (i + 1) (wordAt l (10 + i))) r.p }

/-- RETURN FROM A TRAP (R331): ACTION 0 or 2 loads the record into the suspended strand, which resumes with an acquire at
package scope (R244); ACTION 1 discards it as `done` does (R17). `from_` is the `eret` with its word 0, the transfer of
control that a target which is no marked start names (R81). -/
def returnStrand (s : State) (r : StrandRef) (t : Strand) (l : List Byte) (from_ : Option (Word × BitVec 32)) : State :=
  let action := (wordAt l 49).toNat
  if action = 1 then setStrand s r { t with status := .ended }
  else
    let s := acquire s r.core 2
    setStrand s r { t with r := recordRegs t.r l, pc := wordAt l 2, target := true, from_ := from_, status := .ready,
                           since := s.cycle, readyAt := s.cycle, skipBp := true, step1 := action == 2, phase := none }

/-- The strand suspended on a record. -/
def findSuspended (s : State) (dom : Nat) (h : Word) : Option (StrandRef × Strand) :=
  (allStrands s).find? (fun y => y.2.dom == dom && y.2.status == .suspended h)

/-- A record of the domain's trarea at an address. -/
def inTrarea (s : State) (dom a : Nat) : Bool :=
  let w := (getDom s dom).trarea
  areaBase w != 0 && decide (a % 512 = 0) && decide (areaBase w ≤ a) && decide (a < areaBase w + 512 * 2 ^ areaLog w)

/-- The bits of a trap record that are zero (R3, R324): in word 0 [40:18] and [13:7] ([47:41] are a fault record's), the high
halves of WORD0 and SPOIS, FCTL [63:7] (R44), and bytes 400 to 511. -/
def trapRecordZeros (l : List Byte) : Bool :=
  bitsOf (wordAt l 0) 18 23 == 0 && bitsOf (wordAt l 0) 7 7 == 0 && bitsOf (wordAt l 3) 32 32 == 0 && bitsOf (wordAt l 8) 32 32 == 0 &&
  bitsOf (wordAt l 9) 7 57 == 0 && (l.drop 400).all (fun b => b == 0)

/-- R331. -/
def execEret (a : BitVec 5) (s : State) : Out :=
  issue (.eret a) s (fun s x => do
    needClean x.t.r a
    -- the release: every earlier write of the handler is done first
    if !belowDone s x.r.core x.t.uid s.uid x.t.openers 2 then throw (.wait (.fence 2))
    let h := rd x.t.r a
    let rec_ := bitsOf h 0 48
    let bad : Stop := .trap .eretInvalid 0 h
    if !inTrarea s x.t.dom rec_ then throw bad
    match devRead s (recAgent x.r x.t.dom) (BitVec.ofNat 64 rec_) 512 with
    | .error (.miss, _) => throw (.miss (BitVec.ofNat 64 rec_) 4)
    | .error (.fault _, _) => throw bad
    | .ok (l, _, s) =>
      let w := wordAt l 0
      if bitsOf w 48 16 ≠ bitsOf h 48 16 ∨ bitsOf w 16 2 ≠ 1 ∨ bitsOf w 41 7 ≠ 0 ∨ 2 < (wordAt l 49).toNat ∨ !trapRecordZeros l then throw bad
      match devWrite s (recAgent x.r x.t.dom) (BitVec.ofNat 64 rec_) (word8 (w + 0x10000#64)) with
      | .error (.miss, _) => throw (.miss (BitVec.ofNat 64 rec_) 5)
      | .error (.fault _, _) => throw bad
      | .ok s =>
        let s := closeRecord s x.t.dom h
        match findSuspended s x.t.dom h with
        | some (r, t) => pure (returnStrand s r t l (some (x.t.pc, x.word0)), .seq)
        | none =>
          let d := getDom s x.t.dom
          pure (setDom s x.t.dom { d with resumed := d.resumed ++ [(h, l, some (x.t.pc, x.word0))] }, .seq))

/-- TRAP_SLOT_GRANT (R325): the trap of the domain that has waited longest takes a slot that has closed, or the first slot
once trarea is set. -/
def execTrapSlotGrant (r : StrandRef) (s : State) : Out :=
  match getStrand s r with
  | none => .next s
  | some t =>
    match t.status with
    | .trapping q =>
      if t.openers.isEmpty && q.retryAt.isNone then .next (takeTrap s r t q) else .next s
    | .faulting pages ia counted none => .next (takeFault s r t pages ia counted)
    | _ => .next s

/-- RECORD_WRITE_RETRY (R407): the search and the whole write again, every 1 ms. -/
def execRecordWriteRetry (r : StrandRef) (s : State) : Out :=
  match getStrand s r with
  | none => .next s
  | some t =>
    match t.status with
    | .trapping q =>
      (match q.retryAt with
       | some at_ => if at_ ≤ now s then .next (takeTrap s r t { q with retryAt := none }) else .next s
       | none => .next s)
    | .faulting pages ia counted (some at_) => if at_ ≤ now s then .next (takeFault s r t pages ia counted) else .next s
    | _ => .next s

/-- RUN_AHEAD_END (R141): the page or instruction count is reached, or a request targets the strand. -/
def execRunAheadEnd (r : StrandRef) (s : State) : Out :=
  match getStrand s r with
  | none => .next s
  | some t =>
    match t.shadow with
    | none => .next s
    | some h =>
      if 32 ≤ h.pages.length ∨ 4096 ≤ h.issued ∨ t.preq.isSome ∨ t.halt = true then .next (endShadow s r t) else .next s

/-- A debug halt at an instruction boundary (R340): `debug-halt` with the next instruction as PC. It names the instruction
executed last with its word 0, as a single step does; before the first, the entry and 0 (R324). -/
def haltStrand (s : State) (r : StrandRef) (t : Strand) : State :=
  let (ia, w) := t.from_.getD (t.pc, 0)
  raiseTrap s r { t with halt := false } (trapReq s .debugHalt 0 0 ia t.pc w)

/-- DEBUG_HALT (R340): a strand at an instruction boundary halts; in run-ahead the run-ahead ends first; one inside an
instruction halts after it (R244). -/
def execDebugHalt (r : StrandRef) (s : State) : Out :=
  match getStrand s r with
  | none => .next s
  | some t =>
    if !t.halt then .next s
    else match t.shadow with
      | some _ => .next (endShadow s r t)
      | none =>
        match t.status with
        | .ready | .waiting _ => if t.inside then .next s else .next (haltStrand s r t)
        | _ => .next s

/-- TIMER_EXPIRY (R326): Cysyn time has reached tmcmp, which is then 0. -/
def execTimerExpiry (dom : Nat) (s : State) : Out :=
  let d := getDom s dom
  if d.tmcmp ≠ 0 ∧ d.tmcmp.toNat ≤ now s then
    .next (reportEvent (setDom s dom { d with tmcmp := 0 }) dom .timer d.tmcmp)
  else .next s

end Sys2Proof.Machine
end

