-- ==== Sys2Proof/Machine/Admit.lean ====
section
/-! DEFINITION. The life of a strand: admission (R14–R16, R19–R22, R171, R176, R193), its end (R17, R172, R194), saving it
(R120, R332–R336, R297, R317, R318) and restoring it (R22, R121, R336). -/

namespace Sys2Proof.Machine

/-- Strand slots of a core. -/
def coreSlots : Nat := 64

/-- The order of admission (R15): higher priority, then earlier decision. -/
def firingKey (f : Firing) : List Nat := [7 - f.prio, f.dtime, f.ord]

/-- The firing that is next in the order of admission. -/
def nextFiring (k : Core) : Option Firing := leastBy (fun a b => lexLt (firingKey a) (firingKey b)) k.jmu.queue

/-- The lowest free strand slot; which free slot a firing takes is not stated (log 14). -/
def freeSlot (k : Core) : Option Nat := (List.range coreSlots).find? (fun i => (aget k.strands i).isNone)

/-- The core with what was freed in a cycle still held: it is offered from the next cycle (R17, R119). -/
def heldRoom (k : Core) (cycle : Nat) : List Freed := k.freed.filter (fun f => f.cycle == cycle)

/-- A slot and the frame are unallocated (R15), and were before this cycle. -/
def roomFor (c : CoreId) (k : Core) (cycle v a t : Nat) : Option Nat :=
  let (pv, pa, pt) := poolOf c k.pword
  let (uv, ua, ut) := poolUsed k
  let l := heldRoom k cycle
  let sum (f : Freed → Nat) : Nat := l.foldl (fun n x => n + f x) 0
  if uv + sum (fun f => f.v) + v ≤ pv ∧ ua + sum (fun f => f.a) + a ≤ pa ∧ ut + sum (fun f => f.t) + t ≤ pt then
    (List.range coreSlots).find? (fun i => (aget k.strands i).isNone && l.all (fun f => f.slot != some i))
  else none

/-- The core admits: a compute core of a domain, and any other core (R11, R200, R201, R343, R345). -/
def mayAdmit (s : State) (c : CoreId) (k : Core) : Bool :=
  (c.kind != .compute || k.dom.isSome) && !k.leaving && !k.failed && k.pendWord.isNone && k.wordCycle != some s.cycle

/-- Vector registers of a new frame: contents undefined, tag raw (R16). -/
def newVregs (n v : Nat) : List VReg := (List.range v).map (fun i => ⟨Config.freeVector (n + i), 0, 0⟩)
/-- Tiles of a new frame: contents undefined, tag i32, sticky clear (R16). -/
def newTiles (n a : Nat) : List Tile := (List.range a).map (fun i => ⟨Config.freeTile (n + i), false, false⟩)
/-- Table slots of a new frame: no record (R16). -/
def newTabs (n t : Nat) : List Table := (List.range t).map (fun i => ⟨false, 0, 0, false, false, 0, .unbuilt, 0, Config.freeTable (n + i)⟩)

/-- The stack pointer at firing (R20). -/
def stackTop (sbase sstride : BitVec 32) (slot : Nat) : Word :=
  0xFF00000000000000#64 + sbase.setWidth 64 + BitVec.ofNat 64 (slot + 1) * sstride.setWidth 64

/-- Scalar registers from a list of values for s1 upward. -/
def scalarsFrom (l : List Word) : Regs :=
  l.zipIdx.foldl (fun r x => wr r (BitVec.ofNat 5 (x.2 + 1)) x.1 false) Regs.zero

/-- A strand about to issue its first instruction. -/
def bareStrand (s : State) (uid dom : Nat) (priv : Priv) (pc : Word) (regs : Regs) (v a t : Nat) (origin : Origin) : Strand × State :=
  ({ uid := uid, dom := dom, priv := priv, pc := pc, target := true, from_ := none, r := { regs with v := newVregs s.free v },
     tiles := newTiles s.free a, tabs := newTabs s.free t, status := .ready, since := s.cycle + 1, readyAt := s.cycle + 1,
     prio := 0, kind := 0, pat := 0, entry := pc, sbase := 0, sstride := 0, serial := false, path := 0, origin := origin,
     openers := [], shadow := none, floor := 0, step1 := false, skipBp := false, preq := none, halt := false, absent := [],
     ticket := none, noted := false, phase := none }, { s with free := s.free + 32 })

/-- Every translation of a domain's local pages that a TLB of the package holds. -/
def knownPages (s : State) (dom : Nat) : List TlbEntry :=
  (s.cores.flatMap (fun x => x.2.tlb ++ x.2.own) ++ s.clusters.flatMap (fun x => x.2.tlb ++ x.2.engTlb.map (fun e => e.2)) ++
    s.dies.flatMap (fun x => x.2.llt)).filter (fun e => e.dom == dom && e.loc == 0)

/-- The virtual addresses that map a line. -/
def lineVas (s : State) (dom ln : Nat) : List Nat :=
  (knownPages s dom).filterMap (fun e =>
    if e.frame ≤ 64 * ln ∧ 64 * ln < e.frame + sizeUnits e.size * 65536 then some (e.vpage * 65536 + (64 * ln - e.frame)) else none)

/-- Every page of the regions is translated by a TLB of the package. -/
def regionsKnown (s : State) (dom : Nat) (regs : List (Word × Word)) : Bool :=
  let es := knownPages s dom
  -- regions are covered entry by entry: what an entry maps is taken off, and no byte is left
  let left := es.foldl (fun (l : List (Nat × Nat)) e =>
    let lo := e.vpage * 65536
    let hi := lo + sizeUnits e.size * 65536
    l.flatMap (fun p => [(p.1, min p.2 lo), (max p.1 hi, p.2)].filter (fun q => decide (q.1 < q.2))))
    ((regs.map (fun p => (p.1.toNat, p.1.toNat + p.2.toNat))).filter (fun q => decide (q.1 < q.2)))
  left.isEmpty

/-- A cached line lies outside the bound regions: none of the addresses that map it is in one. A line that no TLB entry maps is
outside where all pages of the regions are mapped; else it may be one of theirs (log 25). -/
def outsideRegions (s : State) (dom : Nat) (regs : List (Word × Word)) (ln : Nat) : Bool :=
  let vas := lineVas s dom ln
  (!vas.isEmpty || regionsKnown s dom regs) &&
    vas.all (fun va => regs.all (fun p => decide (va + 64 ≤ p.1.toNat) || decide (p.1.toNat + p.2.toNat ≤ va)))

/-- The acquire of a firing at a scope, with the instruction cache, so that the new strand fetches the code that the release
covers (R83, R239). -/
def acquireFiring (s : State) (c : CoreId) (scope : Nat) : State := acquire (updCore s c (fun k => { k with icache := [] })) c scope

/-- The acquire of a firing for one of its channels (R176, R239): with regions bound, only lines of the regions are
invalidated, in the cluster cache for this core alone (R240). -/
def acquireBind (s : State) (c : CoreId) (dom : Nat) (b : Nat × List (Word × Word)) : State :=
  if b.2.isEmpty then acquireFiring s c b.1
  else
    let keep (ln : Nat) : Bool := outsideRegions s dom b.2 ln
    let s' := updCore s c (fun k => { k with icache := k.icache.filter (fun x => keep x.1) })
    if !cached c ∨ b.1 = 0 then s'
    else
      let lns := ((getClus s c.die c.clus).cc.map (fun x => x.1)).filter (fun ln => !keep ln)
      updCore s' c (fun k => { k with
        l1 := k.l1.filter (fun x => keep x.1),
        regAcq := if b.1 = 1 then joinStamps k.regAcq (clusStamps s c) lns
                  else lns.foldl (fun (l : List (Nat × Nat)) ln => aset l ln s.cycle) (k.regAcq.filter (fun e => decide (k.acq < e.2))) })

/-- The privilege of a pattern's strand: the pattern's on a compute core, S on a Markhor, H on hub cores and Duiker (R9, R319). -/
def runPriv (c : CoreId) (p : Priv) : Priv := match c.kind with | .compute => p | .markhor => .s | .hub | .duiker => .h

/-- Payload registers of a pattern firing (R19): s16 up. -/
def payRegs (ms : List Msg) : List Word := ms.flatMap (fun m => (List.range 4).map (payWord m.payload))

/-- Poison of the registers that a pattern's strand begins with: a message delivered poisoned poisons its payload, the first also its
time and sender (R19, R381). -/
def payPois (ms : List Msg) : BitVec 32 :=
  let bit (b : Bool) (m : Nat) : Nat := if b then m else 0
  BitVec.ofNat 32 (bit ((ms.head?.map (fun m => m.pois)).getD false) (2 ^ 14 + 2 ^ 15) +
    ms.zipIdx.foldl (fun n x => n + bit x.1.pois (15 * 2 ^ (16 + 4 * x.2))) 0)

/-- A pattern's firing admitted into a slot (R16, R19–R21, R171). -/
def admitPattern (s : State) (c : CoreId) (slot : Nat) (p : Pat) (ms : List Msg) (binds : List (Nat × List (Word × Word)))
    (dtime : Nat) : State :=
  let ch0 := (p.chans.head?).getD 0
  let dom := hDom ch0
  let kind := if ch0 = (getDom s dom).trapch then 2 else 0
  let sid := strandSid s ⟨c, slot⟩ dom
  let fire := BitVec.ofNat 64 (p.prio * 65536 + kind * 256 + p.idx)
  let m0 := match ms with | m :: _ => m | [] => ⟨0, 0, 0, 0, false, 0, false⟩
  let regs := scalarsFrom ([p.body, stackTop p.sbase p.sstride slot, sid] ++ List.replicate 8 0 ++
    [fire, BitVec.ofNat 64 dtime, BitVec.ofNat 64 m0.stime, m0.sender] ++ payRegs ms)
  let (u, s) := fresh s
  let (t, s) := bareStrand s u dom (runPriv c p.priv) p.body regs p.v p.a p.t (.pattern p.idx p.key)
  let t := { t with prio := p.prio, kind := kind, pat := p.idx, sbase := p.sbase, sstride := p.sstride, serial := p.serial,
                    path := if p.serial then ch0 else 0, r := { t.r with spois := payPois ms } }
  binds.foldl (fun s b => acquireBind s c dom b) (setStrand s ⟨c, slot⟩ t)

/-- A launch item admitted (R19, R193, R198). -/
def admitItem (s : State) (c : CoreId) (slot : Nat) (i : Nat) (j : Job) (gen index base : Nat) : State :=
  let sid := strandSid s ⟨c, slot⟩ j.dom
  let fire := BitVec.ofNat 64 (j.prio * 65536 + 256)
  let arg := j.args + BitVec.ofNat 64 (index * j.astride)
  let regs := scalarsFrom ([j.body, stackTop j.sbase j.sstride slot, sid] ++ List.replicate 8 0 ++
    [fire, BitVec.ofNat 64 (now s), BitVec.ofNat 64 j.issued, j.issuer, BitVec.ofNat 64 index, arg, jobHandle s i j, BitVec.ofNat 64 base])
  let (u, s) := fresh s
  let (t, s) := bareStrand s u j.dom j.priv j.body regs j.v j.a j.t (.item i gen index)
  acquireFiring (setStrand s ⟨c, slot⟩ { t with prio := j.prio, kind := 1, sbase := j.sbase, sstride := j.sstride }) c 2

/-- ADMISSION (R15): the next firing of a core, when it fits. -/
def execAdmission (c : CoreId) (s : State) : Out :=
  let k := getCore s c
  if !mayAdmit s c k then .next s
  else match nextFiring k with
    | none => .next s
    | some f =>
      let pop (s : State) : State := updJmu s c (fun j => { j with queue := j.queue.filter (fun g => g != f) })
      match f.what with
      | .pattern p ms binds =>
        (match roomFor c k s.cycle p.v p.a p.t with
         | none => .next s
         | some slot => .next (admitPattern (pop s) c slot p ms binds f.dtime))
      | .item i gen index base =>
        (match aget s.jobs i with
         | none => .next s
         | some j =>
           match roomFor c k s.cycle j.v j.a j.t with
           | none => .next s
           | some slot => .next (admitItem (pop s) c slot i j gen index base))
      | .image _ _ _ => .next s

/-- The end of what a strand on a core served: its SERIAL pattern is a candidate again (R172), an item waits to be counted
(R194). -/
def endOrigin (s : State) (c : CoreId) (uid : Nat) (o : Origin) (serial : Bool) : State :=
  match o with
  | .pattern _ key =>
    if serial then
      { s with cores := s.cores.map (fun c => (c.1, { c.2 with jmu := { c.2.jmu with
          pats := c.2.jmu.pats.map (fun p => if p.serial ∧ p.key = key then { p with live := false } else p) } })) }
    else s
  | .item i gen _ =>
    match aget s.jobs i with
    | some j => if j.gen = gen then setJob s i { j with ending := j.ending ++ [⟨uid, c, s.uid⟩] } else s
    | none => s

/-- STRAND_RELEASE (R17): once no DTE or Kudu command names the frame. -/
def execStrandRelease (r : StrandRef) (s : State) : Out :=
  match getStrand s r with
  | none => .next s
  | some t =>
    if t.status ≠ .ended ∨ engNames (getCore s r.core) t.uid (List.range t.tiles.length) (List.range t.tabs.length) true then .next s
    else
      let s := freeRoom (updCore s r.core (fun k => { k with strands := adel k.strands r.slot })) r.core (some r.slot)
        t.r.v.length t.tiles.length t.tabs.length
      let d := getDom s t.dom
      let s := match t.preq with
        | some (_, .preempt) => setDom s t.dom { d with imgReserved := d.imgReserved - 1 }
        | _ => s
      .next (endOrigin s r.core t.uid t.origin t.serial)

/-! Strand images (R336). -/

/-- Incomplete engine commands of a strand, DTE first. -/
def ownCmds (k : Core) (uid : Nat) : List (Bool × EngCmd) :=
  ((k.dteq.filter (fun q => q.who.uid == uid)).map (fun q => (false, q))) ++ ((k.kuduq.filter (fun q => q.who.uid == uid)).map (fun q => (true, q)))

/-- An engine command record (R336). -/
def cmdBytes (x : Bool × EngCmd) : List Byte :=
  let q := x.2
  leBytes 4 q.w0.toNat ++ leBytes 4 q.w1.toNat ++ leBytes 4 q.w2.toNat ++ leBytes 4 (q.step % 256 + (if x.1 then 256 else 0)) ++
    word8 q.a ++ word8 q.b ++ word8 q.c ++ word8 q.e ++ leBytes 128 q.scl.toNat ++ leBytes 8 q.num ++ leBytes 8 0

/-- The names set in a mask and present in a frame of `n`. -/
def liveNames (mask n : Nat) : List Nat := (List.range n).filter (fun i => mask.testBit i)

/-- Bits of names. -/
def namesMask (l : List Nat) : Nat := l.foldl (fun m i => if m.testBit i then m else m + 2 ^ i) 0

/-- A live table slot (R336). -/
def tabBytes (t : Table) : List Byte :=
  if !t.recd then leBytes 32 0
  else word8 t.src ++ word8 t.stride ++
    leBytes 8 ((if t.pol then 1 else 0) + (if t.mode then 2 else 0) + t.afmt.toNat * 4 + 128 + t.rebuilds % 65536 * 65536) ++ leBytes 8 0

/-- Live masks of a save: scalar, vector, tile, table (R120, R121). -/
structure Masks where
  sm : Nat
  vm : Nat
  tm : Nat
  lm : Nat
deriving DecidableEq, Repr

/-- Every register of the frame (R121). -/
def fullMasks (t : Strand) : Masks :=
  ⟨2 ^ 32 - 2, 2 ^ t.r.v.length - 1, 2 ^ t.tiles.length - 1, 2 ^ t.tabs.length - 1⟩

/-- Tiles and tables that incomplete commands name are live too (R297, R318). -/
def withCmds (k : Core) (t : Strand) (m : Masks) : Masks :=
  let cs := ownCmds k t.uid
  { m with tm := namesMask (liveNames m.tm 8 ++ cs.flatMap (fun x => engTiles x.2 x.1)),
           lm := namesMask (liveNames m.lm 8 ++ cs.flatMap (fun x => if x.1 then engTabs x.2 else [])) }

/-- Padded to a multiple of `n` with zero bytes. -/
def padTo (n : Nat) (l : List Byte) : List Byte := l ++ List.replicate ((n - l.length % n) % n) 0#8

/-- The strand image of R336. RECH is the handle of a trap's record, 0 for a sleeping strand and for a trap that has none yet
(log 73). -/
def strandImage (s : State) (r : StrandRef) (t : Strand) (m : Masks) (full : Bool) (kind : SaveKind) : List Byte :=
  let k := getCore s r.core
  let m := withCmds k t m
  let cs := ownCmds k t.uid
  let (trap, sleep, rech) : Bool × Bool × Word := match t.status with
    | .suspended h => (true, false, h)
    | .trapping _ => (true, false, 0)
    | .asleep _ | .faulting _ _ _ _ => (false, true, 0)
    | _ => (false, false, 0)
  let cause := causeCode (if kind = .withdraw then .partitionChanged else .preEmption)
  let w4 := (if full then 2 ^ 52 else 0) + (if t.serial then 2 ^ 51 else 0) + (if trap then 2 ^ 50 else 0) + (if sleep then 2 ^ 49 else 0) +
    cs.length * 2 ^ 40 + cause * 2 ^ 32 + m.tm % 256 * 2 ^ 24 + m.lm % 256 * 2 ^ 16 + t.r.v.length * 2 ^ 10 + t.tiles.length * 2 ^ 6 + t.tabs.length * 4
  let body := predBytes t.r ++ leBytes 8 0 ++
    (liveNames m.sm 32).flatMap (fun i => word8 (rd t.r (BitVec.ofNat 5 i))) ++
    (liveNames m.vm t.r.v.length).flatMap (fun i => let v := (t.r.v[i]?).getD ⟨0, 0, 0⟩
      leBytes 8 (v.tag.toNat + v.pois.toNat * 256) ++ lineBytes v.bits) ++
    (liveNames m.tm t.tiles.length).flatMap (fun i => let x := tileOf t i
      leBytes 8 (tileTag x + (if x.sticky then 256 else 0)) ++ leBytes 4096 x.bits.toNat) ++
    (liveNames m.lm t.tabs.length).flatMap (fun i => tabBytes ((t.tabs[i]?).getD ⟨false, 0, 0, false, false, 0, .unbuilt, 0, 0⟩)) ++
    cs.flatMap cmdBytes
  let body := padTo 64 body
  word8 (strandSid s r t.dom) ++ word8 (fireWord t) ++ word8 t.pc ++ leBytes 8 (m.sm % 2 ^ 32 * 2 ^ 32 + m.vm % 2 ^ 32) ++ leBytes 8 w4 ++
    word8 rech ++ word8 t.path ++ leBytes 8 (128 + body.length) ++ leBytes 8 t.r.spois.toNat ++ word8 t.r.fctl ++ word8 t.entry ++
    leBytes 8 (t.sbase.toNat + t.sstride.toNat * 2 ^ 32) ++ leBytes 8 (privNum t.priv) ++ leBytes 24 0 ++ body

/-- Commands of a strand leave the engines (R334). -/
def dropCmds (k : Core) (uid : Nat) : Core :=
  { k with dteq := k.dteq.filter (fun q => q.who.uid != uid), kuduq := k.kuduq.filter (fun q => q.who.uid != uid) }

/-- Slots of a domain's imgarea (R321): their number and the address of one. -/
def imgSlots (d : Dom) : Nat := if areaBase d.imgarea = 0 then 0 else 2 ^ areaLog d.imgarea
/-- R335. -/
def imgAddr (d : Dom) (n : Nat) : Word := BitVec.ofNat 64 (areaBase d.imgarea + 65536 * n)

/-- A free slot for a save (R335): a `preempt` has reserved one. -/
def imgSlot (d : Dom) (kind : SaveKind) : Option Nat :=
  let free := (List.range (imgSlots d)).filter (fun i => !d.imgUsed.contains i)
  if kind = .preempt then free.head?
  else if d.imgReserved < free.length then free.head? else none

/-- A save that finds no room waits; logged once (R335). Its engine commands run on meanwhile. -/
def saveWaits (s : State) (r : StrandRef) (t : Strand) : State :=
  if t.noted then setStrand s r { t with stopping := false }
  else setStrand (logEvent s (strandSid s r t.dom) .preEmption 0) r { t with noted := true, stopping := false }

/-- Bytes written by a device over one or more pages, poisoned or clean; the first fault stops it. -/
def devWriteLong (s : State) (g : Agent) (va : Word) (l : List Byte) (p : Bool) (fuel : Nat) : Except (DevErr × State) State :=
  match fuel with
  | 0 => .ok s
  | k + 1 =>
    if l.isEmpty then .ok s
    else
      let n := 65536 - va.toNat % 65536
      match devXlate s g va .store with
      | .error e => .error e
      | .ok (pa, s) =>
        let s := (splitBlocks (.mem pa) ((l.take n).map (fun b => some (b, p))) 1100).foldl (fun s q => (landBytes s none q.1 q.2).1) s
        devWriteLong s g (va + BitVec.ofNat 64 n) (l.drop n) p k

/-- A strand saved (R332–R336): none while there is no room or the image cannot be written. -/
def saveStrand (s : State) (r : StrandRef) (t : Strand) (m : Masks) (full : Bool) (kind : SaveKind) : Option State :=
  let img := strandImage s r t m full kind
  let sid := strandSid s r t.dom
  let d := getDom s t.dom
  let stopped : Option Status := match t.status with
    | .trapping _ | .faulting _ _ _ _ | .asleep _ => some t.status
    | _ => none
  let note (s' : State) (key : Nat) : State :=
    let d := getDom s' t.dom
    setDom s' t.dom { d with origins := d.origins ++
      [⟨sid, key, t.uid, t.origin, t.path, stopped, (ownCmds (getCore s r.core) t.uid).map (fun x => (x.1, x.2.num))⟩] }
  match kind with
  | .context =>
    some (note (setStrand (updCore s r.core (fun k => dropCmds k t.uid)) r { t with status := .saved img, preq := none, halt := false, stopping := false }) 0)
  | _ =>
    match imgSlot d kind with
    | none => none
    | some n =>
      match devWriteLong s (recAgent r t.dom) (imgAddr d n) img false 2 with
      | .error _ => none
      | .ok s =>
        let d := getDom s t.dom
        let (o, s) := fresh s
        let f : Firing := ⟨.image n (imgAddr d n) t.dom, t.prio, now s, o⟩
        let d := { d with imgUsed := d.imgUsed ++ [n], imgReserved := if kind = .preempt then d.imgReserved - 1 else d.imgReserved,
                          parked := if kind = .withdraw then d.parked ++ [f] else d.parked }
        let s := setDom s t.dom d
        let s := updCore s r.core (fun k =>
          let k := dropCmds k t.uid
          { k with strands := adel k.strands r.slot, jmu := if kind = .withdraw then k.jmu else { k.jmu with queue := k.jmu.queue ++ [f] } })
        some (note s (imgAddr d n).toNat)

/-- A command of the strand is in a step or a rebuild, or its last step is done and its completion due: the save comes at the step
boundary (R297, R318). -/
def inStep (s : State) (c : CoreId) (t : Strand) : Bool :=
  let k := getCore s c
  k.dteq.any (fun q => q.who.uid == t.uid && (q.left != 0 || decide (dteSteps q ≤ q.step))) ||
  k.kuduq.any (fun q => q.who.uid == t.uid && (q.left != 0 || q.build.isSome || decide (kuduSteps t q ≤ q.step)))

/-- R120: the checks come with the shared ones; with a request pending the strand is saved with the state it names. -/
def execSafept (tmask lmask : BitVec 8) (smask vmask : BitVec 32) (s : State) : Out :=
  issue (.safept tmask lmask smask vmask) s (fun s x =>
    match x.t.preq with
    | none => .ok (s, .seq)
    | some (_, kind) =>
      if !belowDone s x.r.core x.t.uid s.uid x.t.openers 2 then .error (.wait (.fence 2))
      else if inStep s x.r.core x.t then .ok (updStrand s x.r (fun t => { t with stopping := true }), .hold .partition)
      else
        let t := { x.t with pc := x.t.pc + BitVec.ofNat 64 x.len, stopping := false }
        match saveStrand s x.r t ⟨smask.toNat, vmask.toNat, tmask.toNat, lmask.toNat⟩ false kind with
        | some s => .ok (s, .stay)
        | none => .ok (saveWaits s x.r x.t, .hold .partition))

/-- A strand in this state is saved in full at once (R332, R369), or, once the answer that a save has waited for is written,
before its next instruction (R333). -/
def savedAtOnce (t : Strand) : Bool :=
  match t.status with
  | .ready => t.saveNow
  | .waiting (.timeline _ _) => true
  | .waiting (.tags _ _ _ _ _) => true
  | .waiting (.idle _) => true
  | .waiting (.pause _) => true
  | .waiting (.engine _ _ trim) => trim
  | .waiting (.job _ _ _ _ _) => true
  | .waiting (.answer n) => n != 0
  | .suspended _ => true
  | .asleep _ => true
  | .trapping _ => true
  | .faulting _ _ _ _ => true
  | _ => false

/-- A full save: its earlier accesses are done first (R99, R244). -/
def fullSave (s : State) (r : StrandRef) (t : Strand) (kind : SaveKind) : State :=
  if !t.openers.isEmpty then setStrand s r { t with openers := t.openers.map (fun o => { o with isOpen := false }) }
  else if !belowDone s r.core t.uid s.uid [] 2 then s
  else if inStep s r.core t then setStrand s r { t with stopping := true }
  else match saveStrand s r t (fullMasks t) true kind with
    | some s => s
    | none => saveWaits s r t

/-- STRAND_SAVE (R332, R335); run-ahead ends first (R141). -/
def execStrandSave (r : StrandRef) (s : State) : Out :=
  match getStrand s r with
  | none => .next s
  | some t =>
    match t.preq with
    | none => .next s
    | some (_, kind) => if t.shadow.isNone ∧ savedAtOnce t then .next (fullSave s r t kind) else .next s

/-- A strand that has begun no instruction: at an instruction boundary (R244, R332). -/
def atBoundary (t : Strand) : Bool :=
  !t.inside && match t.status with
  | .ready => true
  | .waiting (.miss _) => true
  | .waiting .openers => true
  | .waiting .stores => true
  | .waiting .sends => true
  | .waiting (.queue _) => true
  | _ => false

/-- PREEMPT_FORCE_TIMEOUT (R332): no `safept` within 100 µs of the request. -/
def execPreemptForceTimeout (r : StrandRef) (s : State) : Out :=
  match getStrand s r with
  | none => .next s
  | some t =>
    match t.preq with
    | none => .next s
    | some (at_, kind) =>
      if at_ + 100000 ≤ now s ∧ t.shadow.isNone ∧ atBoundary t then .next (fullSave s r t kind) else .next s

/-! Restoring (R22, R121, R336). -/

/-- Doubleword `i` of an image from a byte offset. -/
def imgWord (l : List Byte) (off : Nat) : Word := leWord ((l.drop off).take 8)

/-- Sizes of an image: live names and offsets. -/
structure ImgMap where
  sms : List Nat
  vms : List Nat
  tms : List Nat
  lms : List Nat
  v : Nat
  a : Nat
  t : Nat
  neng : Nat
  offS : Nat
  offV : Nat
  offT : Nat
  offL : Nat
  offC : Nat
  stop : Nat
deriving DecidableEq, Repr

/-- The layout that a header gives (R336). -/
def imgMap (l : List Byte) : ImgMap :=
  let w3 := imgWord l 24
  let w4 := imgWord l 32
  let sms := (List.range 32).filter (fun i => w3.getLsbD (32 + i))
  let vms := (List.range 32).filter (fun i => w3.getLsbD i)
  let tms := (List.range 8).filter (fun i => w4.getLsbD (24 + i))
  let lms := (List.range 8).filter (fun i => w4.getLsbD (16 + i))
  let neng := bitsOf w4 40 8
  let offS := 192
  let offV := offS + 8 * sms.length
  let offT := offV + 72 * vms.length
  let offL := offT + 4104 * tms.length
  let offC := offL + 32 * lms.length
  { sms := sms, vms := vms, tms := tms, lms := lms, v := bitsOf w4 10 6, a := bitsOf w4 6 4, t := bitsOf w4 2 4, neng := neng,
    offS := offS, offV := offV, offT := offT, offL := offL, offC := offC, stop := (offC + 192 * neng + 63) / 64 * 64 }

/-- The registers A, B, C and E that an engine command names and captures (R286, R310–R314). -/
def cmdNames (i : Instr) : List Bool :=
  match i with
  | .tmma _ _ _ _ _ _ _ sc _ => [true, true, true, sc == 1]
  | .tst _ _ _ _ _ _ => [true, false, true, false]
  | .lbld _ _ _ _ _ _ _ => [true, true, false, false]
  | .lmm _ _ _ _ _ _ _ => [true, false, true, false]
  | _ => [false, false, false, false]

/-- An engine command record at an offset of an image is well formed (R336, R346): its words are a command of the engine that it
names, its zero bits are zero, what it captures belongs to a register that it names, and only `tscl` captures scales. -/
def cmdOk (l : List Byte) (o : Nat) : Bool :=
  let w0 : IWord := (imgWord l o).setWidth 32
  let w1 : IWord := ((imgWord l o) >>> 32).setWidth 32
  let w := imgWord l (o + 8)
  let kudu := w.getLsbD 40
  let fn := bitsOf (imgWord l o) 4 5
  bitsOf w 41 23 == 0 && imgWord l (o + 184) == 0 &&
    (match decodeWords w0 w1 (w.setWidth 32) 0 with
     | .ok i => (cmdNames i).zipIdx.all (fun x => x.1 || imgWord l (o + 16 + 8 * x.2) == 0)
     | .error _ => false) &&
    (if kudu then fMaj w0 == 0x29 && (fn == 0 || fn == 1 || fn == 2 || fn == 4) else fMaj w0 == 0x28 && decide (fn ≤ 3)) &&
    ((!kudu && fn == 3) || ((l.drop (o + 48)).take 128).all (fun b => b == 0))

/-- Engine command records of an image for one engine. -/
def cmdCount (l : List Byte) (off n : Nat) (kudu : Bool) : Nat :=
  ((List.range n).filter (fun i => (imgWord l (off + 192 * i + 8)).getLsbD 40 == kudu)).length

/-- The image is well formed (R336, R346): masks within the frame, codes valid, reserved bits zero, its length. -/
def imgOk (l : List Byte) : Bool :=
  let m := imgMap l
  let w4 := imgWord l 32
  decide (128 ≤ l.length) && (imgWord l 56).toNat == m.stop && decide (m.stop ≤ l.length) &&
    bitsOf (imgWord l 8) 19 45 == 0 && decide (bitsOf (imgWord l 8) 8 8 ≤ 3) && bitsOf (imgWord l 72) 7 57 == 0 && !(imgWord l 24).getLsbD 32 && bitsOf w4 53 11 == 0 && bitsOf w4 48 1 == 0 && bitsOf w4 39 1 == 0 &&
    bitsOf w4 0 2 == 0 && decide (m.neng ≤ 32) && decide (m.v ≤ 32) && decide (m.a ≤ 8) && decide (m.t ≤ 8) &&
    m.vms.all (fun i => decide (i < m.v)) && m.tms.all (fun i => decide (i < m.a)) && m.lms.all (fun i => decide (i < m.t)) &&
    bitsOf (imgWord l 64) 32 32 == 0 && bitsOf (imgWord l 96) 2 62 == 0 && bitsOf (imgWord l 96) 0 2 != 3 &&
    ((l.drop 104).take 24).all (fun b => b == 0) && imgWord l 184 == 0 &&
    m.vms.zipIdx.all (fun x => let w := imgWord l (m.offV + 72 * x.2); bitsOf w 5 3 == 0 && bitsOf w 16 48 == 0) &&
    m.tms.zipIdx.all (fun x => let w := imgWord l (m.offT + 4104 * x.2); (bitsOf w 0 5 == 5 || bitsOf w 0 5 == 12) && bitsOf w 5 3 == 0 && bitsOf w 9 55 == 0) &&
    m.lms.zipIdx.all (fun x => let o := m.offL + 32 * x.2; bitsOf (imgWord l (o + 16)) 8 8 == 0 && bitsOf (imgWord l (o + 16)) 32 32 == 0 && imgWord l (o + 24) == 0 &&
      ((imgWord l (o + 16)).getLsbD 7 || ((l.drop o).take 32).all (fun b => b == 0))) &&
    (bitsOf w4 32 7 == causeCode .preEmption || bitsOf w4 32 7 == causeCode .partitionChanged) &&
    m.lms.zipIdx.all (fun x => let w := imgWord l (m.offL + 32 * x.2 + 16); !w.getLsbD 7 || bitsOf w 2 5 == 1 || bitsOf w 2 5 == 11) &&
    (List.range m.neng).all (fun i => cmdOk l (m.offC + 192 * i)) &&
    decide (cmdCount l m.offC m.neng false ≤ 16) && decide (cmdCount l m.offC m.neng true ≤ 16) &&
    ((l.drop (m.offC + 192 * m.neng)).take (m.stop - (m.offC + 192 * m.neng))).all (fun b => b == 0)

/-- A saved tag of 19 to 31 (R34, R346). -/
def imgTagBad (l : List Byte) : Bool :=
  let m := imgMap l
  m.vms.zipIdx.any (fun x => decide (19 ≤ bitsOf (imgWord l (m.offV + 72 * x.2)) 0 5))

/-- The registers of an image (R22, R121); a reserved tag is never loaded (R34). -/
def imgRegs (s : State) (l : List Byte) (sid : Word) (slot : Nat) : Regs :=
  let m := imgMap l
  let fire := imgWord l 8
  let base : List Word := [imgWord l 80, stackTop ((imgWord l 88).setWidth 32) (((imgWord l 88) >>> 32).setWidth 32) slot, sid] ++
    List.replicate 8 0 ++ [(fire &&& 0xFF00FF#64) ||| 0x300#64, BitVec.ofNat 64 (now s)]
  let r := scalarsFrom base
  let r := m.sms.zipIdx.foldl (fun r x => wr r (BitVec.ofNat 5 x.1) (imgWord l (m.offS + 8 * x.2)) ((imgWord l 64).getLsbD x.1)) r
  let vreg (i : Nat) : VReg := match m.vms.idxOf? i with
    | some k => let o := m.offV + 72 * k
      let tag := bitsOf (imgWord l o) 0 5
      ⟨bytesLine ((l.drop (o + 8)).take 64), BitVec.ofNat 5 (if 19 ≤ tag then 0 else tag), ((imgWord l o) >>> 8).setWidth 8⟩
    | none => ⟨0, 0, 0⟩
  { r with fctl := imgWord l 72 &&& 0x7F#64, v := (List.range m.v).map vreg,
           p := (List.range 7).foldl (fun (p : Vector Word 8) i => p.setIfInBounds (i + 1) (imgWord l (128 + 8 * i))) r.p }

/-- The tiles of an image (R121). -/
def imgTiles (l : List Byte) : List Tile :=
  let m := imgMap l
  (List.range m.a).map (fun i => match m.tms.idxOf? i with
    | some k => let o := m.offT + 4104 * k
      ⟨BitVec.ofNat 32768 (leNat ((l.drop (o + 8)).take 4096)), bitsOf (imgWord l o) 0 5 == 12, (imgWord l o).getLsbD 8⟩
    | none => ⟨0, false, false⟩)

/-- The table slots of an image: a live one with a record is Restored (R317). -/
def imgTabs (s : State) (l : List Byte) : List Table :=
  let m := imgMap l
  (List.range m.t).map (fun i => match m.lms.idxOf? i with
    | some k =>
      let o := m.offL + 32 * k
      let w := imgWord l (o + 16)
      if w.getLsbD 7 then ⟨true, imgWord l o, imgWord l (o + 8), w.getLsbD 0, w.getLsbD 1, (w >>> 2).setWidth 5, .restored, bitsOf w 16 16, Config.freeTable (s.free + i)⟩
      else ⟨false, 0, 0, false, false, 0, .unbuilt, 0, Config.freeTable (s.free + i)⟩
    | none => ⟨false, 0, 0, false, false, 0, .unbuilt, 0, Config.freeTable (s.free + i)⟩)

/-- The engine commands of an image, for a strand (R297, R318). -/
def imgCmds (l : List Byte) (slot : Nat) (who : Issuer) : List (Bool × EngCmd) :=
  let m := imgMap l
  (List.range m.neng).map (fun i =>
    let o := m.offC + 192 * i
    let w := imgWord l (o + 8)
    (w.getLsbD 40, { w0 := (imgWord l o).setWidth 32, w1 := ((imgWord l o) >>> 32).setWidth 32, w2 := w.setWidth 32,
                     a := imgWord l (o + 16), b := imgWord l (o + 24), c := imgWord l (o + 32), e := imgWord l (o + 40),
                     scl := BitVec.ofNat 1024 (leNat ((l.drop (o + 48)).take 128)), num := (imgWord l (o + 176)).toNat,
                     step := bitsOf w 32 8, slot := slot, who := who, hit := false, build := none }))

/-- The number of the installed SERIAL pattern of an index and channel 0, 0 for none. -/
def patKey (s : State) (idx : Nat) (path : Word) : Nat :=
  ((s.cores.findSome? (fun c => c.2.jmu.pats.find? (fun p => p.serial && p.idx == idx && p.chans.head? == some path))).map (fun p => p.key)).getD 0

/-- What a saved strand served, and its number, taken off the record of saves; `key` is the address from which its image is
read. An image names its pattern by index and channel 0: one that this package did not save, and one restored with its core,
whose patterns are installed anew, serves the pattern found there. -/
def takeOrigin (s : State) (dom : Nat) (sid fire path : Word) (key : Nat) (whole : Bool) : Nat × Origin × Option Status × State :=
  let d := getDom s dom
  let here := d.origins.filter (fun x => x.sid == sid)
  match (match here.find? (fun x => x.key == key) with | some x => some x | none => here.head?) with
  | some x =>
    let o := match x.origin with
      | .pattern i k => .pattern i (if whole then patKey s i path else k)
      | .item job gen index => .item job gen index
    (x.uid, o, x.stopped, setDom s dom { d with origins := d.origins.erase x })
  | none => let (u, s) := fresh s; (u, .pattern (bitsOf fire 0 8) (patKey s (bitsOf fire 0 8) path), none, s)

/-- A command re-posted (R297): it keeps its number on the core that saved it and in a core image; alone on another core it
takes a new one, and its old number completes there with the error status set. -/
def repost (s : State) (c old : CoreId) (whole : Bool) (x : Bool × EngCmd) : State :=
  let tl := if x.1 then 5 else 4
  let (q, s) : EngCmd × State :=
    if whole ∨ c = old then (x.2, s)
    else
      let s := tlComplete s old tl x.2.num false
      let (n, s) := tlPost s c tl
      ({ x.2 with num := n }, s)
  updCore s c (fun k => if x.1 then { k with kuduq := k.kuduq ++ [q] } else { k with dteq := k.dteq ++ [q] })

/-- Where a restored strand stands (R142, R336): on its trap's record, on the record that the device has kept for it, whose
closing meanwhile lets it go on (R332), or on the trap or fault that has no record yet. An image of which this package keeps
nothing restores asleep a strand whose record it cannot name, and lets one suspended without a record meet its trap again
(log 73). -/
def imgStatus (d : Dom) (trap sleep : Bool) (rech : Word) (stopped : Option Status) : Status × Option (Word × BitVec 32) × Word :=
  match stopped with
  | some (.asleep h) => (match aget d.awake h with | some from_ => (.ready, from_, h) | none => (.asleep h, none, 0))
  | some st => (st, none, 0)
  | none => (if trap then (if rech = 0 then .ready else .suspended rech) else if sleep then .asleep 0 else .ready, none, 0)

/-- The strand of an image placed in a slot (R22, R121, R244, R336). A trap or fault record closed meanwhile lets it go on
(R331, R332). No strand of a compute core has privilege H (R9): an image in imgarea that gives it is read as S (log 73). -/
def placeImage (s : State) (c : CoreId) (slot dom : Nat) (l : List Byte) (whole : Bool) (key : Nat) : State :=
  let old := imgWord l 0
  let fire := imgWord l 8
  let sid := strandSid s ⟨c, slot⟩ dom
  let w4 := imgWord l 32
  let rech := imgWord l 40
  let (uid, origin, stopped, s) := takeOrigin s dom old fire (imgWord l 48) key whole
  let regs := imgRegs s l sid slot
  let (t, s') := bareStrand s uid dom (let p := privOf (bitsOf (imgWord l 96) 0 2); if c.kind = .compute ∧ p = .h then .s else p) (imgWord l 16) regs 0 0 0 origin
  let d := getDom s dom
  let (status, from_, woken) := imgStatus d (w4.getLsbD 50) (w4.getLsbD 49) rech stopped
  let t := { t with r := regs, tiles := imgTiles l, tabs := imgTabs s l, status := status, prio := bitsOf fire 16 3, kind := 3,
                    pat := bitsOf fire 0 8, entry := imgWord l 80, sbase := (imgWord l 88).setWidth 32,
                    sstride := ((imgWord l 88) >>> 32).setWidth 32, serial := w4.getLsbD 51, path := imgWord l 48,
                    from_ := from_ }
  let s := setDom s' dom { (getDom s' dom) with awake := d.awake.filter (fun h => woken == 0 || h.1 != woken) }
  let s := acquireFiring (setStrand s ⟨c, slot⟩ t) c 2
  let who : Issuer := ⟨uid, sid, dom, t.priv, t.pc, 0⟩
  let s := (imgCmds l slot who).foldl (fun s x => repost s c ((coreOfPlaces old).getD c) whole x) s
  if !w4.getLsbD 50 then s
  else match (getDom s dom).resumed.find? (fun x => x.1 == rech) with
    | none => s
    | some x =>
      let d := getDom s dom
      let s := setDom s dom { d with resumed := d.resumed.erase x }
      match getStrand s ⟨c, slot⟩ with
      | some t => returnStrand s ⟨c, slot⟩ t x.2.1 x.2.2
      | none => s

/-- Bytes read by a device over pages; the first fault stops it. -/
def devReadLong (s : State) (g : Agent) (va : Word) (n fuel : Nat) : Except (DevErr × State) (List Byte × State) :=
  match fuel with
  | 0 => .ok ([], s)
  | k + 1 =>
    if n = 0 then .ok ([], s)
    else
      let m := min n (65536 - va.toNat % 65536)
      match devRead s g va m with
      | .error e => .error e
      | .ok (l, _, s) =>
        match devReadLong s g (va + BitVec.ofNat 64 m) (n - m) k with
        | .error e => .error e
        | .ok (t, s) => .ok (l ++ t, s)

/-- The engines' queues have room for the commands of an image: 16 each (R282, R306). -/
def engRoom (k : Core) (l : List Byte) : Bool :=
  let m := imgMap l
  decide (k.kuduq.length + cmdCount l m.offC m.neng true ≤ 16) && decide (k.dteq.length + cmdCount l m.offC m.neng false ≤ 16)

/-- A saved strand's image restored from imgarea into a slot, which frees its area (R335), once the engines' queues have room for
its commands. A saved tag of 19 to 31 raises `tag-reserved` in the restored strand, whose register is left raw (R34, R269); other
broken codes and zero bits of an image are not looked at (log 73). -/
def restoreFrom (s : State) (c : CoreId) (n : Nat) (addr : Word) (dom : Nat) (f : Firing) : State :=
  let g : Agent := ⟨c, none, false, dom, 1⟩
  match devReadLong s g addr 65536 2 with
  | .error (_, s) => s
  | .ok (l, s) =>
    let m := imgMap l
    match roomFor c (getCore s c) s.cycle m.v m.a m.t with
    | none => s
    | some slot =>
      if !engRoom (getCore s c) l then s else
      let d := getDom s dom
      let s := setDom s dom { d with imgUsed := d.imgUsed.filter (fun i => i != n), parked := d.parked.filter (fun x => x != f) }
      let s := updJmu s c (fun j => { j with queue := j.queue.filter (fun x => x != f) })
      let s := placeImage s c slot dom (l.take m.stop) false addr.toNat
      if imgTagBad (l.take m.stop) then
        (match getStrand s ⟨c, slot⟩ with
         | some t => raiseTrap s ⟨c, slot⟩ { t with status := .ready } (trapReq s .tagReserved 0 0 t.pc t.pc 0)
         | none => s)
      else s

/-- The first of some parked strands that the core has room for restored. -/
def restoreFirst (s : State) (c : CoreId) (dom : Nat) (l : List Firing) : State :=
  match l with
  | [] => s
  | f :: t =>
    let s := match f.what with | .image n addr d => restoreFrom s c n addr d f | _ => s
    if (getDom s dom).parked.contains f then restoreFirst s c dom t else s

/-- A strand parked by a withdrawal restored, when the core has a domain with one for which it has room (R201). -/
def restoreParked (s : State) (c : CoreId) (k : Core) : State :=
  match k.dom with
  | none => s
  | some dom => restoreFirst s c dom (sortBy (fun a b => lexLt (firingKey a) (firingKey b)) (getDom s dom).parked)

/-- STRAND_RESTORE (R22, R201, R335): the image next in the core's order, or one parked by a withdrawal, when it fits. -/
def execStrandRestore (c : CoreId) (s : State) : Out :=
  let k := getCore s c
  if !mayAdmit s c k then .next s
  else match nextFiring k with
    | some f =>
      (match f.what with
       | .image n addr dom => .next (restoreFrom s c n addr dom f)
       | _ => .next (restoreParked s c k))
    | none => .next (restoreParked s c k)

/-- ICACHE_LINE_FILL (R80, R83). -/
def execIcacheLineFill (c : CoreId) (line : Nat) (s : State) : Out :=
  if frameExists s (64 * line) then
    let (b, _, s) := lineRead s c 1 line
    .next (updCore s c (fun k => { k with icache := aset k.icache line (bytesLine b.bytes) }))
  else .next s

end Sys2Proof.Machine
end

