-- ==== Sys2Proof/Machine/Priv.lean ====
section
/-! DEFINITION. The PRIV family but for core images (R341–R344, R347, R348), the resize of a partition (R199–R201), and the
withdrawal of a failed unit (R10). -/

namespace Sys2Proof.Machine

/-- A selector of the family (R341): this package, no bit outside its fields (`zero`), a cluster of 0–9. -/
def selOk (s : State) (w zero : Word) : Except Stop Unit :=
  orTrap (bitsOf w 52 12 == s.pkg && w &&& zero == 0 && decide (bitsOf w 46 4 ≤ 9)) .operandRange

/-- INST is in the range of its class (R342). -/
def instOk (cls inst : Nat) : Bool :=
  match cls with
  | 0 => decide (inst < 64)
  | 1 => decide (inst < 18)
  | 2 => inst == 0
  | 3 => decide (inst < 8)
  | 4 => decide (inst < 80)
  | 5 => decide (inst < 32)
  | 6 => inst == 0
  | 7 => inst == 0
  | _ => false

/-- R342. -/
def execActw (d a b : BitVec 5) (s : State) : Out :=
  issue (.actw d a b) s (fun s x => do
    needCleanAll x.t.r [a, b]
    let w := rd x.t.r a
    let v := rd x.t.r b
    let (cls, inst, dom) := (bitsOf w 40 8, bitsOf w 24 16, bitsOf w 0 8)
    orTrap (bitsOf w 52 12 == s.pkg && bitsOf w 48 4 == 0 && bitsOf w 8 16 == 0 && instOk cls inst && bitsOf v 4 60 == 0) .operandRange
    let old := accessBits s cls inst dom
    answer { s with access := aset s.access (cls, inst, dom) (v.setWidth 4) } x d (old.setWidth 64))

/-- R344. -/
def execFiltw (d a b : BitVec 5) (s : State) : Out :=
  issue (.filtw d a b) s (fun s x => do
    needCleanAll x.t.r [a, b]
    let w := rd x.t.r a
    let v := rd x.t.r b
    let key := (bitsOf w 8 8, bitsOf w 0 8)
    orTrap (bitsOf w 16 48 == 0 && bitsOf v 2 14 == 0 && bitsOf v 32 32 == 0 &&
      (if bitsOf v 0 2 = 3 then bitsOf v 16 16 != 0 else bitsOf v 16 16 == 0)) .operandRange
    let old := (aget s.filter key).getD 0
    answer { s with filter := aset s.filter key (v.setWidth 32) } x d (old.setWidth 64))

/-! Pre-emption and halts (R332, R340, R347). -/

/-- A strand that a request can target: it has not executed `done`. -/
def targetable (t : Strand) : Bool := match t.status with | .ended => false | .saved _ => false | _ => true

/-- The bits of a `preempt` target that are zero (R347). -/
def preemptZero : Word := 0x000000000F3FFFFF#64

/-- The strands that a target names (R347). -/
def preemptTargets (s : State) (w : Word) : List (StrandRef × Strand) :=
  let c := computeId (bitsOf w 50 2) (bitsOf w 46 4) (bitsOf w 42 4)
  ((getCore s c).strands.map (fun y => ((⟨c, y.1⟩ : StrandRef), y.2))).filter (fun y =>
    y.2.dom == bitsOf w 28 8 && targetable y.2 && (w.getLsbD 23 || y.1.slot == bitsOf w 36 6))

/-- `preempt` on a well-formed target: D and the requests (R332, R340, R347). -/
def preemptAct (s : State) (w : Word) : Word × State :=
  let ts := preemptTargets s w
  let n := BitVec.ofNat 64 ts.length
  if w.getLsbD 22 then (n, ts.foldl (fun s y => setStrand s y.1 { y.2 with halt := true }) s)
  else
    let new := ts.filter (fun y => y.2.preq.isNone)
    let dom := bitsOf w 28 8
    let d := getDom s dom
    if imgSlots d < d.imgUsed.length + d.imgReserved + new.length then (refusalWord .preEmption, s)
    else
      let s := setDom s dom { d with imgReserved := d.imgReserved + new.length }
      (n, new.foldl (fun s y => setStrand s y.1 { y.2 with preq := some (now s, .preempt) }) s)

/-- `preempt` (R347): one meaning, chosen by HALT at run time. -/
def preempt (i : Instr) (d a : BitVec 5) (s : State) : Out :=
  issue i s (fun s x => do
    needClean x.t.r a
    let w := rd x.t.r a
    selOk s w preemptZero
    let (v, s) := preemptAct s w
    answer s x d v)

/-- R347. -/
def execPreempt (d a : BitVec 5) (s : State) : Out := preempt (.preempt d a) d a s
/-- R347. -/
def execPreemptHalt (d a : BitVec 5) (s : State) : Out := preempt (.preemptHalt d a) d a s

/-! The time base (R348). -/

/-- The status word (R348). -/
def tsyncStatus (s : State) : Word :=
  BitVec.ofNat 64 ((if s.cys.locked then 2 ^ 63 else 0) + (if s.cys.ref then 2 ^ 62 else 0) + s.cys.refPkg % 4096 * 2 ^ 32 +
    natN 32 (sat32 (offsetNs s)))

/-- `tsync` (R348). No result is stated for operation 2: a free value (log 18). -/
def tsync (i : Instr) (d a b : BitVec 5) (s : State) : Out :=
  issue i s (fun s x => do
    needCleanAll x.t.r [a, b]
    let v := rd x.t.r b
    match (rd x.t.r a).toNat with
    | 0 => answer s x d (tsyncStatus s)
    | 1 =>
      let here := v.getLsbD 12
      answer { s with cys := { s.cys with ref := here, refPkg := if here then s.pkg else bitsOf v 0 12 } } x d 0
    | 2 =>
      orTrap (s.cys.ref && decide (now s ≤ v.toNat)) .operandRange
      let f := Config.freeWord s.free
      answer { s with free := s.free + 1, cys := { s.cys with now := v.toNat } } x d f
    | _ => throw (plainTrap .operandRange))

/-- R348. -/
def execTsyncStatus (d a b : BitVec 5) (s : State) : Out := tsync (.tsyncStatus d a b) d a b s
/-- R348. -/
def execTsyncSetReference (d a b : BitVec 5) (s : State) : Out := tsync (.tsyncSetReference d a b) d a b s
/-- R348. -/
def execTsyncSetTime (d a b : BitVec 5) (s : State) : Out := tsync (.tsyncSetTime d a b) d a b s

/-! Partitions (R199–R201, R343). -/

/-- The cores that a `partw` selector names (R343). -/
def partCores (w : Word) : List CoreId :=
  let (d, k) := (bitsOf w 50 2, bitsOf w 46 4)
  if w.getLsbD 41 then [computeId d k (bitsOf w 42 4)] else (List.range 16).map (computeId d k)

/-- A frame exceeds what a pool word provides (R15). -/
def exceeds (c : CoreId) (w : BitVec 32) (v a t : Nat) : Bool :=
  let (pv, pa, pt) := poolOf c w
  decide (pv < v) || decide (pa < a) || decide (pt < t)

/-- A job's masks select a core (R190). -/
def selects (j : Job) (c : CoreId) : Bool :=
  (j.clmask == 0 || j.clmask.getLsbD (10 * c.die + c.clus)) && (j.cmask == 0 || j.cmask.getLsbD c.num)

/-- Pool units that a word leaves to the scratchpad are fewer than 1, or its zero bits are set (R199). -/
def wordBad (b : Word) : Bool := bitsOf b 24 40 != 0 || decide (48 < bitsOf b 0 8 + bitsOf b 8 8 + bitsOf b 16 8 + 1)

/-- Why a pool word is refused for a core (R199). -/
def wordRefusal (s : State) (c : CoreId) (dom : Nat) (pats : List Pat) (b : Word) : Option Cause :=
  let w := b.setWidth 32
  if wordBad b then some .operandRange
  else if pats.any (fun p => exceeds c w p.v p.a p.t) ||
      s.jobs.any (fun y => y.2.dom == dom && y.2.st != .complete && y.2.gang.isNone && selects y.2 c && exceeds c w y.2.v y.2.a y.2.t) then
    some .frameUnadmittable
  else none

/-- The scrub of a core (R343): pool, scratchpad, JMU, tags, timelines and the core's caches. Spilled channels keep their
rings (R175). -/
def scrubCore (s : State) (c : CoreId) : State :=
  updCore s c (fun k => { Core.reset with failed := k.failed, bubble := k.bubble, bubbleSet := k.bubbleSet, guardDue := k.guardDue,
                                          acq := s.cycle,
                                          jmu := { Jmu.reset with seq := k.jmu.seq, chans := k.jmu.chans.filter (fun q => q.spilled) } })

/-- OP 0 (R343): D and the state. -/
def assignCores (s : State) (dom : Nat) (cs : List CoreId) (b : Word) : Word × State :=
  if cs.any (fun c => (getCore s c).failed) then (refusalWord .neighbourUnavailable, s)
  else if cs.any (fun c => (getCore s c).dom.isSome) then (refusalWord .operandRange, s)
  else match cs.findSome? (fun c => wordRefusal s c dom [] b) with
    | some e => (refusalWord e, s)
    | none => (0, cs.foldl (fun s c => updCore (scrubCore s c) c (fun k => { k with dom := some dom, pword := b.setWidth 32 })) s)

/-- A range put among ascending ranges. -/
def putRange (l : List (Nat × Nat)) (r : Nat × Nat) : List (Nat × Nat) :=
  match l with
  | [] => [r]
  | x :: t => if r.1 < x.1 then r :: x :: t else x :: putRange t r

/-- Items return to their dealer (R201). An offered item of a cancelled job returns too: it runs to its end (R207). -/
def giveBack (s : State) (i gen : Nat) (items : List (Nat × Nat)) (decided : Nat) : State :=
  match aget s.jobs i with
  | none => s
  | some j =>
    if j.gen ≠ gen then s
    else
      setJob s i { j with outstanding := j.outstanding - decided, undealt := items.foldl putRange j.undealt }

/-- Chunks and unadmitted items of a core return to their dealers; saved strands that waited on it wait for another core
(R201). -/
def returnWork (s : State) (c : CoreId) : State :=
  let k := getCore s c
  let s := k.launchq.foldl (fun s q => giveBack s q.job q.gen q.items 0) s
  let s := k.jmu.queue.foldl (fun s f => match f.what with
    | .item i gen index _ => giveBack s i gen [(index, index + 1)] 1
    | .image _ _ d => let m := getDom s d; setDom s d { m with parked := m.parked ++ [f] }
    | .pattern _ _ _ => s) s
  updCore s c (fun k => { k with launchq := [], jmu := { k.jmu with queue := k.jmu.queue.filter (fun f => match f.what with
    | .pattern _ _ _ => true
    | _ => false) } })

/-- Jobs of a domain whose core set has become empty (R201). -/
def emptyJobs (s : State) (dom : Nat) : State :=
  s.jobs.foldl (fun s y => if y.2.dom = dom then jobEmpty s y.1 else s) s

/-- Channels of a core left in place, spilled (R175). -/
def spillGroup (s : State) (c : CoreId) (g : List Word) : State :=
  updJmu s c (fun j => { j with chans := j.chans.map (fun q => if g.contains q.handle then { q with spilled := true } else q) })

/-- The next group of the leaving cores that can go, and where to: the remaining core with the fewest channels (R201), or
nowhere. A group waits while that core has no room for it. -/
def nextOut (s : State) (cs : List CoreId) (dom : Nat) : Option (CoreId × List Word × Option CoreId) :=
  cs.findSome? (fun c =>
    match (getCore s c).jmu.chans.find? (fun q => !q.spilled) with
    | none => none
    | some q =>
      let g := groupOf (getCore s c).jmu [q.handle] 256
      match leastBy (fun a b => decide ((getCore s a).jmu.chans.length < (getCore s b).jmu.chans.length)) (partitionOf s dom) with
      | none => some (c, g, none)
      | some dst => if (moveRoom s c dst g).isSome then none else some (c, g, some dst))

/-- The channels of the leaving cores moved group by group, as by `chmove` (R188, R201), as far as they go now. With no
remaining core, or when the group's entries cannot be rewritten, the group is spilled. -/
def moveOut (s : State) (x : Ctx) (cs : List CoreId) (dom n : Nat) : State :=
  match n with
  | 0 => s
  | k + 1 =>
    let went (src : CoreId) (g : List Word) (o : Except (DevErr × State) (Option Cause × State)) : State :=
      match o with
      | .error (.miss, s) => s
      | .error (.fault e, s) => moveOut (spillGroup (tabLog (tabDrop s x.t.uid) x e) src g) x cs dom k
      | .ok (some _, s) => moveOut (spillGroup (tabDrop s x.t.uid) src g) x cs dom k
      | .ok (none, s) => moveOut (tabDrop s x.t.uid) x cs dom k
    match moveOf s x.t.uid with
    | some m => went m.src m.group (moveOn s x m)
    | none =>
      match nextOut s cs dom with
      | none => s
      | some (c, g, none) => moveOut (spillGroup s c g) x cs dom k
      | some (c, g, some dst) => went c g (moveStart s x c dst none g)

/-- A request posted for every strand of a core that has none (R332). -/
def requestAll (s : State) (c : CoreId) (kind : SaveKind) : State :=
  updCore s c (fun k => { k with strands := k.strands.map (fun y =>
    (y.1, if y.2.preq.isNone && targetable y.2 then { y.2 with preq := some (now s, kind) } else y.2)) })

/-- Nothing of a domain's work remains on a core. -/
def coreClear (k : Core) : Bool :=
  k.strands.isEmpty && k.jmu.chans.all (fun q => q.spilled) && k.launchq.isEmpty && k.copies.isEmpty && k.dteq.isEmpty && k.kuduq.isEmpty

/-- Step 3 of R201 is over for a core: no channel is left to move, and none of it is moving. -/
def movedOut (s : State) (uid : Nat) (c : CoreId) : Bool :=
  (getCore s c).jmu.chans.all (fun q => q.spilled) && (match moveOf s uid with | some m => m.src != c | none => true)

/-- The steps of R201 for the cores of a domain, as far as they go now: true while something remains. A core's strands are
asked to leave once its channels have. -/
def withdrawCores (s : State) (x : Ctx) (dom : Nat) (cs : List CoreId) : Bool × State :=
  let cs := cs.filter (fun c => (getCore s c).dom == some dom)
  let s := cs.foldl (fun s c => updCore s c (fun k => { k with leaving := true })) s
  let s := emptyJobs (cs.foldl returnWork s) dom
  let s := moveOut s x cs dom (513 * cs.length + 1)
  let s := (cs.filter (movedOut s x.t.uid)).foldl (fun s c => requestAll s c .withdraw) s
  let s := cs.foldl (fun s c => if coreClear (getCore s c) then updCore s c (fun k => { k with dom := none, leaving := false, pendWord := none }) else s) s
  (cs.any (fun c => (getCore s c).dom.isSome), s)

/-- OP 2 (R200, R343): the refusal, or the words posted. -/
def setWords (s : State) (dom : Nat) (cs : List CoreId) (b : Word) : Except Cause State :=
  if cs.any (fun c => (getCore s c).failed) then .error .neighbourUnavailable
  else if cs.any (fun c => (getCore s c).dom != some dom) then .error .operandRange
  else match cs.findSome? (fun c => wordRefusal s c dom (getCore s c).jmu.pats b) with
    | some e => .error e
    | none =>
      let w := b.setWidth 32
      let late (s : State) (c : CoreId) : Bool := (getCore s c).pword != w || (getCore s c).pendWord.isSome
      .ok (cs.foldl (fun s c => if late s c then updCore s c (fun k => { k with pendWord := some w }) else s) s)

/-- A posted word still awaits its core (R200). -/
def wordsWait (s : State) (dom : Nat) (cs : List CoreId) (b : Word) : Bool :=
  cs.any (fun c => (getCore s c).dom == some dom && (getCore s c).pendWord == some (b.setWidth 32))

/-- `partw` (R343): one meaning, chosen by OP at run time. Words once posted are only waited for. -/
def partw (i : Instr) (d a b : BitVec 5) (s : State) : Out :=
  issue i s (fun s x => do
    needCleanAll x.t.r [a, b]
    let w := rd x.t.r a
    selOk s w 0x000001F00FFFFFFC#64
    let cs := partCores w
    let dom := bitsOf w 28 8
    match bitsOf w 0 2 with
    | 0 => let (v, s) := assignCores s dom cs (rd x.t.r b); answer s x d v
    | 1 =>
      if cs.any (fun c => match (getCore s c).dom with | some e => e != dom | none => false) then answer s x d (refusalWord .operandRange)
      else
        let (more, s) := withdrawCores s x dom cs
        if more then pure (s, .hold .partition) else answer s x d 0
    | 2 =>
      let fin (s : State) (v : Word) : Except Stop (State × Next) := answer (updStrand s x.r (fun t => { t with phase := none })) x d v
      if x.t.phase = some .posted then
        if cs.any (fun c => (getCore s c).failed) then fin s (refusalWord .neighbourUnavailable)
        else if wordsWait s dom cs (rd x.t.r b) then pure (s, .hold .partition) else fin s 0
      else match setWords s dom cs (rd x.t.r b) with
        | .error e => answer s x d (refusalWord e)
        | .ok s =>
          if wordsWait s dom cs (rd x.t.r b) then pure (updStrand s x.r (fun t => { t with phase := some .posted }), .hold .partition)
          else answer s x d 0
    | _ => throw (plainTrap .operandRange))

/-- R343. -/
def execPartwAssign (d a b : BitVec 5) (s : State) : Out := partw (.partwAssign d a b) d a b s
/-- R343. -/
def execPartwWithdraw (d a b : BitVec 5) (s : State) : Out := partw (.partwWithdraw d a b) d a b s
/-- R343. -/
def execPartwSetWord (d a b : BitVec 5) (s : State) : Out := partw (.partwSetWord d a b) d a b s

/-- A new pool word takes effect (R200): scratchpad bytes below the smaller of the sizes stay, the others are undefined. -/
def applyWord (s : State) (c : CoreId) (w : BitVec 32) : State :=
  let k := getCore s c
  let old := spadSize c k
  let k := { k with pword := w, pendWord := none, wordCycle := some s.cycle }
  let new := spadSize c k
  let keep := k.spad.filter (fun x => decide (x.1 < min old new))
  let spad := (rangeFrom old (new - old)).foldl (fun m o => memWrite m o (Config.freeSpadByte s.free o)) keep
  setCore { s with free := s.free + 1 } c
    { k with spad := spad, spadPois := k.spadPois.filter (fun i => decide (8 * i < min old new)) }

/-- PARTITION_WORD_APPLY (R200): once the core holds no strand. -/
def execPartitionWordApply (c : CoreId) (s : State) : Out :=
  let k := getCore s c
  match k.pendWord with
  | some w => if k.strands.isEmpty then .next (applyWord s c w) else .next s
  | none => .next s

/-- A failed core withdrawn from the partition map (R10): its chunks and unadmitted items are dealt again, its channels are
spilled (R175, R201), and it issues nothing more. -/
def failCore (s : State) (c : CoreId) : State :=
  let k := getCore s c
  let s := returnWork (updCore s c (fun k => { k with failed := true })) c
  let s := spillGroup s c (k.jmu.chans.map (fun q => q.handle))
  match k.dom with
  | some dom => emptyJobs s dom
  | none => s

/-- UNIT_WITHDRAWAL (R10). -/
def execUnitWithdrawal (c : CoreId) (s : State) : Out := .next (failCore s c)

end Sys2Proof.Machine
end

