-- ==== Sys2Proof/Machine/Context.lean ====
section
/-! DEFINITION. Core images (R334, R337, R338), `ctxsave` (R345) and `ctxload` (R346). -/

namespace Sys2Proof.Machine

/-- Bytes of the area that an image may take (R345). -/
def imageMax : Nat := 6 * 2 ^ 20

/-- The bits of a core selector that are zero (R345). -/
def coreZero : Word := 0x000003F00FFFFFFF#64

/-- The pages from an address translate, here, for an access of the strand: the first fault otherwise (R345). -/
def pagesOk (s : State) (g : Agent) (u n : Nat) (a : Acc) : Except (DevErr × State) State :=
  match n with
  | 0 => .ok s
  | k + 1 =>
    match devXlate s g (BitVec.ofNat 64 (u * 65536)) a with
    | .error e => .error e
    | .ok (_, s) => pagesOk s g (u + 1) k a

/-- An image address that is not 4 KiB-aligned traps (R133, R327): R345 and R346 name no refusal word for it, and R341 gives one only
where an entry names it (log 57 DEDUCED). -/
def imageAligned (va : Word) : Except Stop Unit :=
  if va.toNat % 4096 ≠ 0 then throw (.trap .misaligned 0 va) else pure ()

/-- The 6 MiB at an address (R345): the fault that refuses it. -/
def imageArea (s : State) (g : Agent) (va : Word) (a : Acc) : Except (DevErr × State) State :=
  if 2 ^ 56 ≤ va.toNat then .error (.fault .windowUnmapped, s)
  else if 2 ^ 56 < va.toNat + imageMax then .error (.fault .windowCrossing, s)
  else pagesOk s g (va.toNat / 65536) ((va.toNat % 65536 + imageMax - 1) / 65536 + 1) a

/-! The scratchpad section (R338). -/

/-- Code and payload of the 64-byte block at an offset; the first code of the table that fits is used. -/
def blockCode (k : Core) (o : Nat) : Nat × List Byte :=
  let l := memBytes k.spad o 64
  if l.all (fun b => b == 0) then (0, [])
  else if o ≠ 0 ∧ l = memBytes k.spad (o - 64) 64 then (1, [])
  else if (List.range 8).all (fun i => (l.drop (8 * i)).take 8 == l.take 8) then (2, l.take 8)
  else (3, l)

/-- The entry of a dirty 1 KiB block. -/
def dirtyEntry (k : Core) (b : Nat) : List Byte :=
  let cs := (List.range 16).map (fun i => blockCode k (1024 * b + 64 * i))
  let code := cs.zipIdx.foldl (fun n x => n + x.1.1 * 4 ^ x.2) 0
  let pm := (List.range 128).foldl (fun n w => if setHas k.spadPois (128 * b + w) then n + 2 ^ w else n) 0
  leBytes 8 (code + (if pm = 0 then 0 else 2 ^ 32)) ++ (if pm = 0 then [] else leBytes 16 pm) ++ cs.flatMap (fun x => x.2)

/-- The dirty bitmap and the section. -/
def spadSection (k : Core) : List Byte :=
  leBytes 256 (k.dirty.foldl (fun n b => n + 2 ^ b) 0) ++ padTo 64 (k.dirty.flatMap (dirtyEntry k))

/-! Channel, pattern and firing records (R337). -/

/-- Word 0 of a channel's descriptor (R182), HOMESEL 0. -/
def chanDesc (q : Chan) : Nat :=
  q.scope + (if q.count then 4 else 0) + (if q.relay then 8 else 0) + q.ringlog * 2 ^ 16 + q.slots * 2 ^ 24

/-- A channel record and its messages, oldest first. -/
def chanRecord (q : Chan) : List Byte :=
  word8 q.handle ++ leBytes 8 (chanDesc q) ++ word8 q.ring ++ leBytes 8 (q.head + q.nring * 2 ^ 32) ++
    leBytes 8 (if q.count then natN 32 q.counter + q.reload * 2 ^ 32 else 0) ++ leBytes 8 (q.arrivals % 2 ^ 32 + q.held.length * 2 ^ 32) ++
    word8 q.target ++ leBytes 8 (privNum q.cpriv) ++
    (List.range 4).flatMap (fun i => let r := (q.regions[i]?).getD (0, 0); word8 r.1 ++ word8 r.2) ++
    q.held.flatMap (fun m => msgRecord m .none m.seq)

/-- A pattern record. -/
def patRecord (p : Pat) : List Byte :=
  let w := p.prio + (if p.serial then 8 else 0) + privNum p.priv * 16 + (p.chans.length - 1) * 64 + p.v * 256 + p.a * 2 ^ 14 + p.t * 2 ^ 18
  leBytes 8 w ++ word8 p.body ++ leBytes 8 (p.sbase.toNat + p.sstride.toNat * 2 ^ 32) ++ leBytes 8 (p.idx + (if p.live then 256 else 0)) ++
    (List.range 4).flatMap (fun i => word8 ((p.chans[i]?).getD 0))

/-- The firing records of a core: firings of its installed patterns. -/
def patFirings (j : Jmu) : List (Pat × List Msg × Nat) :=
  j.queue.filterMap (fun f => match f.what with
    | .pattern p ms _ => if j.pats.any (fun q => q.idx == p.idx) then some (p, ms, f.dtime) else none
    | _ => none)

/-- A firing record. -/
def firingRecord (x : Pat × List Msg × Nat) : List Byte :=
  leBytes 8 (x.1.idx + (x.2.1.length - 1) * 256) ++ leBytes 8 x.2.2 ++ x.2.1.flatMap (fun m => msgRecord m .none m.seq)

/-- The strand images of a core whose strands have stopped, in slot order. -/
def savedImages (k : Core) : List (List Byte) :=
  (List.range coreSlots).filterMap (fun i => (aget k.strands i).bind (fun t => match t.status with | .saved img => some img | _ => none))

/-- The core image (R337). -/
def coreImage (s : State) (c : CoreId) (dom : Nat) : List Byte :=
  let k := getCore s c
  let chans := k.jmu.chans.filter (fun q => !q.spilled)
  let fires := patFirings k.jmu
  let imgs := savedImages k
  let tl (t : Timeline) : List Byte := leBytes 8 t.posted ++ leBytes 8 t.value ++
    leBytes 8 ((if t.err then 2 ^ 63 else 0) + t.first % 2 ^ 63) ++ leBytes 8 0
  let body := spadSection k ++ chans.flatMap chanRecord ++ k.jmu.pats.flatMap patRecord ++ padTo 64 (fires.flatMap firingRecord) ++
    imgs.flatMap (fun x => x)
  word8 (coreSid s c dom) ++ leBytes 8 (k.pword.toNat + chans.length * 2 ^ 32 + k.jmu.pats.length * 2 ^ 48) ++
    leBytes 8 (imgs.length + fires.length * 256) ++ word8 k.tagR ++ word8 k.tagA ++ leBytes 8 (now s) ++ leBytes 8 (256 + body.length) ++
    leBytes 8 0 ++ k.tls.toList.flatMap tl ++ body

/-- The save goes on (R345 steps 1 to 3). -/
def startSave (s : State) (c : CoreId) (dom : Nat) : State :=
  let s := updCore s c (fun k => { k with leaving := true })
  requestAll (emptyJobs (returnWork s c) dom) c .context

/-- Every strand has stopped and every copy and engine command numbered on the core is over (R332, R334). -/
def saveReady (k : Core) : Bool :=
  k.strands.all (fun y => match y.2.status with | .saved _ => true | _ => false) && k.copies.isEmpty && k.dteq.isEmpty && k.kuduq.isEmpty

/-- The core after the image is written (R345 step 6): unassigned, its channels homed and spilled. -/
def leaveCore (k : Core) : Core :=
  { k with dom := none, leaving := false, strands := [],
           jmu := { k.jmu with pats := [], queue := [], chans := k.jmu.chans.map (fun q => { q with spilled := true, held := [] }) } }

/-- What the strands saved into a core image served is found again under the image's address (R336). -/
def keyOrigins (s : State) (c : CoreId) (dom key : Nat) : State :=
  let d := getDom s dom
  setDom s dom { d with origins := d.origins.map (fun o => if o.key = 0 ∧ coreOfPlaces o.sid = some c then { o with key := key } else o) }

/-- R345. -/
def execCtxsave (d a b : BitVec 5) (s : State) : Out :=
  issue (.ctxsave d a b) s (fun s x => do
    needCleanAll x.t.r [a, b]
    let w := rd x.t.r a
    selOk s w coreZero
    imageAligned (rd x.t.r b)
    if !belowDone s x.r.core x.t.uid s.uid x.t.openers 2 then throw (.wait (.fence 2))
    let c := computeId (bitsOf w 50 2) (bitsOf w 46 4) (bitsOf w 42 4)
    let dom := bitsOf w 28 8
    let va := rd x.t.r b
    let g := strandAgent x.r x.t
    match imageArea s g va .store with
    | .error (.miss, s) => pure (s, .hold .partition)
    | .error (.fault e, s) => answer s x d (refusalWord e)
    | .ok s =>
      if (getCore s c).dom ≠ some dom then answer s x d (refusalWord .operandRange)
      else
        let s := startSave s c dom
        if !saveReady (getCore s c) then pure (s, .hold .partition)
        else
          let img := coreImage s c dom
          match devWriteLong s g va img false 128 with
          | .error (.miss, s) => pure (s, .hold .partition)
          | .error (.fault e, s) => answer s x d (refusalWord e)
          | .ok s => answer (keyOrigins (updCore s c leaveCore) c dom va.toNat) x d (BitVec.ofNat 64 img.length))

/-! Reading an image (R346). -/

/-- A 1 KiB block decoded from its codes; `prev` is the 64 bytes below it, none at offset 0. -/
def decodeCodes (l : List Byte) (prev : Option (List Byte)) (code n : Nat) : Option (List Byte × List Byte) :=
  match n with
  | 0 => some ([], l)
  | k + 1 =>
    let step (b rest : List Byte) : Option (List Byte × List Byte) :=
      if b.length ≠ 64 then none
      else (decodeCodes rest (some b) (code / 4) k).map (fun x => (b ++ x.1, x.2))
    match code % 4 with
    | 0 => step (leBytes 64 0) l
    | 1 => (match prev with | some p => step p l | none => none)
    | 2 => step ((List.replicate 8 (l.take 8)).flatMap (fun x => x)) (l.drop 8)
    | _ => step (l.take 64) (l.drop 64)

/-- The dirty blocks in ascending order: number, bytes, poison mask; and the bytes used. -/
def decodeSpad (l : List Byte) (bs : List Nat) (last : Nat × List Byte) (used : Nat) : Option (List (Nat × List Byte × Nat) × Nat) :=
  match bs with
  | [] => some ([], used)
  | b :: t =>
    let w := imgWord l 0
    let pm := if w.getLsbD 32 then leNat ((l.drop 8).take 16) else 0
    let off := if w.getLsbD 32 then 24 else 8
    let prev := if b = 0 then none else if last.1 + 1 = b then some last.2 else some (leBytes 64 0)
    if l.length < off ∨ bitsOf w 33 31 ≠ 0 then none
    else match decodeCodes (l.drop off) prev (bitsOf w 0 32) 16 with
      | none => none
      | some (bytes, rest) =>
        match decodeSpad rest t (b, bytes.drop 960) (used + (l.length - rest.length)) with
        | none => none
        | some (r, n) => some ((b, bytes, pm) :: r, n)

/-- The zero bits of consecutive message records are zero (R165, R346). -/
def msgsOk (l : List Byte) (n : Nat) : Bool :=
  (List.range n).all (fun i => let w := wordAt (l.drop (64 * i)) 6; bitsOf w 9 7 == 0 && !w.getLsbD 7)

/-- The messages of consecutive records. -/
def imgMsgs (l : List Byte) (n : Nat) : List Msg := (List.range n).map (fun i => recordMsg ((l.drop (64 * i)).take 64))

/-- A channel record is well formed (R337). -/
def chanRecOk (l : List Byte) (dom : Nat) : Bool :=
  let w (i : Nat) : Word := wordAt l i
  let count := (w 1).getLsbD 2
  let rl := bitsOf (w 1) 16 5
  let pairs := regionPairs ((List.range 8).map (fun i => w (8 + i)))
  handleForm (w 0) && hDom (w 0) == dom && bitsOf (w 1) 4 12 == 0 && bitsOf (w 1) 21 3 == 0 && bitsOf (w 1) 32 32 == 0 &&
    decide (6 ≤ rl) && decide (rl ≤ 24) && (w 2).toNat % 64 == 0 && decide (bitsOf (w 3) 0 32 < 2 ^ rl) && decide (bitsOf (w 3) 32 32 ≤ 2 ^ rl) &&
    (if count then bitsOf (w 1) 24 8 == 0 && !(w 1).getLsbD 3 && bitsOf (w 5) 32 16 == 0
     else decide (1 ≤ bitsOf (w 1) 24 8) && decide (bitsOf (w 1) 24 8 ≤ 64) && w 4 == 0 && bitsOf (w 5) 0 32 == 0) &&
    decide (bitsOf (w 5) 32 16 ≤ 2048) && bitsOf (w 5) 48 16 == 0 && ((w 1).getLsbD 3 || w 6 == 0) && decide ((w 7).toNat ≤ 2) &&
    pairs.all pairOk && !pairsOverlap pairs

/-- The channel of a record. -/
def recChan (l : List Byte) : Chan :=
  let w (i : Nat) : Word := wordAt l i
  let count := (w 1).getLsbD 2
  let n := sintN 32 (bitsOf (w 4) 0 32)
  { handle := w 0, count := count, relay := (w 1).getLsbD 3, scope := bitsOf (w 1) 0 2, slots := bitsOf (w 1) 24 8,
    ringlog := bitsOf (w 1) 16 5, ring := w 2, held := imgMsgs (l.drop 128) (bitsOf (w 5) 32 16), head := bitsOf (w 3) 0 32,
    nring := bitsOf (w 3) 32 32, counter := if count then n else 0, reload := bitsOf (w 4) 32 32, arrivals := bitsOf (w 5) 0 32,
    present := none, lastTime := 0, lastSender := 0, target := w 6, cpriv := privOf (w 7).toNat,
    regions := regionPairs ((List.range 8).map (fun i => w (8 + i))), spilled := false, retry := none }

/-- The channel records, and the bytes after them. -/
def imgChans (l : List Byte) (dom n : Nat) : Option (List Chan × List Byte) :=
  match n with
  | 0 => some ([], l)
  | k + 1 =>
    let m := bitsOf (wordAt l 5) 32 16
    if l.length < 128 + 64 * m ∨ !chanRecOk l dom ∨ !msgsOk (l.drop 128) m then none
    else (imgChans (l.drop (128 + 64 * m)) dom k).map (fun x => (recChan l :: x.1, x.2))

/-- The pattern of a record, when it is well formed. -/
def recPat (l : List Byte) (dom : Nat) (chans : List Word) : Option Pat :=
  let ws := (List.range 8).map (wordAt l)
  let w3 := wordAt l 3
  let d := patDesc ws
  if l.length < 64 ∨ bitsOf w3 9 55 ≠ 0 ∨ !patFieldsOk dom (ws.set 3 0) ∨ !d.chans.all (fun h => chans.contains h) then none
  else some { idx := bitsOf w3 0 8, prio := d.prio, serial := d.serial, priv := privOf d.priv, v := d.v, a := d.a, t := d.t,
              body := wordAt l 1, sbase := (wordAt l 2).setWidth 32, sstride := ((wordAt l 2) >>> 32).setWidth 32, chans := d.chans,
              live := w3.getLsbD 8 }

/-- The pattern records. -/
def imgPats (l : List Byte) (dom : Nat) (chans : List Word) (n : Nat) : Option (List Pat) :=
  match n with
  | 0 => some []
  | k + 1 =>
    match recPat l dom chans, imgPats (l.drop 64) dom chans k with
    | some p, some t => if t.any (fun q => q.idx == p.idx) then none else some (p :: t)
    | _, _ => none

/-- The firing records: pattern, messages, decision time; and the bytes used. -/
def imgFirings (l : List Byte) (pats : List Pat) (n used : Nat) : Option (List (Pat × List Msg × Nat) × Nat) :=
  match n with
  | 0 => some ([], used)
  | k + 1 =>
    let w := wordAt l 0
    let m := bitsOf w 8 2 + 1
    match pats.find? (fun p => p.idx == bitsOf w 0 8) with
    | none => none
    | some p =>
      if l.length < 16 + 64 * m ∨ bitsOf w 10 54 ≠ 0 ∨ p.chans.length ≠ m ∨ !msgsOk (l.drop 16) m then none
      else (imgFirings (l.drop (16 + 64 * m)) pats k (used + 16 + 64 * m)).map
        (fun x => ((p, imgMsgs (l.drop 16) m, (wordAt l 1).toNat) :: x.1, x.2))

/-- The strand images, to the end of the core image. -/
def imgStrands (l : List Byte) (n : Nat) : Option (List (List Byte)) :=
  match n with
  | 0 => if l.isEmpty then some [] else none
  | k + 1 =>
    let len := (wordAt l 7).toNat
    if !imgOk (l.take len) then none
    else (imgStrands (l.drop len) k).map (fun t => l.take len :: t)

/-- A core image as read. -/
structure CoreImg where
  pword : BitVec 32
  tagR : Word
  tagA : Word
  tls : List Timeline
  blocks : List (Nat × List Byte × Nat)
  chans : List Chan
  pats : List Pat
  fires : List (Pat × List Msg × Nat)
  strands : List (List Byte)
deriving DecidableEq, Repr

/-- Bytes up to a multiple of 64 are zero. -/
def padZero (l : List Byte) (used : Nat) : Bool := ((l.drop used).take ((64 - used % 64) % 64)).all (fun b => b == 0)
/-- Rounded up to a multiple of 64. -/
def up64 (n : Nat) : Nat := (n + 63) / 64 * 64

/-- Frames of the strands fit the pool (R199). -/
def framesFit (c : CoreId) (w : BitVec 32) (l : List (List Byte)) : Bool :=
  let ms := l.map imgMap
  !exceeds c w (ms.foldl (fun n m => n + m.v) 0) (ms.foldl (fun n m => n + m.a) 0) (ms.foldl (fun n m => n + m.t) 0)

/-- The image of `LEN` bytes checked (R337, R338, R346). -/
def parseImage (c : CoreId) (dom : Nat) (l : List Byte) : Option CoreImg :=
  let w (i : Nat) : Word := wordAt l i
  let pword : BitVec 32 := (w 1).setWidth 32
  let bits := leNat ((l.drop 256).take 256)
  let bs := (List.range 2048).filter (fun b => bits.testBit b)
  let tl (k : Nat) : Timeline := ⟨(w (8 + 4 * k)).toNat, (w (9 + 4 * k)).toNat, [], (w (10 + 4 * k)).getLsbD 63, bitsOf (w (10 + 4 * k)) 0 63⟩
  let tls := (List.range 6).map tl
  let ok := decide (512 ≤ l.length) && l.length % 64 == 0 && (w 6).toNat == l.length && bitsOf (w 0) 0 28 == 0 && bitsOf (w 0) 36 6 == 0 &&
    decide (bitsOf (w 0) 46 4 ≤ 9) && bitsOf (w 1) 57 7 == 0 && bitsOf (w 2) 16 48 == 0 && w 7 == 0 && !wordBad (pword.setWidth 64) &&
    decide (bitsOf (w 1) 32 16 ≤ 512) && decide (bitsOf (w 1) 48 9 ≤ 256) && decide (bitsOf (w 2) 0 8 ≤ 64) && decide (bitsOf (w 2) 8 8 ≤ 64) &&
    (List.range 6).all (fun k => w (11 + 4 * k) == 0 && decide ((tl k).value ≤ (tl k).posted))
  if !ok then none
  else
    let l := l.drop 512
    match decodeSpad l bs (0, leBytes 64 0) 0 with
    | none => none
    | some (blocks, used) =>
      if !padZero l used then none
      else match imgChans (l.drop (up64 used)) dom (bitsOf (w 1) 32 16) with
        | none => none
        | some (chans, l) =>
          let hs := chans.map (fun q => q.handle)
          let np := bitsOf (w 1) 48 9
          match imgPats l dom hs np with
          | none => none
          | some pats =>
            let l := l.drop (64 * np)
            match imgFirings l pats (bitsOf (w 2) 8 8) 0 with
            | none => none
            | some (fires, used) =>
              if !padZero l used ∨ hs.dedup.length ≠ hs.length then none
              else match imgStrands (l.drop (up64 used)) (bitsOf (w 2) 0 8) with
                | none => none
                | some strands =>
                  -- no strand or pattern of a compute core has privilege H (R9)
                  if framesFit c pword strands ∧ strands.all (fun b => bitsOf (imgWord b 96) 0 2 != 2) ∧ pats.all (fun p => p.priv != .h) then some ⟨pword, w 3, w 4, tls, blocks, chans, pats, fires, strands⟩ else none

/-- The target may be loaded (R346). -/
def loadable (k : Core) (dom : Nat) : Bool :=
  match k.dom with
  | none => true
  | some e => e == dom && k.strands.isEmpty && k.jmu.chans.all (fun q => q.spilled) && k.jmu.pats.isEmpty

/-- The image's channels whose entries still name them, with the entries of those whose home is another core. -/
def liveHandles (s : State) (x : Ctx) (c : CoreId) (hs : List Word) : Except (DevErr × State) (List Word × List (Word × Word) × State) :=
  match hs with
  | [] => .ok ([], [], s)
  | h :: t =>
    match tabRead s (tableAgent x.r.core (hDom h)) (hDom h) (hIdx h) x.t.uid with
    | .error e => .error e
    | .ok (e, s) =>
      match liveHandles s x c t with
      | .error e => .error e
      | .ok (l, o, s) =>
        match entCause h e with
        | none => .ok (h :: l, if entPkg e = s.pkg ∧ entHome e = some c then o else (h, e) :: o, s)
        | some _ => .ok (l, o, s)

/-- The spilled channel of a handle, wherever it is homed. -/
def spilledOf (s : State) (h : Word) : Option Chan :=
  s.cores.findSome? (fun c => c.2.jmu.chans.find? (fun q => q.handle == h && q.spilled))

/-- A channel of the image as it becomes active: arrivals while it was spilled stand in its ring (R175). The time and sender of
a COUNT channel's last message, and the place of its present message, are those of the spilled channel; without one, free
values and last (log 18). -/
def activeChan (s : State) (q : Chan) : Chan :=
  match spilledOf s q.handle with
  | some o => { q with head := o.head, nring := o.nring, lastTime := o.lastTime, lastSender := o.lastSender,
                       present := if q.count && decide (q.counter ≤ 0) then some (o.present.getD (2 ^ 64)) else none }
  | none => { q with lastTime := (Config.freeWord s.free).toNat, lastSender := Config.freeWord (s.free + 1),
                     present := if q.count && decide (q.counter ≤ 0) then some (2 ^ 64) else none }

/-- Numbers that a timeline of the image counts as completed ahead of its value: those posted and not recorded as incomplete
(R337 keeps only P and VAL), in the image or for a strand that stays saved alone (R297). -/
def aheadOf (t : Timeline) (open_ : List Nat) : Timeline :=
  let t := { t with ahead := ((rangeFrom (t.value + 1) (t.posted - t.value)).filter (fun n => !open_.contains n)).map (fun n => (n, true)) }
  tlAdvance t t.ahead.length

/-- Numbers of the incomplete commands of the images, by engine. -/
def openNums (l : List (List Byte)) (kudu : Bool) : List Nat :=
  (l.flatMap (fun b => imgCmds b 0 ⟨0, 0, 0, .u, 0, 0⟩)).filterMap (fun q => if q.1 == kudu then some q.2.num else none)

/-- Numbers of the incomplete commands of strands that a core saved and that stay saved, apart from those of the core image at
`key`. -/
def savedNums (d : Dom) (c : CoreId) (key : Nat) (kudu : Bool) : List Nat :=
  (d.origins.filter (fun o => coreOfPlaces o.sid = some c && o.key != key && o.key != 0)).flatMap (fun o =>
    (o.nums.filter (fun x => x.1 == kudu)).map (fun x => x.2))

/-- The scratchpad of an image. -/
def imgSpad (m : CoreImg) : Mem := m.blocks.foldl (fun (p : Mem) b => memStore p (1024 * b.1) b.2.1) []

/-- The core restored (R346), its strands last. -/
def loadCore (s : State) (c : CoreId) (dom : Nat) (m : CoreImg) (live : List Word) (key : Nat) : State :=
  let chans := (m.chans.filter (fun q => live.contains q.handle)).map (activeChan s)
  let s := { s with free := s.free + 2, cores := s.cores.map (fun y => (y.1, { y.2 with jmu := { y.2.jmu with
    chans := y.2.jmu.chans.filter (fun q => !(q.spilled && live.contains q.handle)) } })) }
  let s := scrubCore s c
  let k := getCore s c
  let pats := ((m.pats.filter (fun p => p.chans.all (fun h => live.contains h))).zipIdx s.uid).map (fun p => { p.1 with key := p.2 })
  let s := { s with uid := s.uid + pats.length }
  let olds := chans.flatMap (fun q => q.held.map (fun m => m.seq) ++ (match q.present with | some n => [n] | none => []))
  let seqOf := reSeq k.jmu.seq olds
  let chans := chans.map (fun q => { q with held := q.held.map (fun m => { m with seq := seqOf m.seq, handle := q.handle }), present := q.present.map seqOf })
  let binds (p : Pat) : List (Nat × List (Word × Word)) :=
    p.chans.filterMap (fun h => (chans.find? (fun q => q.handle == h)).map (fun q => (q.scope, q.regions)))
  let fire (n : Nat) (f : Pat × List Msg × Nat) : Firing := ⟨.pattern f.1 f.2.1 (binds f.1), f.1.prio, f.2.2, n⟩
  let fires := (m.fires.filterMap (fun f => (pats.find? (fun p => p.idx == f.1.idx)).map (fun p => (p, f.2)))).zipIdx.map (fun f => fire (s.uid + f.2) f.1)
  let tls := m.tls.zipIdx.map (fun t => aheadOf t.1 (if t.2 = 4 ∨ t.2 = 5 then openNums m.strands (t.2 == 5) ++ savedNums (getDom s dom) c key (t.2 == 5) else []))
  let pois := m.blocks.foldl (fun (l : NatSet) b => (List.range 128).foldl (fun l w => if b.2.2.testBit w then setIns l (128 * b.1 + w) else l) l) []
  let k := { k with dom := some dom, pword := m.pword, spad := imgSpad m, spadPois := pois, dirty := m.blocks.map (fun b => b.1),
                    tagR := m.tagR, tagA := m.tagA, tls := tls.zipIdx.foldl (fun (v : Vector Timeline 6) t => v.setIfInBounds t.2 t.1) k.tls,
                    jmu := { k.jmu with seq := k.jmu.seq + olds.length, chans := k.jmu.chans ++ chans, pats := pats, queue := fires } }
  let s := setCore { s with uid := s.uid + fires.length } c k
  m.strands.zipIdx.foldl (fun s b => placeImage s c b.2 dom b.1 true key) s

/-- The entry writes of a load, one after another (R346); a table fault undoes those done (R158). -/
def loadWrites (s : State) (x : Ctx) (m : Move) : Except (DevErr × State) (Option Cause × State) :=
  match moveWrites s x m m.todo with
  | .error (.miss, s) => .error (.miss, s)
  | .error (.fault e, s) =>
    let left := match moveOf s x.t.uid with | some n => n.todo | none => m.todo
    undoFrom s x m (m.olds.filter (fun p => left.all (fun t => t.1 != p.1))) e
  | .ok s => .ok (none, endMove s x.t.uid)

/-- The entries of the image's channels rewritten to a core where they name another (R346). Messages that come there before the
core is restored are forwarded to the spilled channel. -/
def loadEntries (s : State) (x : Ctx) (c : CoreId) (es : List (Word × Word)) : Except (DevErr × State) (Option Cause × State) :=
  match moveOf s x.t.uid with
  | some m => if m.stage = 3 then moveUndo s x m else loadWrites s x m
  | none =>
    let m : Move := { uid := x.t.uid, group := es.map (fun p => p.1), src := c, dst := c, pkg := none, stage := 4,
                      todo := es.map (fun p => (p.1, p.2, entMoved p.2 s.pkg c)), olds := es, spilled := [], cause := .none }
    let fwds := es.filterMap (fun p => (s.cores.find? (fun y => y.1 != c && y.2.jmu.chans.any (fun q => q.handle == p.1 && q.spilled))).map
      (fun y => (⟨p.1, y.1, now s + 1000000, none⟩ : Fwd)))
    loadWrites (setMove (updJmu s c (fun j => { j with fwds := j.fwds ++ fwds })) m) x m

/-- R346. -/
def execCtxload (d a b : BitVec 5) (s : State) : Out :=
  issue (.ctxload d a b) s (fun s x => do
    needCleanAll x.t.r [a, b]
    let w := rd x.t.r a
    selOk s w coreZero
    imageAligned (rd x.t.r b)
    if !belowDone s x.r.core x.t.uid s.uid x.t.openers 2 then throw (.wait (.fence 2))
    let c := computeId (bitsOf w 50 2) (bitsOf w 46 4) (bitsOf w 42 4)
    let dom := bitsOf w 28 8
    let va := rd x.t.r b
    let g := strandAgent x.r x.t
    let fail (s : State) (e : Cause) : Except Stop (State × Next) := answer (endMove (tabDrop s x.t.uid) x.t.uid) x d (refusalWord e)
    match devReadLong s g va 256 2 with
      | .error (.miss, s) => tabHold s
      | .error (.fault e, s) => fail s e
      | .ok (h, s) =>
        if bitsOf (wordAt h 0) 28 8 ≠ dom then fail s .operandRange
        else
          let len := (wordAt h 6).toNat
          if len < 512 ∨ imageMax < len then fail s .contextImageInvalid
          else match devReadLong s g va len 128 with
            | .error (.miss, s) => tabHold s
            | .error (.fault e, s) => fail s e
            | .ok (l, s) =>
              if (getCore s c).failed then fail s .neighbourUnavailable
              else if !loadable (getCore s c) dom then fail s .contextImageInvalid
              else match parseImage c dom l with
                | none => fail s .contextImageInvalid
                | some m =>
                  if m.strands.any imgTagBad then throw (plainTrap .tagReserved)
                  else match liveHandles s x c (m.chans.map (fun q => q.handle)) with
                    | .error (.miss, s) => tabHold s
                    | .error (.fault e, s) => fail s e
                    | .ok (live, other, s) =>
                      match loadEntries s x c other with
                      | .error (.miss, s) => tabHold s
                      | .error (.fault e, s) => fail s e
                      | .ok (some e, s) => fail s e
                      | .ok (none, s) => answer (loadCore (tabDrop s x.t.uid) c dom m live va.toNat) x d 0)

end Sys2Proof.Machine
end

