-- ==== Sys2Proof/Machine/Migrate.lean ====
section
/-! DEFINITION. Pages between packages: requests served at the owner with the HAU's result cache (R151–R153, R361, R378,
R388), home directories (R359, R360), migration (R362, R365), stubs (R363, R364) and TLB removal (R368). The packets of the
migration protocol carry payloads of the model's own (log 17): words GPN, kind + size × 256, two more, then data. -/

namespace Sys2Proof.Machine

/-- A response to a request: same id and agent (R363 RDR for a relayed one). -/
def respond (s : State) (p : Packet) (type : Nat) (cause : Cause) (payload : List Byte) (bad : List Nat) : State :=
  sendPkt s { mkPkt s p.src.toNat 1 type p.rid.toNat p.srcid cause payload with
    rdr := if p.hops = 0 then 0 else 1, badLines := bad }

/-- A refusal (R361, R388). -/
def bounce (s : State) (p : Packet) (c : Cause) : State := respond s p 10 c [] []

/-- GBA, BYTES, AFN and SIZE of a request (R378). -/
def reqGba (p : Packet) : Nat := (pktWord p 0).toNat
/-- R378. -/
def reqBytes (p : Packet) : Nat := bitsOf (pktWord p 1) 0 13
/-- R378. -/
def reqAfn (p : Packet) : Nat := bitsOf (pktWord p 1) 16 5
/-- R378. -/
def reqWide (p : Packet) : Bool := (pktWord p 1).getLsbD 21

/-- The range of a request lies within one page (R378): one 64 KiB unit, or two units that a record of the package or an entry shows
to belong to one page; where nothing shows the page, its size is the part's (log 77). -/
def onePage (s : State) (p : Packet) : Bool :=
  let u := reqGba p / 65536
  let spans (g size n : Nat) : Bool := decide (g ≤ u) && decide (u + n < g + sizeUnits size)
  let shown (n : Nat) : Bool := s.frames.any (fun f => spans f.1 f.2.1 n) || (allEntries s).any (fun e => e.loc == 0 && spans e.gpn e.size n)
  decide (reqGba p % 65536 + reqBytes p ≤ 65536) || shown 1 || pageKey s u == pageKey s (u + 1) ||
    (!shown 0 && pageKeyOr s u (2 ^ 48) == 2 ^ 48 && Config.samePage u)

/-- The fields of a request obey R378. -/
def reqOk (s : State) (p : Packet) : Bool :=
  let n := reqBytes p
  decide (32 ≤ p.payload.length) && (p.type == 2 || (reqAfn p == 0 && pktWord p 2 == 0 && pktWord p 3 == 0)) && decide (1 ≤ n) && decide (n ≤ 4096) && onePage s p &&
    bitsOf (pktWord p 1) 13 3 == 0 && bitsOf (pktWord p 1) 22 42 == 0 &&
    (if p.type = 1 then decide (32 + n ≤ p.payload.length) else true) &&
    (if p.type = 2 then decide (reqAfn p ≤ 15) && n == (if reqWide p then 8 else 4) && reqGba p % n == 0 else true)

/-! The HAU (R152). -/

/-- `a` is newer than `b` within the half-range. -/
def ridNewer (a b : Nat) : Bool := let d := (a + 65536 - b) % 65536; decide (1 ≤ d) && decide (d < 32768)

/-- The source of a remote atomic: its identity word. -/
def hauSrc (p : Packet) : Word := BitVec.ofNat 64 (p.src.toNat * 2 ^ 52 + p.srcid.toNat * 2 ^ 24)

/-- What the HAU does with a request (R152). -/
inductive HauWhat where
  | run | again (old : Word) (pois : Bool) | refuse
deriving DecidableEq, Repr

/-- R152. A source of which nothing has been seen has no highest id: any request of it is executed (log 67). -/
def hauLook (s : State) (p : Packet) : HauWhat :=
  match s.hau.find? (fun h => h.src == hauSrc p) with
  | none => .run
  | some h =>
    if ridNewer p.rid.toNat h.highest || p.rt == 0 then .run
    else match (h.results ++ h.moved).find? (fun r => r.rid == p.rid.toNat) with
      | some r => .again r.old r.pois
      | none => .refuse

/-- A source's record changed, with the larger of its highest id and `rid` (R152, R153). -/
def hauUpd (s : State) (src : Word) (rid : Nat) (f : HauSource → HauSource) : State :=
  let h := (s.hau.find? (fun h => h.src == src)).getD ⟨src, rid, [], []⟩
  let h := f { h with highest := if ridNewer rid h.highest then rid else h.highest }
  { s with hau := s.hau.filter (fun g => g.src != src) ++ [h] }

/-- A result cached (R152): the last 64 ids executed; the highest id seen. -/
def hauPut (s : State) (src : Word) (r : HauResult) : State :=
  hauUpd s src r.rid (fun h => { h with results := (r :: h.results.filter (fun q => q.rid != r.rid)).take 64 })

/-- A request served at the owner's frame (R361): READ, WRITE or ATOMIC, with the home slice's access table (R388). -/
def serveAt (s : State) (p : Packet) (pa : Nat) : State :=
  let n := reqBytes p
  let dom := srcDom p.srcid
  let a : Acc := if p.type = 0 then .load else if p.type = 1 then .store else .atomic
  let w := if p.type = 1 then (partsData p).map (fun x => (pa + x.1 - reqGba p, x.2)) else []
  if !frameExists s pa then bounce s p .uncorrectableData
  else if !homeAdmits s pa dom a ∨ w.any (fun x => !homeAdmits s x.1 dom a) then bounce s p .accessTableDenied
  else match a with
    | .load =>
      let (d, bad, s) := pullBytes s (.mem pa) n (n / 64 + 2)
      respond s p 8 (if !bad.isEmpty then .uncorrectableData else if d.any (fun b => b.2) then .poisonConsumed else .none) (d.map (fun b => b.1)) (poisLines d)
    | .store => respond (w.foldl (fun s x => landAll s dom (hauSrc p) (BitVec.ofNat 64 x.1) (.mem x.1) x.2) s) p 9 .none (leBytes 8 0) []
    | .atomic =>
      match hauLook s p with
      | .again old pois => respond s p 9 .none (word8 old) (if pois then [0] else [])
      | .refuse => bounce s p .atomicIndeterminate
      | .run =>
        let (v, pv, e, s) := amoExecute s none (.remote (hauSrc p) p.rid.toNat) (.mem pa) (reqAfn p) (reqWide p) 3 (pktWord p 2) (pktWord p 3)
        -- a poisoned operand of a reduction poisons its destination (R154)
        let s := if p.badLines.contains 0 then poisonAt s (.mem pa) else s
        match e with
        | some c => respond (hauUpd s (hauSrc p) p.rid.toNat (fun h => h)) p 9 c (leBytes 8 0) []
        | none => respond (hauPut s (hauSrc p) ⟨p.rid.toNat, reqGba p, v, pv⟩) p 9 .none (word8 v) (if pv then [0] else [])

/-- A request served by this package, the owner, at the page's frame (R361). -/
def serveHere (s : State) (p : Packet) : State := serveAt s p (ownFrame s (reqGba p / 65536) + reqGba p % 65536)

/-- A stub passes a request on (R363); its BORN is that of the new injection (R376). -/
def relay (s : State) (p : Packet) (owner : Nat) : State :=
  if 2 ≤ p.hops.toNat then bounce s p .migrationChain
  else if s.deadLinks.contains owner then bounce s p .linkDead
  else sendReq s { p with dst := BitVec.ofNat 12 owner, hops := p.hops + 1, born := bornNow s }

/-! Removing TLB entries (R362, R368). -/

/-- Every TLB of the package filtered. -/
def dropEverywhere (s : State) (keep : TlbEntry → Bool) : State :=
  { s with cores := s.cores.map (fun c => (c.1, { c.2 with tlb := c.2.tlb.filter keep, own := c.2.own.filter keep })),
           clusters := s.clusters.map (fun c => (c.1, { c.2 with tlb := c.2.tlb.filter keep, engTlb := c.2.engTlb.filter (fun e => keep e.2) })),
           dies := s.dies.map (fun d => (d.1, { d.2 with llt := d.2.llt.filter keep })) }

/-- The entry's GPN range meets a range of GPNs. -/
def gpnMeets (e : TlbEntry) (g n : Nat) : Bool := decide (e.gpn < g + n) && decide (g < e.gpn + sizeUnits e.size)

/-- An atomic is to be relayed (R146). -/
def relayedOf (s : State) (id : Nat) : Option Relayed := s.relayed.find? (fun x => x.id == id)

/-- The cores' accesses begun before a number are done; atomics that are relayed are remote ones and not waited for (R146). -/
def coresQuiet (s : State) (n : Nat) : Bool :=
  s.pend.all (fun p => decide (n ≤ p.seq) || (relayedOf s p.seq).isSome) &&
  (allStrands s).all (fun y => y.2.openers.all (fun o => decide (n ≤ o.id) || (relayedOf s o.id).isSome))

/-- Accesses, copy blocks and accesses of channel tables begun before a number are done (R368): not the reads of a migration (65)
and the relayed atomics (66), which use no TLB entry. -/
def quietBelow (s : State) (n : Nat) : Bool :=
  coresQuiet s n && s.reqs.all (fun r => decide (n ≤ r.uid) || r.strm == 65 || r.strm == 66)

/-! Home directories (R359, R360). -/

/-- A directory entry; a GPN without one is owned by its home. -/
def dirOf (s : State) (g : Nat) : DirEntry := (aget s.dir g).getD ⟨s.pkg, false, [], false, []⟩

/-- An entry kept only while it says something (R359). -/
def setDir (s : State) (g : Nat) (e : DirEntry) : State :=
  if e.owner = s.pkg ∧ e.migrating = false ∧ e.sharers = [] ∧ e.bcast = false ∧ e.waiting = [] then { s with dir := adel s.dir g }
  else { s with dir := aset s.dir g e }

/-- The directory has an entry for a GPN, or room for one (R359). -/
def dirRoom (s : State) (g : Nat) : Bool := (aget s.dir g).isSome || decide (s.dir.length < Config.directoryMax)

/-- A package joins the sharer set (R359, R360). -/
def addSharer (s : State) (g pkg : Nat) : State :=
  let e := dirOf s g
  if e.bcast ∨ e.sharers.contains pkg ∨ !dirRoom s g then s
  else if 64 ≤ e.sharers.length then setDir s g { e with bcast := true }
  else setDir s g { e with sharers := e.sharers ++ [pkg] }

/-- Kinds of the migration protocol's packets. -/
def kAsk : Nat := 0
/-- The request to the old owner. -/
def kFreeze : Nat := 1
/-- The HAU results asked for. -/
def kResults : Nat := 2
/-- The migration was refused: the directory clears MIGRATING. -/
def kAbort : Nat := 3
/-- The new owner has installed the page. -/
def kRecord : Nat := 4
/-- The directory has recorded it: the old owner becomes a stub. -/
def kStub : Nat := 5
/-- The old owner has frozen the page. -/
def kFrozen : Nat := 6
/-- HAU results. -/
def kMoved : Nat := 7
/-- The stub stands. -/
def kStubbed : Nat := 8
/-- An owner served a relayed request of a package (R363). -/
def kShare : Nat := 9

/-- A MIGRQ packet. -/
def migSend (s : State) (dst kind g size w2 w3 : Nat) (data : List Byte) : State :=
  sendPkt s (mkPkt s dst 0 4 0 (elandSrc s) .none (leBytes 8 g ++ leBytes 8 (kind + size * 256) ++ leBytes 8 w2 ++ leBytes 8 w3 ++ data))

/-- A migration asked for at the home directory (R362 step 1, R365), which must be able to make the entry (R359, R369). -/
def dirAsk (s : State) (g pkg : Nat) : State :=
  let e := dirOf s g
  if e.owner ≠ pkg ∧ !dirRoom s g then sendPkt s (mkPkt s pkg 1 10 0 0 .ownerLookupFailed (leBytes 8 g))
  else if e.owner ≠ pkg ∧ e.migrating then
    -- the asker learns that the directory has its request, so that R360's limit does not end the wait of R365
    sendPkt (setDir s g { e with waiting := e.waiting ++ [pkg] })
      (mkPkt s pkg 1 11 0 0 .none (leBytes 8 g ++ leBytes 8 2 ++ leBytes 8 e.owner ++ leBytes 8 0))
  else
    let s := if e.owner = pkg then s else setDir s g { e with migrating := true }
    sendPkt s (mkPkt s pkg 1 11 0 0 .none (leBytes 8 g ++ leBytes 8 1 ++ leBytes 8 e.owner ++ leBytes 8 0))

/-- The next waiting migration of a GPN proceeds (R365). -/
def dirNext (s : State) (g : Nat) : State :=
  let e := dirOf s g
  match e.waiting with
  | [] => s
  | k :: t => dirAsk (setDir s g { e with waiting := t }) g k

/-- R362 step 5 at the home directory. -/
def dirRecord (s : State) (g size pkg : Nat) : State :=
  let e := dirOf s g
  let s := setDir s g { e with owner := pkg, migrating := false, sharers := [], bcast := false }
  let s := migSend s e.owner kStub g size pkg (if e.bcast then 1 else 0) (e.sharers.flatMap (fun k => leBytes 8 k))
  dirNext s g

/-- A refused migration (R365). -/
def dirAbort (s : State) (g : Nat) : State := dirNext (setDir s g { dirOf s g with migrating := false }) g

/-! The old owner (R362 steps 2, 3, 6 and 7). -/

/-- Entries of the stub table. -/
def stubMax : Nat := 65536

/-- Outstanding accesses of the cores: number, strand, core, and the place of one that is an atomic. -/
def outAccesses (s : State) : List (Nat × Nat × CoreId × Option Loc) :=
  s.pend.map (fun p => (p.seq, p.uid, p.ref.core, match p.work with | .atomic _ _ _ _ _ => some p.loc | .store _ => none)) ++
  (allStrands s).flatMap (fun y => y.2.openers.map (fun o =>
    (o.id, y.2.uid, y.1.core, match o.work with | .amo l _ _ _ _ _ _ => some l | _ => none)))

/-- The atomics that reach the old owner after the freeze of its frame has begun (R146): those on the frame that have not read
their word and after which their strand has nothing else outstanding. The others are done before the freeze is (log 41). -/
def lateAtomics (s : State) (g n f : Nat) : List Relayed :=
  let here (l : Option Loc) : Option Nat := match l with
    | some (.mem pa) => if f ≤ pa ∧ pa < f + n * 65536 then some (g * 65536 + (pa - f)) else none
    | _ => none
  let l := outAccesses s
  let may (x : Nat × Nat × CoreId × Option Loc) : Bool := (here x.2.2.2).isSome && !s.seen.any (fun y => y.id == .own x.1)
  (l.filter (fun x => may x && l.all (fun y => y.2.1 != x.2.1 || decide (y.1 ≤ x.1) || may y))).filterMap (fun x =>
    (here x.2.2.2).map (fun a => ⟨x.1, x.2.2.1, a, false⟩))

/-- Step 2: the request arrives. -/
def migFreeze (s : State) (p : Packet) (g size : Nat) : State :=
  let src := p.src.toNat
  let refuse (c : Cause) : State := sendPkt s (mkPkt s src 1 10 0 0 c (leBytes 8 g))
  if !isOwner s g ∨ (migAway s g).isSome then refuse .migrationChain
  else if stubMax ≤ s.stubs.length then refuse .stubTableFull
  else
    let f := frameOfUnit s g
    let m : Migration := { gpn := g, size := size, pulling := false, step := 2, other := src, frame := 0, who := none, queue := [],
                           sharers := [], bcast := false, copied := s.uid, old := f }
    dropEverywhere { s with migs := s.migs ++ [m], relayed := s.relayed ++ lateAtomics s g (sizeUnits size) f } (fun e => !gpnMeets e g (sizeUnits size))

/-- A migration replaced. -/
def setMig (s : State) (m : Migration) : State :=
  { s with migs := s.migs.map (fun n => if n.gpn = m.gpn ∧ n.pulling = m.pulling then m else n) }
/-- A migration removed. -/
def dropMig (s : State) (m : Migration) : State :=
  { s with migs := s.migs.filter (fun n => n.gpn != m.gpn || n.pulling != m.pulling) }

/-- The HAU results of a page leave with it, and every source's highest id goes with them (R153): records of 32 bytes, of which
bit 32 of the second word marks a result and bit 33 its poison. -/
def hauTake (s : State) (g n : Nat) : List Byte × State :=
  let here (r : HauResult) : Bool := decide (g ≤ r.addr / 65536) && decide (r.addr / 65536 < g + n)
  let l := s.hau.flatMap (fun h =>
    (word8 h.src ++ leBytes 8 (h.highest * 65536) ++ leBytes 16 0) ++ ((h.results ++ h.moved).filter here).flatMap (fun r =>
      word8 h.src ++ leBytes 8 (r.rid + h.highest * 65536 + 2 ^ 32 + (if r.pois then 2 ^ 33 else 0)) ++ leBytes 8 r.addr ++ word8 r.old))
  (l, { s with hau := s.hau.map (fun h => { h with results := h.results.filter (fun r => !here r), moved := h.moved.filter (fun r => !here r) }) })

/-- Moved results join those of the new owner (R153), each with its place beside what it has executed itself,
without a bound (log 67 DESIGN CHOICE). -/
def hauJoin (s : State) (l : List Byte) (n : Nat) : State :=
  match n with
  | 0 => s
  | k + 1 =>
    let w := wordAt l 1
    let r : HauResult := ⟨bitsOf w 0 16, (wordAt l 2).toNat, wordAt l 3, w.getLsbD 33⟩
    hauJoin (hauUpd s (wordAt l 0) (bitsOf w 16 16) (fun h => if w.getLsbD 32 then { h with moved := h.moved ++ [r] } else h)) (l.drop 32) k

/-- The moved results sent, as many packets as they need (R376); the third word is 1 while more follow. -/
def sendMoved (s : State) (dst g size : Nat) (l : List Byte) (n : Nat) : State :=
  match n with
  | 0 => s
  | k + 1 => sendMoved (migSend s dst kMoved g size (if k = 0 then 0 else 1) 0 (l.take 4064)) dst g size (l.drop 4064) k

/-- A stub's state once acknowledgements have come in (R364). -/
def stubCheck (s : State) (g : Nat) : State :=
  { s with stubs := s.stubs.map (fun x => if x.gpn = g ∧ x.pending = [] ∧ x.st ≠ .quiet then { x with st := .quiet, since := now s } else x) }

/-- A queued request relayed to the new owner; an atomic of a core of this package, whose packet names it in a second payload
step, goes as a remote atomic (R146, R151). -/
def relayOwn (s : State) (p : Packet) (owner : Nat) : State :=
  match (if p.src.toNat = s.pkg ∧ p.type = 2 ∧ p.len = 2 then relayedOf s (pktWord p 4).toNat else none) with
  | none => relay s p owner
  | some x =>
    let (u, s) := fresh s
    let q : Req := ⟨u, pageKey s (x.gba / 65536), { p with payload := p.payload.take 32, len := 1 }, none, 0, now s, now s, x.core, 66, x.id, 0, 0, 0⟩
    transmitHop { s with reqs := s.reqs ++ [q] } q owner 1

/-- Step 6 and 7: the entry turns into a stub, the queue is relayed, invalidations go out. -/
def migStub (s : State) (g owner : Nat) (bc : Bool) (sharers : List Nat) : State :=
  match s.migs.find? (fun m => !m.pulling && m.gpn == g) with
  | none => s
  | some m =>
    let dests := (if bc then (List.range 4096) else sharers).filter (fun k => !s.deadPkgs.contains k)
    let x : Stub := ⟨g, owner, .relay, bc, dests, now s, now s⟩
    let s := { dropMig s m with stubs := s.stubs.filter (fun y => y.gpn != g) ++ [x], owned := s.owned.filter (fun h => h != g),
                                frames := adel s.frames g }
    let s := m.queue.foldl (fun s q => relayOwn s q.1 owner) s
    let s := dests.foldl (fun s k => sendPkt s (mkPkt s k 0 5 0 (elandSrc s) .none (leBytes 8 g))) s
    stubCheck (migSend s owner kStubbed g m.size 0 0 []) g

/-! The new owner (R362 steps 3, 4). -/

/-- The strand whose `pgmig` waits for a migration is told its result. -/
def tellMig (s : State) (m : Migration) (d : Word) : State :=
  match m.who with
  | none => s
  | some r => updStrand s r (fun t => if t.uid = m.uid ∧ t.phase = some (.pulling none) then { t with phase := some (.pulling (some d)) } else t)

/-- A refused migration at the new owner: nothing changes (R369). -/
def migFail (s : State) (m : Migration) (c : Cause) (abort : Bool) : State :=
  let s := tellMig (dropMig s m) m (refusalWord c)
  let s := m.queue.foldl (fun s q => bounce s q.1 .migrationChain) s
  if abort then migSend s (gpnHome m.gpn) kAbort m.gpn m.size 0 0 [] else s

/-- A READ of 4 KiB of the page (step 3). -/
def migRead (s : State) (m : Migration) (i : Nat) : State :=
  let (u, s) := fresh s
  let p := mkPkt s m.other 0 0 0 (srcidOf (fabricSid s s.fab m.dom)) .none (reqPayload (m.gpn * 65536 + 4096 * i) 4096 0 false 0 0 [])
  let r : Req := ⟨u, 2 ^ 48 + m.other, p, none, 0, 0, now s, duikerId, 65, m.gpn, 0, i, 0⟩
  transmit { s with reqs := s.reqs ++ [r] } r m.other

/-- Pieces of 4 KiB in a page of a size code. -/
def migPieces (size : Nat) : Nat := 16 * sizeUnits size

/-- The owner that serves a relayed request notes its requester with the home package (R363). -/
def noteSharer (s : State) (g : Nat) (p : Packet) : State :=
  if p.hops = 0 then s
  else if gpnHome g = s.pkg then addSharer s g p.src.toNat
  else migSend s (gpnHome g) kShare g 0 p.src.toNat 0 []

/-- A request served at a page that this package has pulled, whose home may not have recorded it yet (R362 steps 4 and 5). -/
def servePulled (s : State) (m : Migration) (p : Packet) : State :=
  noteSharer (serveAt s p (m.frame + (reqGba p - m.gpn * 65536))) m.gpn p

/-- Step 4: the page is installed at the new owner; requests held for it are served; then step 5. -/
def migInstall (s : State) (m : Migration) : State :=
  let s := { s with frames := aset s.frames m.gpn (m.size, m.frame), stubs := s.stubs.filter (fun x => x.gpn != m.gpn),
                    owned := if gpnHome m.gpn = s.pkg then s.owned else s.owned ++ [m.gpn] }
  let s := dropEverywhere s (fun e => !gpnMeets e m.gpn (sizeUnits m.size))
  let s := setMig s { m with step := 5, queue := [] }
  -- at home the directory entry changes in step 5; until then the page is served as owned
  m.queue.foldl (fun s q => servePulled s m q.1) (migSend s (gpnHome m.gpn) kRecord m.gpn m.size s.pkg 0 [])

/-- Data of the page arrives. -/
def migData (s : State) (g i : Nat) (d : List (Byte × Bool)) : State :=
  match s.migs.find? (fun m => m.pulling && m.gpn == g) with
  | none => s
  | some m =>
    let s := landAll s m.dom (fabricSid s s.fab m.dom) 0 (.mem (m.frame + 4096 * i)) (d.take 4096)
    let m := { m with copied := m.copied + 1 }
    if m.copied = migPieces m.size then migInstall (setMig s m) m else setMig s m

/-- The home directory's answer to a migration request (step 1). One that comes after the request was given up clears the
directory's MIGRATING again. -/
def migOwner (s : State) (g owner : Nat) : State :=
  match s.migs.find? (fun m => m.pulling && m.gpn == g && m.step == 1) with
  | none => if owner = s.pkg then s else migSend s (gpnHome g) kAbort g 0 0 0 []
  | some m =>
    let s := { s with asked := adel s.asked g }
    if owner = s.pkg then tellMig (dropMig s m) m 1
    else if s.deadLinks.contains owner then migFail s m .linkDead true
    else
      migSend (setMig s { m with step := 2, other := owner }) owner kFreeze g m.size 0 0 []

/-- A step of the migration protocol arrives (R362). -/
def migPacket (s : State) (p : Packet) : State :=
  let g := (pktWord p 0).toNat
  let kind := bitsOf (pktWord p 1) 0 8
  let size := bitsOf (pktWord p 1) 8 8
  let src := p.src.toNat
  let home := gpnHome g = s.pkg
  match kind with
  | 0 => if home then dirAsk s g src else sendPkt s (mkPkt s src 1 10 0 0 .ownerLookupFailed (leBytes 8 g))
  | 1 => migFreeze s p g size
  | 2 => let (l, s) := hauTake s g (sizeUnits size); sendMoved s src g size l (l.length / 4064 + 1)
  | 3 => if home then dirAbort s g else s
  | 4 => if home then dirRecord s g size src else s
  | 5 => migStub s g (pktWord p 2).toNat ((pktWord p 3).getLsbD 0) ((List.range ((p.payload.length - 32) / 8)).map (fun i => (pktWord p (4 + i)).toNat))
  | 6 =>
    (match s.migs.find? (fun m => m.pulling && m.gpn == g && m.step == 2) with
     | some m => migSend (setMig s { m with step := 3 }) src kResults g size 0 0 []
     | none => s)
  | 7 =>
    (match s.migs.find? (fun m => m.pulling && m.gpn == g && m.step == 3) with
     | some m =>
       let s := hauJoin s (p.payload.drop 32) ((p.payload.length - 32) / 32)
       if pktWord p 2 = 1 then s
       else (List.range (migPieces m.size)).foldl (fun s i => migRead s m i) (setMig s { m with step := 4 })
     | none => s)
  | 8 =>
    (match s.migs.find? (fun m => m.pulling && m.gpn == g && m.step == 5) with
     | some m => tellMig (dropMig s m) m 0
     | none => s)
  | 9 => if home then addSharer s g (pktWord p 2).toNat else s
  | _ => s

/-- The old owner's freeze ends once earlier accesses are done (R362 step 2). -/
def freezeStep (s : State) (m : Migration) : State :=
  if !m.pulling ∧ m.step = 2 ∧ coresQuiet s m.copied then migSend (setMig s { m with step := 3 }) m.other kFrozen m.gpn m.size 0 0 []
  else s

/-- A migration that pulls a page covers a unit. -/
def migInto (s : State) (u : Nat) : Option Migration :=
  s.migs.find? (fun m => m.pulling && decide (m.gpn ≤ u) && decide (u < m.gpn + sizeUnits m.size))

/-- A request that reaches this package (R361), and the owner's note of a relayed requester (R363). -/
def arriveReq (s : State) (p : Packet) : State :=
  let u := reqGba p / 65536
  let g := pageKey s u
  let hold (m : Migration) : State := setMig s { m with queue := m.queue ++ [(p, now s, false)] }
  match (if p.type = 0 then none else migAway s u), migInto s u with
  | some m, _ => hold m
  | none, some m => if m.step < 5 then hold m else servePulled s m p
  | none, none =>
    if isOwner s g then noteSharer (serveHere s p) g p
    else match s.stubs.find? (fun x => x.gpn == g) with
      | some x => relay s p x.owner
      | none => bounce s p .migrationChain

/-- FROZEN_PAGE_TIMEOUT (R362): a request held 1 ms in a frozen page's queue is reported once to its issuer's domain. Its
report names no channel: s17 is the request's GBA (log 18). -/
def execFrozenPageTimeout (gpn : BitVec 48) (s : State) : Out :=
  match s.migs.find? (fun m => !m.pulling && m.gpn == gpn.toNat) with
  | none => .next s
  | some m =>
    let late (q : Packet × Nat × Bool) : Bool := !q.2.2 && decide (q.2.1 + 1000000 ≤ now s)
    let s' := setMig s { m with queue := m.queue.map (fun q => if late q then (q.1, q.2.1, true) else q) }
    .next ((m.queue.filter late).foldl (fun s q =>
      reportWith s (srcDom q.1.srcid) .frozenPageTimeout ⟨0, now s, hauSrc q.1, 0, false, 0, false⟩ (pktWord q.1 0) none true) s')

/-- STUB_HELD_TIMEOUT (R364): 10 ms in RELAY. -/
def execStubHeldTimeout (gpn : BitVec 48) (s : State) : Out :=
  match s.stubs.find? (fun x => x.gpn == gpn.toNat) with
  | none => .next s
  | some x =>
    if x.st = .relay ∧ x.pending ≠ [] ∧ x.born + 10000000 ≤ now s then
      .next (logEvent { s with stubs := s.stubs.map (fun y => if y.gpn = x.gpn then { y with st := .held, since := now s } else y) } (elandSid s 0) .none x.gpn)
    else .next s

/-- STUB_QUIET_EXPIRY (R364): 50 µs in QUIET. -/
def execStubQuietExpiry (gpn : BitVec 48) (s : State) : Out :=
  .next { s with stubs := s.stubs.filter (fun x => x.gpn != gpn.toNat || x.st != .quiet || decide (now s < x.since + 50000)) }

/-- Every request that waits on a GPN's lookup fails (R360). -/
def lookupFail (s : State) (g : Nat) (c : Cause) : State := heldFail { s with lookups := s.lookups.filter (fun l => l.1 != g) } g c

/-- A migration that the home directory does not answer is refused (R369). -/
def askFail (s : State) (g : Nat) : State :=
  let s := { s with asked := adel s.asked g }
  match s.migs.find? (fun m => m.pulling && m.gpn == g && m.step == 1) with
  | some m => migFail s m .ownerLookupFailed false
  | none => s

/-- OWNER_LOOKUP_TIMEOUT (R360): no answer within 100 µs, of a lookup or of a migration's first request. -/
def execOwnerLookupTimeout (gpn : BitVec 48) (s : State) : Out :=
  let g := gpn.toNat
  let late (l : List (Nat × Nat)) : Bool := match aget l g with | some t => decide (t + 100000 ≤ now s) | none => false
  let s' := if late s.lookups then lookupFail s g .ownerLookupFailed else s
  .next (if late s.asked then askFail s' g else s')

/-- A package declared dead (R364, R365): it leaves every pending set and every sharer set. -/
def declareDead (s : State) (k : Nat) : State :=
  let dead := if s.deadPkgs.contains k then s.deadPkgs else s.deadPkgs ++ [k]
  let drop (x : Stub) : Stub := { x with pending := x.pending.filter (fun j => j != k) }
  let s : State := { s with deadPkgs := dead, stubs := s.stubs.map drop }
  let s := s.stubs.foldl (fun s x => stubCheck s x.gpn) s
  s.dir.foldl (fun s d => let e := dirOf s d.1; setDir s d.1 { e with sharers := e.sharers.filter (fun j => j != k) }) s

end Sys2Proof.Machine
end

