-- ==== Sys2Proof/Machine/Relay.lean ====
section
/-! DEFINITION. Atomics at their execution points (R147, R149), here or, for those that meet a frozen page, at its new owner
(R146, R151); the completion of openers (R97, R99). -/

namespace Sys2Proof.Machine

/-- A relayed atomic of a core sets out (R146): into the frozen queue, or, once the page is gone, toward its owner. -/
def relayAtomic (s : State) (x : Relayed) (sid : Word) (fn : Nat) (wide : Bool) (b c : Word) : State :=
  let s := { s with relayed := s.relayed.map (fun y => if y.id = x.id then { y with sent := true } else y) }
  let p := mkPkt s 0 0 2 0 (srcidOf sid) .none (reqPayload x.gba (if wide then 8 else 4) fn wide b c [])
  match migAway s (x.gba / 65536) with
  | some m => setMig s { m with queue := m.queue ++ [({ p with payload := p.payload ++ leBytes 8 x.id }, now s, false)] }
  | none => startReq s (pageKey s (x.gba / 65536)) p x.core 66 x.id 0 0 0

/-- The package without the relayed atomics that have set out: those order the accesses after them no longer. -/
def withoutSent (s : State) : State :=
  { s with pend := s.pend.filter (fun p => !s.relayed.any (fun x => x.id == p.seq && x.sent)) }

/-- ATOMIC_EXECUTE (R147): a posted atomic is applied at its execution point. -/
def execAtomicExecute (seq : Nat) (s : State) : Out :=
  match s.pend.find? (fun p => p.seq == seq) with
  | none => .next s
  | some p =>
    match p.work with
    | .store _ => .next s
    | .atomic fn wide scope b c =>
      match relayedOf s seq with
      | some x => if x.sent || !writeFree s p || !canLand (withoutSent s) p then .next s else .next (relayAtomic s x (ownerOf s p).2 fn wide b c)
      | none =>
        if !canLand s p then .next s
        else
          let (dom, sid) := ownerOf s p
          let (_, _, e, s) := amoExecute { s with pend := s.pend.filter (fun q => q.seq != seq) } (some p.ref.core) (.own seq) p.loc fn wide scope b c
          .next (reportDataOpt s dom sid e p.iaddr p.va)

/-- What an opener writes when it completes: the strand's registers, errors reported (R99). -/
def openerRegs (s : State) (r : StrandRef) (t : Strand) (o : Opener) : Regs × State :=
  let sid := strandSid s r t.dom
  let dst := openerDst o
  match o.work with
  | .div v p _ => (wr t.r dst v p, s)
  | .ld l va n sx =>
    let (bs, p, e, s) := readLoc s r.core t.uid o.seq 0 l n
    (wr t.r dst (extLoad n sx bs) (p || e.isSome), reportDataOpt s t.dom sid e o.pc va)
  | .amo l va fn w sc b c =>
    let (v, p, e, s) := amoExecute s (some r.core) (.own o.id) l fn w sc b c
    (wr t.r dst (amoDest s t dst v e) p, reportDataOpt s t.dom sid e o.pc va)
  | .vld els eb tag old =>
    let (v, es, s) := vldRead s r.core t.uid o.seq eb 0 els { old with tag := tag }
    let n := match o.dest with | some (true, n) => n | _ => 32
    -- an error after the window has opened poisons the whole destination (R99)
    let v := if es.isEmpty then v else { v with pois := 0xFF#8 }
    ({ t.r with v := t.r.v.set n v }, reportAll s t.dom sid o.pc es)

/-- A relayed returning atomic sets out when what is before it has (R146). -/
def relayOpener (s : State) (r : StrandRef) (t : Strand) (o : Opener) (x : Relayed) : State :=
  let left := { t with openers := t.openers.filter (fun q => !s.relayed.any (fun y => y.id == q.id && y.sent)) }
  if x.sent || !openerReady (withoutSent s) r.core left o || !belowDone s r.core t.uid o.floor t.openers 2 then s
  else match o.work with
    | .amo _ _ fn w _ b c => relayAtomic s x (strandSid s r t.dom) fn w b c
    | _ => s

/-- LOOKAHEAD_OPENER_COMPLETE (R99): the destination is written; an error is reported and poisons it. -/
def execLookaheadOpenerComplete (r : StrandRef) (id : Nat) (s : State) : Out :=
  match getStrand s r with
  | none => .next s
  | some t =>
    match t.openers.find? (fun o => o.id == id) with
    | none => .next s
    | some o =>
      match relayedOf s id with
      | some x => .next (relayOpener s r t o x)
      | none =>
        if !openerReady s r.core t o then .next s
        else
          let (regs, s) := openerRegs s r t o
          .next (endOpener s r id regs)

end Sys2Proof.Machine
end

