-- ==== Sys2Proof/Machine/Xlat.lean ====
section
/-! DEFINITION. The XLAT family (R351–R355, R366–R373) and the timeout of a miss (R354). -/

namespace Sys2Proof.Machine

/-- An outstanding miss answered (R354): its accesses look up again, or meet an absent page. A strand is ready anew (R103). -/
def answerMiss (s : State) (die clus : Nat) (m : Miss) (absent : Bool) : State :=
  let cl := getClus s die clus
  let s := setClus s die clus { cl with misses := cl.misses.filter (fun x => x.token != m.token),
                                        absent := if absent then cl.absent ++ m.devs.map (fun k => (m.dom, m.vunit, k)) else cl.absent }
  { s with cores := s.cores.map (fun c => (c.1, { c.2 with strands := c.2.strands.map (fun y =>
      (y.1, if y.2.status = .waiting (.miss m.token) then
              { y.2 with status := .ready, since := s.cycle, readyAt := s.cycle, absent := if absent then m.vunit :: y.2.absent else y.2.absent }
            else y.2)) })) }

/-- Every miss that waits on a token answered. -/
def answerToken (s : State) (tok : Word) (absent : Bool) : State :=
  s.clusters.foldl (fun s c =>
    match (getClus s c.1.1 c.1.2).misses.find? (fun m => m.token.setWidth 64 == tok) with
    | some m => answerMiss s c.1.1 c.1.2 m absent
    | none => s) s

/-- TLB_MISS_TIMEOUT (R354): 10 ms without a `tlbw`. -/
def execTlbMissTimeout (die clus : Nat) (token : BitVec 32) (s : State) : Out :=
  match (getClus s die clus).misses.find? (fun m => m.token == token) with
  | some m =>
    if m.time + 10000000 ≤ now s then
      .next (answerMiss (logEvent s (sidOf s.pkg die clus 0 0 m.dom 5) .pageNotPresent (m.vunit * 65536)) die clus m true)
    else .next s
  | none => .next s

/-- A TLB descriptor is invalid (R352, R367). -/
def tlbDescBad (w0 w1 w2 w3 : Word) : Bool :=
  let size := bitsOf w0 2 2
  let vp := bitsOf w0 16 40
  bitsOf w0 56 8 != 0 || bitsOf w0 4 12 != 0 || bitsOf w1 48 16 != 0 || bitsOf w2 9 55 != 0 || decide (2 ≤ bitsOf w0 0 2) || size == 3 ||
    vp % sizeUnits size != 0 ||
    (w2.getLsbD 0 && (bitsOf w2 6 2 == 3 || bitsOf w2 4 2 == 3 || w3.toNat % (65536 * sizeUnits size) != 0 || w1 == 0 ||
      w1.toNat % sizeUnits size != 0 || (bitsOf w2 6 2 == 1) != (w3 == 0)))

/-- The entry of a descriptor (R352); in migration at this package it is installed with LOC 1 (R353). -/
def descEntry (s : State) (dom : Nat) (w0 w1 w2 w3 : Word) : TlbEntry :=
  let e : TlbEntry := { dom := dom, vpage := bitsOf w0 16 40, size := bitsOf w0 2 2, gpn := w1.toNat, pin := w2.getLsbD 8, loc := bitsOf w2 6 2,
                        priv := bitsOf w2 4 2, x := w2.getLsbD 3, w := w2.getLsbD 2, r := w2.getLsbD 1, frame := w3.toNat }
  if s.migs.any (fun m => !m.pulling && gpnMeets e m.gpn (sizeUnits m.size)) then { e with loc := 1, frame := 0 } else e

/-- An entry installed where R367 puts it. -/
def installEntry (s : State) (c : CoreId) (e : TlbEntry) : State :=
  match c.kind with
  | .hub | .duiker => updCore s c (fun k => { k with own := tlbInstall 2048 k.own e })
  | _ =>
    let d := getDie s c.die
    let s := setDie s c.die { d with llt := tlbInstall 32768 d.llt e }
    let cl := getClus s c.die c.clus
    setClus s c.die c.clus { cl with tlb := tlbInstall 2048 cl.tlb e }

/-- An owned page's frame, as an installed entry gives it (R349, R361). -/
def learnFrame (s : State) (e : TlbEntry) : State :=
  if e.loc = 0 ∧ isOwner s e.gpn then { s with frames := aset s.frames e.gpn (e.size, e.frame) } else s

/-- A removal by GPN at package scope frees the page's frame (R349, R358): where the page is next, a new entry says. -/
def forgetFrame (s : State) (g : Nat) : State :=
  { s with frames := s.frames.filter (fun f => !(decide (f.1 ≤ g) && decide (g < f.1 + sizeUnits f.2.1))) }

/-- The miss channel may be set to a handle (R367): 0, or a live FIFO channel of the domain homed on this Markhor. -/
def missChanOk (s : State) (x : Ctx) (h : Word) : Bool :=
  h == 0 || (match findChan s x.r.core h with | some q => !q.count && !q.spilled && hDom h == x.t.dom | none => false)

/-- `tlbw` (R367): one meaning, chosen by OP at run time. -/
def tlbw (i : Instr) (d a b : BitVec 5) (s : State) : Out :=
  issue i s (fun s x => do
    needCleanAll x.t.r [a, b]
    let va := rd x.t.r a
    let (l, s) ← descLoad s x va 4
    if va.toNat % 32 ≠ 0 then throw (.trap .misaligned 0 va)
    let g (i : Nat) : Word := (l[i]?).getD 0
    let bad : Except Stop (State × Next) := answer s x d (refusalWord .tlbEntryInvalid)
    if bitsOf (g 0) 0 2 = 1 then
      if x.r.core.kind ≠ .markhor ∨ g 0 ≠ 1 ∨ g 2 ≠ 0 ∨ g 3 ≠ 0 ∨ !missChanOk s x (g 1) then bad
      else
        let cl := getClus s x.r.core.die x.r.core.clus
        answer (setClus s x.r.core.die x.r.core.clus { cl with missch := g 1 }) x d 0
    else if tlbDescBad (g 0) (g 1) (g 2) (g 3) then bad
    else
      let v := (g 2).getLsbD 0
      let e := descEntry s x.t.dom (g 0) (g 1) (g 2) (g 3)
      let s := if v then learnFrame (installEntry s x.r.core e) e else s
      let tok := rd x.t.r b
      answer (if tok = 0 then s else answerToken s tok (!v)) x d 0)

/-- R367. -/
def execTlbwInstall (d a b : BitVec 5) (s : State) : Out := tlbw (.tlbwInstall d a b) d a b s
/-- R367. -/
def execTlbwSetMissChannel (d a b : BitVec 5) (s : State) : Out := tlbw (.tlbwSetMissChannel d a b) d a b s

/-- Entries removed at a scope and in the levels below it (R368): 0 core, 1 cluster, 2 package. -/
def dropAt (s : State) (c : CoreId) (scope : Nat) (keep : TlbEntry → Bool) : State :=
  if scope = 2 then dropEverywhere s keep
  else match c.kind with
    | .hub | .duiker => updCore s c (fun k => { k with tlb := k.tlb.filter keep, own := k.own.filter keep })
    | _ =>
      let cl := getClus s c.die c.clus
      let d := getDie s c.die
      let s := setDie s c.die { d with llt := d.llt.filter keep }
      let engs := if scope = 1 then cl.engTlb.filter (fun e => keep e.2) else cl.engTlb
      let s := setClus s c.die c.clus { cl with tlb := cl.tlb.filter keep, engTlb := engs }
      let mine (k : CoreId) : Bool := if scope = 0 then k == c else k.die == c.die && k.clus == c.clus && (k.kind == .compute || k.kind == .markhor)
      { s with cores := s.cores.map (fun y => (y.1, if mine y.1 then { y.2 with tlb := y.2.tlb.filter keep } else y.2)) }

/-- Entries removed, then the wait for every access that began before (R368). -/
def invalidate (s : State) (x : Ctx) (scope : Nat) (keep : TlbEntry → Bool) : Except Stop (State × Next) :=
  match x.t.phase with
  | some (.removed n) =>
    if quietBelow s n then .ok (updStrand s x.r (fun t => { t with phase := none }), .seq) else .ok (s, .hold (.answer 0))
  | _ =>
    let s := dropAt s x.r.core scope keep
    if quietBelow s s.uid then .ok (s, .seq) else .ok (updStrand s x.r (fun t => { t with phase := some (.removed s.uid) }), .hold (.answer 0))

/-- The domain of a removal (R368): DOM at privilege H; below H it must be zero. -/
def invDom (x : Ctx) (sel : Word) : Except Stop Nat :=
  if x.t.priv = .h then pure (bitsOf sel 8 8)
  else do orTrap (bitsOf sel 8 8 == 0) .operandRange; pure x.t.dom

/-- R368. -/
def execTlbinv (a b : BitVec 5) (s : State) : Out :=
  issue (.tlbinv a b) s (fun s x => do
    needCleanAll x.t.r [a, b]
    let va := rd x.t.r a
    let sel := rd x.t.r b
    let key := bitsOf sel 0 2
    let scope := bitsOf sel 2 2
    orTrap (bitsOf sel 4 4 == 0 && bitsOf sel 16 48 == 0 && decide (key ≤ 1) && decide (scope ≤ 2) && (key == 1 || decide (va.toNat < 2 ^ 56))) .operandRange
    let dom ← invDom x sel
    let hit (e : TlbEntry) : Bool := e.dom == dom && (if key = 0 then tlbHit dom (va.toNat / 65536) e else gpnMeets e (bitsOf va 0 48) 1)
    invalidate (if key = 1 ∧ scope = 2 then forgetFrame s (bitsOf va 0 48) else s) x scope (fun e => !hit e))

/-- R368. -/
def execTlbinva (a : BitVec 5) (s : State) : Out :=
  issue (.tlbinva a) s (fun s x => do
    needClean x.t.r a
    let sel := rd x.t.r a
    let scope := bitsOf sel 0 2
    orTrap (bitsOf sel 2 6 == 0 && bitsOf sel 17 47 == 0 && decide (scope ≤ 2)) .operandRange
    let dom ← invDom x sel
    invalidate s x scope (fun e => e.dom != dom || (e.pin && !sel.getLsbD 16)))

/-- The cause of a code that R327 lists among the migration refusals. -/
def migCause (n : Nat) : Cause :=
  if n = causeCode .stubTableFull then .stubTableFull else if n = causeCode .linkDead then .linkDead else .ownerLookupFailed

/-- R369. The migration runs beside the strand; its end is noted in the strand's phase. -/
def execPgmig (d a b : BitVec 5) (s : State) : Out :=
  issue (.pgmig d a b) s (fun s x => do
    needCleanAll x.t.r [a, b]
    let w := rd x.t.r a
    let frame := (rd x.t.r b).toNat
    let g := bitsOf w 0 48
    let size := bitsOf w 48 2
    orTrap (bitsOf w 50 14 == 0 && decide (size ≤ 1) && g != 0 && g % sizeUnits size == 0 && frame % (65536 * sizeUnits size) == 0 &&
      frameExists s frame) .operandRange
    let hold (s : State) : Except Stop (State × Next) := .ok (updStrand s x.r (fun t => { t with phase := some (.pulling none) }), .hold (.answer g))
    let fin (s : State) (v : Word) : Except Stop (State × Next) := answer (updStrand s x.r (fun t => { t with phase := none })) x d v
    match x.t.phase with
    | some (.pulling (some v)) => fin s v
    | _ =>
      if s.migs.any (fun m => m.gpn == g) then hold s
      else if isOwner s g then fin s 1
      else
        let m : Migration := { gpn := g, size := size, pulling := true, step := 1, other := 0, frame := frame, who := some x.r, queue := [],
                               sharers := [], bcast := false, copied := 0, old := 0, dom := x.t.dom, uid := x.t.uid }
        if s.deadLinks.contains (gpnHome g) then fin s (refusalWord .ownerLookupFailed)
        else hold (migSend { s with migs := s.migs ++ [m], asked := aset s.asked g (now s) } (gpnHome g) kAsk g size 0 0 []))

/-- R370. The home directory answers through a lookup, this package's own too (R360). -/
def execOwnq (d a : BitVec 5) (s : State) : Out :=
  issue (.ownq d a) s (fun s x => do
    needClean x.t.r a
    let g := (rd x.t.r a).toNat
    orTrap (decide (g < 2 ^ 48)) .operandRange
    let key := pageKey s g
    let fin (s : State) (v : Word) : Except Stop (State × Next) := answer (updStrand s x.r (fun t => { t with phase := none })) x d v
    let word (src owner : Nat) : Word :=
      BitVec.ofNat 64 ((if (migAway s g).isSome || (migInto s g).isSome then 2 ^ 15 else 0) + src * 2 ^ 13 + (if isOwner s key then 2 ^ 12 else 0) + owner % 4096)
    let wait (s : State) (k : Nat) : Except Stop (State × Next) :=
      .ok (updStrand s x.r (fun t => { t with phase := some (.asked k none) }), .hold (.answer 0))
    match x.t.phase with
    | some (.asked _ (some o)) => fin s (word (if gpnHome g = s.pkg then 1 else 2) o)
    | some (.asked k none) =>
      if s.lookups.any (fun l => l.1 == k) then wait s k else fin s (refusalHigh .ownerLookupFailed)
    | _ =>
      match aget s.oc key with
      | some o => fin s (word 0 o)
      | none => wait (lookupOwner s key (srcidOf (strandSid s x.r x.t.dom))) key)

/-- STATE of a stub as `stubq` gives it (R371). -/
def stubCode (x : StubState) : Nat := match x with | .relay => 0 | .quiet => 1 | .held => 2

/-- R371. -/
def execStubq (d a : BitVec 5) (s : State) : Out :=
  issue (.stubq d a) s (fun s x => do
    needClean x.t.r a
    let g := (rd x.t.r a).toNat
    orTrap (decide (g < 2 ^ 48)) .operandRange
    match s.stubs.find? (fun y => y.gpn == pageKey s g) with
    | none => answer s x d 0
    | some y =>
      let age := min ((now s - y.born) / 1000) (2 ^ 32 - 1)
      answer s x d (BitVec.ofNat 64 (2 ^ 63 + stubCode y.st * 2 ^ 61 + (if y.bcast then 2 ^ 60 else 0) + y.owner % 4096 * 2 ^ 48 +
        min y.pending.length 4095 * 2 ^ 32 + age)))

/-- A forecast range overlaps [base, base + n). -/
def rangeMeets (base n : Nat) (r : Nat × Nat) : Bool := decide (r.1 < base + n) && decide (base < r.1 + r.2)

/-- Jobs of a domain in the forecast (R202): a gang's own entry is no job of the package. -/
def forecast (s : State) (dom : Nat) : List (Nat × Job) :=
  s.jobs.filter (fun j => j.2.dom == dom && j.2.st != .complete && j.2.gang.isNone)

/-- The distance of R372. -/
def rfcDistance (s : State) (dom base n : Nat) : Word :=
  let js := forecast s dom
  let meets (j : Nat × Job) : Bool := j.2.ranges.any (rangeMeets base n)
  if js.any (fun j => j.2.st == .dealing && meets j) then 0
  else
    let waits := js.filter (fun j => j.2.st == .held)
    let key (j : Nat × Job) : List Nat := [j.2.order, j.1]
    match leastBy (fun a b => lexLt (key a) (key b)) (waits.filter meets) with
    | none => ~~~(0#64)
    | some j => BitVec.ofNat 64 (1 + (waits.filter (fun k => lexLt (key k) (key j))).length)

/-- R372. -/
def execRfc (d a b : BitVec 5) (s : State) : Out :=
  issue (.rfc d a b) s (fun s x => do
    needCleanAll x.t.r [a, b]
    let base := (rd x.t.r a).toNat
    let n := (rd x.t.r b).toNat
    orTrap (decide (base < 2 ^ 56) && decide (1 ≤ n) && decide (n ≤ 2 ^ 48)) .operandRange
    answer s x d (rfcDistance s x.t.dom base n))

/-- The command that waits on an engine fault record (R220). -/
def pausedOn (s : State) (dom : Nat) (h : Word) : Option (CoreId × Copy) :=
  s.cores.findSome? (fun c => (c.2.copies.find? (fun q => q.who.dom == dom && (match q.paused with
    | some p => p.handle == h && decide (1 < h.toNat)
    | none => false))).map (fun q => (c.1, q)))

/-- The strand asleep on a record (R142). -/
def findAsleep (s : State) (dom : Nat) (h : Word) : Option (StrandRef × Strand) :=
  (allStrands s).find? (fun y => y.2.dom == dom && y.2.status == .asleep h)

/-- A strand woken (R142, R244). `from_` is the `fresume` with its word 0, the transfer of control that a target which is no marked
start names (R81). -/
def wakeStrand (s : State) (r : StrandRef) (t : Strand) (from_ : Option (Word × BitVec 32)) : State :=
  acquire (setStrand s r { t with status := .ready, target := true, from_ := from_, since := s.cycle, readyAt := s.cycle }) r.core 2

/-- The bits of a fault record that are zero (R3, R356): in word 0 [40:18] and [13:7], bytes 40 to 63, in the page words [63:56],
[15] and [7:2], the page words beyond NPG, and bytes 320 to 511. -/
def faultRecordZeros (l : List Byte) : Bool :=
  let w := wordAt l 0
  bitsOf w 18 23 == 0 && bitsOf w 7 7 == 0 && ((l.drop 40).take 24).all (fun b => b == 0) && ((l.drop 320).all (fun b => b == 0)) &&
  (List.range 32).all (fun k => let p := wordAt l (8 + k)
    if k < bitsOf w 42 6 then bitsOf p 56 8 == 0 && !p.getLsbD 15 && bitsOf p 2 6 == 0 else p == 0)

/-- R373. -/
def execFresume (d a : BitVec 5) (s : State) : Out :=
  issue (.fresume d a) s (fun s x => do
    needClean x.t.r a
    if !belowDone s x.r.core x.t.uid s.uid x.t.openers 2 then throw (.wait (.fence 2))
    let h := rd x.t.r a
    let rec_ := bitsOf h 0 48
    let bad : Stop := .trap .eretInvalid 0 h
    if !inTrarea s x.t.dom rec_ then throw bad
    match devRead s (recAgent x.r x.t.dom) (BitVec.ofNat 64 rec_) 512 with
    | .error (.miss, _) => throw (.miss (BitVec.ofNat 64 rec_) 4)
    | .error (.fault _, _) => throw bad
    | .ok (l, _, s) =>
      let w := wordAt l 0
      if bitsOf w 48 16 ≠ bitsOf h 48 16 ∨ bitsOf w 16 2 ≠ 1 ∨ bitsOf w 42 6 = 0 ∨ !faultRecordZeros l then throw bad
      match devWrite s (recAgent x.r x.t.dom) (BitVec.ofNat 64 rec_) (word8 (w + 0x10000#64)) with
      | .error (.miss, _) => throw (.miss (BitVec.ofNat 64 rec_) 5)
      | .error (.fault _, _) => throw bad
      | .ok s =>
        let s := closeRecord s x.t.dom h
        let by_ : Option (Word × BitVec 32) := some (x.t.pc, x.word0)
        if w.getLsbD 41 then
          match pausedOn s x.t.dom h with
          | some (c, q) => answer (updCopy s c q.strm q.num (fun q => { q with paused := none })) x d 0
          | none => answer s x d 1
        else match findAsleep s x.t.dom h with
          | some (r, t) => answer (wakeStrand s r t by_) x d 0
          | none =>
            let m := getDom s x.t.dom
            answer (setDom s x.t.dom { m with awake := m.awake ++ [(h, by_)] }) x d 0)

end Sys2Proof.Machine
end

