-- ==== Sys2Proof/Machine/Fabric.lean ====
section
/-! DEFINITION. Packets that reach the package (R376–R381, R388), dead links (R374), the message channel (R380),
retransmission (R151), and the time exchange (R386, R387). Payloads that R378 does not lay out are the model's own
(log 17). -/

namespace Sys2Proof.Machine

/-- A packet's virtual channel and type agree (R378). -/
def typeOk (vc type : Nat) : Bool :=
  match vc with
  | 0 => decide (type ≤ 5)
  | 1 => decide (8 ≤ type) && decide (type ≤ 13)
  | 2 => decide (16 ≤ type) && decide (type ≤ 19)
  | 3 => decide (20 ≤ type) && decide (type ≤ 23)
  | 4 => type == 28 || type == 29
  | _ => false

/-- A packet whose trailer shows a damaged line is logged (R381). -/
def logBad (s : State) (p : Packet) : State :=
  p.badLines.foldl (fun s i => logEvent s (elandSid s 0) .checkValueMismatch i) s

/-- Types without a request id (R151, R376, R378, R380). -/
def noRid (type : Nat) : Bool := [3, 4, 5, 11, 12, 28, 29].contains type

/-- CAUSE is zero but in responses, bounces and slot answers, RDR but in responses, RID in types without one (R376). -/
def headZeros (p : Packet) : Bool :=
  (p.cause == 0 || p.vc == 1 || p.type == 23) && (p.rdr == 0 || p.vc == 1) && (p.rid == 0 || !noRid p.type.toNat)

/-- The gateway runs: Duiker has brought the fabric up (R393 stage 7), and the package takes part in the domain (R397, log 21). -/
def fabricUp (s : State) : Bool := s.powered && decide (7 ≤ s.boot.stage)

/-- What the gateway discards before anything reaches a target (R376–R378): reserved bits, age, an unknown type, a length that
does not match, a packet for another package. Before the fabric is up nothing is received. -/
def gate (s : State) (p : Packet) (type : Nat) (k : State → State) : Out :=
  let drop : Out := .next (logEvent s (elandSid s 0) .none p.type.toNat)
  if !fabricUp s then .next s
  else if p.resv ∨ !headZeros p ∨ p.hops = 3 ∨ p.dst.toNat ≠ s.pkg ∨ p.payload.length ≠ 32 * p.len.toNat ∨ 128 < p.len.toNat then drop
  else if p.type.toNat ≠ type ∨ !typeOk p.vc.toNat type then drop
  else if 24 ≤ pktAge s p then .next { s with discards := s.discards + 1 }
  else .next (k (logBad s p))

/-- The access-table bit of the Turbery port at which a packet arrives (R388): read, write, atomic, send. -/
def portAdmits (s : State) (p : Packet) (bit : Nat) : Bool := (accessBits s 1 p.port (srcDom p.srcid)).getLsbD bit

/-- READ, WRITE and ATOMIC (R361, R378, R388); a WRITE in parts goes on with its last (log 74). -/
def recvReq (p : Packet) (type bit : Nat) (s : State) : Out :=
  gate s p type (fun s =>
    if !reqOk s p then logEvent s (elandSid s 0) .none p.type.toNat
    else match joinParts s p with
      | (none, s) => s
      | (some p, s) => if !portAdmits s p bit then bounce s p .accessTableDenied else arriveReq s p)

/-- PKT_READ (R378). -/
def execPktRead (p : Packet) (s : State) : Out := recvReq p 0 0 s
/-- PKT_WRITE (R378). -/
def execPktWrite (p : Packet) (s : State) : Out := recvReq p 1 1 s
/-- PKT_ATOMIC (R152). -/
def execPktAtomic (p : Packet) (s : State) : Out := recvReq p 2 2 s

/-- PKT_DIRQ (R360): the home directory names the owner, and the asking package joins the sharers; where the entry cannot be made
the lookup fails (R359). -/
def execPktDirq (p : Packet) (s : State) : Out :=
  gate s p 3 (fun s =>
    let g := (pktWord p 0).toNat
    if gpnHome g ≠ s.pkg then sendPkt s (mkPkt s p.src.toNat 1 10 0 p.srcid .ownerLookupFailed (leBytes 8 g))
    else if !dirRoom s (pageKey s g) then sendPkt s (mkPkt s p.src.toNat 1 10 0 p.srcid .ownerLookupFailed (leBytes 8 g))
    else
      let owner := (dirOf s (pageKey s g)).owner
      sendPkt (addSharer s (pageKey s g) p.src.toNat) (mkPkt s p.src.toNat 1 11 0 p.srcid .none (leBytes 8 g ++ leBytes 8 0 ++ leBytes 8 owner ++ leBytes 8 0)))

/-- PKT_MIGRQ (R362). -/
def execPktMigrq (p : Packet) (s : State) : Out := gate s p 4 (fun s => migPacket s p)

/-- PKT_INVAL (R364): the OC entry goes; the acknowledgement follows when no request is on the old path. -/
def execPktInval (p : Packet) (s : State) : Out :=
  gate s p 5 (fun s =>
    let g := (pktWord p 0).toNat
    let s := { s with oc := adel s.oc g }
    let h := pathOf s g
    if h.inFlight = 0 then sendPkt s (mkPkt s p.src.toNat 1 12 0 0 .none (leBytes 8 g))
    else setPath s { h with ackTo := h.ackTo ++ [p.src.toNat], changing := true })

/-- A request of a copy block, of a table access (64), of a migration (65), of a core's atomic (66) or of a slot's result write is
answered. -/
def giveData (s : State) (q : Req) (d : List (Byte × Bool)) (bad : Bool) : State :=
  if q.strm = 64 then { s with tabAns := aset s.tabAns (q.num, q.member) (leWord (d.map (fun b => b.1)), if bad then some .uncorrectableData else none) }
  else if q.strm = 65 then migData s q.num q.block d
  else if q.strm = slotStrm then slotWrote s q true
  else if q.strm = 66 then amoReply s q.num (leWord (d.map (fun b => b.1))) (d.any (fun b => b.2)) none
  else
    let s := putGot s q.core q.strm q.num ⟨q.member, q.block, q.piece, true, d⟩
    if bad then putGot s q.core q.strm q.num ⟨q.member, q.block, q.piece + 100000, true, []⟩ else s

/-- PKT_DATA (R378, R381): a line whose check does not match, or that the sender read with an error, is poisoned. -/
def execPktData (p : Packet) (s : State) : Out :=
  gate s p 8 (fun s =>
    match reqOf s p with
    | none => s
    | some q =>
      let d := p.payload.zipIdx.map (fun b => (b.1, p.badLines.contains (b.2 / 64)))
      let bad := p.cause.toNat = causeCode .uncorrectableData ∨ (p.cause = 0 ∧ !p.badLines.isEmpty)
      let n := reqBytes q.p
      endReq (redirect (giveData s q (d.take n) (decide bad)) q.gpn p) q)

/-- PKT_DONE (R378): a write or atomic completed; word 0 is the old word. -/
def execPktDone (p : Packet) (s : State) : Out :=
  gate s p 9 (fun s =>
    match reqOf s p with
    | none => s
    | some q =>
      let s := if p.cause = 0 then giveData s q ((word8 (pktWord p 0)).map (fun b => (b, p.badLines.contains 0))) false
        else reqFail s q (if p.cause.toNat = causeCode .checkValueMismatch then .checkValueMismatch else .uncorrectableData)
      endReq (redirect s q.gpn p) q)

/-- The cause of a bounce that fails a request (R218, R361). -/
def bounceCause (q : Req) (n : Nat) : Cause :=
  if n = causeCode .atomicIndeterminate then .atomicIndeterminate
  else if n = causeCode .accessTableDenied then
    (if 64 ≤ q.strm then .accessTableDenied else if q.p.type = 0 then .copySourceFault else .copyDestFault)
  else if n = causeCode .uncorrectableData then .uncorrectableData
  else if n = causeCode .linkDead then .linkDead
  else .ownerLookupFailed

/-- PKT_BOUNCE (R361, R363, R365): a chain asks the home again; another cause fails the request. A bounce that answers no
request is a refused migration (R369) or a lookup that failed (R360), or a message turned away (R388). -/
def execPktBounce (p : Packet) (s : State) : Out :=
  gate s p 10 (fun s =>
    match reqOf s p with
    | some q =>
      if p.cause.toNat = causeCode .migrationChain then bounceReq s q
      else endReq (reqFail s q (bounceCause q p.cause.toNat)) q
    | none =>
      let g := (pktWord p 0).toNat
      if p.cause.toNat = causeCode .accessTableDenied ∧ 64 ≤ p.payload.length then
        reportSend s (ofRecord s 0 (recordMsg p.payload) (srcDom p.srcid)) .accessTableDenied
      else match s.migs.find? (fun m => m.pulling && m.gpn == g && (m.step == 1 || m.step == 2)) with
        | some m => migFail s m (migCause p.cause.toNat) (m.step == 2)
        | none => if s.lookups.any (fun l => l.1 == g) then lookupFail s g .ownerLookupFailed else s)

/-- The strands whose `ownq` asked for an owner have the answer, whatever becomes of the OC's entry (R370). -/
def tellOwner (s : State) (g owner : Nat) : State :=
  (allStrands s).foldl (fun s y =>
    if y.2.phase = some (.asked g none) then updStrand s y.1 (fun t => { t with phase := some (.asked g (some owner)) }) else s) s

/-- PKT_DIRANS (R360, R362): the owner enters the OC and held requests go; or a migration proceeds, or waits at its home (R365). -/
def execPktDirans (p : Packet) (s : State) : Out :=
  gate s p 11 (fun s =>
    let g := (pktWord p 0).toNat
    let owner := (pktWord p 2).toNat
    if pktWord p 1 = 1 then migOwner s g owner
    else if pktWord p 1 = 2 then { s with asked := adel s.asked g }
    else if s.lookups.any (fun l => l.1 == g) then
      flushPath (ocPut { tellOwner s g owner with lookups := s.lookups.filter (fun l => l.1 != g) } g owner) g
    else s)

/-- PKT_ACK (R364). -/
def execPktAck (p : Packet) (s : State) : Out :=
  gate s p 12 (fun s =>
    let g := (pktWord p 0).toNat
    let drop (x : Stub) : Stub := if x.gpn = g then { x with pending := x.pending.filter (fun k => k != p.src.toNat) } else x
    stubCheck { s with stubs := s.stubs.map drop } g)

/-! The message channel (R380). -/

/-- An acknowledgement of everything up to an id. -/
def mack (s : State) (dst rid : Nat) : State := sendPkt s (mkPkt s dst 1 13 rid 0 .none [])

/-- A packet of the message channel arrives (R380): accepted in turn, a duplicate acknowledged again, a newer one discarded. -/
def inTurn (s : State) (p : Packet) (k : State → State) : State :=
  match aget s.vcIn p.src.toNat with
  | none => s
  | some e =>
    if p.rid.toNat = e then k (mack { s with vcIn := aset s.vcIn p.src.toNat ((e + 1) % 65536) } p.src.toNat e)
    else if ridNewer p.rid.toNat e then s
    else mack s p.src.toNat ((e + 65535) % 65536)

/-- PKT_MACK (R380): an acknowledged message is the other package's, and its sender's next ones may go another way (R174). -/
def execPktMack (p : Packet) (s : State) : Out :=
  gate s p 13 (fun s =>
    let dst := p.src.toNat
    let v := vcOf s dst
    let left := v.unacked.filter (fun u => ridNewer u.p.rid.toNat p.rid.toNat)
    if left.length = v.unacked.length then s
    else
      let gone := (v.unacked.filter (fun u => !ridNewer u.p.rid.toNat p.rid.toNat)).map (fun u => u.id)
      let v := { v with unacked := left, synced := v.synced || v.sync, sync := false }
      vcFlush (setVc { s with away := s.away.filter (fun f => !gone.contains f.id) } v) dst (v.waiting.length + 1))

/-- PKT_MSYNC (R380). -/
def execPktMsync (p : Packet) (s : State) : Out :=
  gate s p 19 (fun s => mack { s with vcIn := aset s.vcIn p.src.toNat p.rid.toNat } p.src.toNat p.rid.toNat)

/-- PKT_MSG (R173, R380): the message goes on toward its home, or is turned away (R388). -/
def execPktMsg (p : Packet) (s : State) : Out :=
  gate s p 16 (fun s => inTurn s p (fun s =>
    if !portAdmits s p 3 then respond s p 10 .accessTableDenied p.payload []
    else
      let m := { recordMsg p.payload with pois := !p.badLines.isEmpty }
      let (i, s) := fresh s
      { s with flight := s.flight ++ [ofRecord s i m (srcDom p.srcid)] }))

/-- A gang card that has arrived runs and is acknowledged; none while no job table entry is free (R197, R205). -/
def runCard (s : State) (p : Packet) : Option State :=
  let h := pktWord p 34
  (gangArrive s p.src.toNat h ((List.range 32).map (pktWord p)) (srcDom p.srcid) (pktWord p 32) (pktWord p 33).toNat (p.badLines.any (fun i => decide (i < 4)))).map
    (fun s => vcSend s p.src.toNat 18 p.srcid (word8 h ++ leBytes 24 0))

/-- PKT_GANG (R197, R207): a card runs as a job of its own and is acknowledged, unless its member has by then been declared
unreachable; or a cancellation, of a gang's member (kind 1) or of a job here (kind 2). -/
def execPktGang (p : Packet) (s : State) : Out :=
  gate s p 17 (fun s => inTurn s p (fun s =>
    let src := p.src.toNat
    if !portAdmits s p 3 then bounce s p .accessTableDenied
    else if p.payload.length < 288 then
      if pktWord p 1 = 2 then (cancelHandle s (pktWord p 0)).2
      else match s.jobs.find? (fun y => y.2.parent == some (src, pktWord p 0)) with
        | some (i, _) => (cancelJob s i).2
        | none => s
    else if (pktWord p 35).toNat ≤ now s then s
    else match runCard s p with
      | some s => s
      | none => { s with cards := s.cards ++ [p] }))

/-- The cards that wait take what entries are free, in the order in which they came; one whose member has been declared unreachable
is discarded (R197). -/
def grantCards (s : State) : State :=
  s.cards.foldl (fun s p =>
    if (pktWord p 35).toNat ≤ now s then { s with cards := s.cards.erase p }
    else match runCard s p with
      | some s' => { s' with cards := s'.cards.erase p }
      | none => s) s

/-- PKT_GACK (R197, R206): a member has the card, or has sent its completion. -/
def execPktGack (p : Packet) (s : State) : Out :=
  gate s p 18 (fun s => inTurn s p (fun s =>
    let h := pktWord p 0
    let i := bitsOf h 0 12
    match aget s.jobs i with
    | none => s
    | some j =>
      if jobHandle s i j ≠ h then s
      else if pktWord p 1 = 0 then setMember s i p.src.toNat (fun m => { m with acked := true })
      else gangCheck (setMember s i p.src.toNat (fun m => if m.done then m else { m with acked := true, done := true, ended := (pktWord p 2).toNat })) i))

/-- MESSAGE_RETRANSMIT (R380): from the first packet unacknowledged for 30 µs on, with RT set. -/
def execMessageRetransmit (pkg : BitVec 12) (s : State) : Out :=
  let v := vcOf s pkg.toNat
  let late (u : VcPacket) : Bool := decide (u.last + 30000 ≤ now s)
  let keep := v.unacked.takeWhile (fun u => !late u)
  let again := (v.unacked.dropWhile (fun u => !late u)).map (fun u => { u with p := { u.p with rt := 1, born := bornNow s }, last := now s })
  if again.isEmpty then .next s
  else .next (again.foldl (fun s u => sendPkt s u.p) (setVc s { v with unacked := keep ++ again }))

/-- A message packet given up is reported under the name its original send gave; cards and acknowledgements are dropped
(R380). -/
def giveUpPkt (s : State) (c : Cause) (p : Packet) (id : Nat) : State :=
  if p.type = 16 then
    let f := (s.away.find? (fun f => f.id == id)).getD (ofRecord s id (recordMsg p.payload) (senderDom (recordMsg p.payload)))
    reportSend { s with away := s.away.filter (fun f => f.id != id) } f c
  else s

/-- MESSAGE_GIVE_UP (R380): 1 ms after a first sending, or on a dead path; packets that wait fail with the path (R374). -/
def execMessageGiveUp (pkg : BitVec 12) (s : State) : Out :=
  let dst := pkg.toNat
  let v := vcOf s dst
  let dead := s.deadLinks.contains dst
  if dead ∨ v.unacked.any (fun u => decide (u.first + 1000000 ≤ now s)) then
    let c : Cause := if dead then .linkDead else .remoteTimeout
    -- what waits for a resynchronisation that does not come fails with it
    let lost := if dead ∨ v.sync then v.waiting else []
    let s := setVc s { v with unacked := [], sync := false, synced := false, waiting := if dead ∨ v.sync then [] else v.waiting }
    let s := (v.unacked.map (fun u => (u.p, u.id)) ++ lost).foldl (fun s p => giveUpPkt s c p.1 p.2) s
    .next (if dead then s else vcFlush s dst 1)
  else .next s

/-- REMOTE_ATOMIC_RETRANSMIT (R151): the request goes again with its id and RT set; its deadline is not stated. Of the sources
that use the id, the one whose request was sent longest ago sends again (log 67 DESIGN CHOICE). -/
def execRemoteAtomicRetransmit (pkg : BitVec 12) (rid : BitVec 16) (s : State) : Out :=
  match leastBy (fun a b => decide (a.last < b.last)) (s.reqs.filter (fun q => q.p.type == 2 && q.dst == some pkg.toNat && q.rid == rid.toNat)) with
  | none => .next s
  | some q =>
    let p : Packet := { q.p with rt := 1, born := bornNow s }
    .next (sendPkt { s with reqs := s.reqs.map (fun r => if r.uid = q.uid then { r with p := p, last := now s } else r) } p)

/-- LINK_DEAD (R374): requests whose only path crosses the link fail with `link-dead`, those that wait for an owner's lookup there
too, and so does a migration that pulls from the package; one whose home directory can no longer be reached is refused (R369); the message channel follows at MESSAGE_GIVE_UP. -/
def execLinkDead (pkg : BitVec 12) (s : State) : Out :=
  let k := pkg.toNat
  let s := { s with deadLinks := if s.deadLinks.contains k then s.deadLinks else s.deadLinks ++ [k] }
  let s := (s.reqs.filter (fun q => q.dst == some k)).foldl (fun s q => endReq (reqFail s q .linkDead) q) s
  let s := (s.lookups.filter (fun l => gpnHome l.1 == k)).foldl (fun s l => lookupFail s l.1 .linkDead) s
  let s := (s.asked.filter (fun l => gpnHome l.1 == k)).foldl (fun s l => askFail s l.1) s
  .next ((s.migs.filter (fun m => m.pulling && m.other == k && decide (2 ≤ m.step) && decide (m.step ≤ 4))).foldl (fun s m => migFail s m .linkDead true) s)

/-! Reductions (R382–R385). -/

/-- A slot's answer (R378): RANS. -/
def slotAnswer (s : State) (p : Packet) (ok : Bool) (h : Word) : State :=
  sendPkt s (mkPkt s p.src.toNat 3 23 p.rid.toNat p.srcid (if ok then .none else .reductionSlotUnavailable) (word8 h))

/-- PKT_RESV (R382): the reservation descriptor and MLIST; reservations of other packages are made at privilege U. -/
def execPktResv (p : Packet) (s : State) : Out :=
  gate s p 20 (fun s =>
    let l := p.payload.take 64
    if p.payload.length < 64 ∨ !p.badLines.isEmpty ∨ !slotDescOk l then slotAnswer s p false 0
    else
      let n := bitsOf (wordAt l 0) 24 7
      match slotReserve s (srcDom p.srcid) .u l (elemsOf 2 ((p.payload.drop 64).take (2 * n)) 64) with
      | some (h, s) => slotAnswer s p true h
      | none => slotAnswer s p false 0)

/-- PKT_CONTRIB (R383, R388): each part begins with the handle and its bytes (log 17). -/
def execPktContrib (p : Packet) (s : State) : Out :=
  gate s p 21 (fun s => match joinParts s p with
    | (none, s) => s
    | (some p, s) =>
      if !portAdmits s p 3 then bounce s p .accessTableDenied
      else
        let d := (partsData p).flatMap (fun x => x.2)
        let (ok, s) := slotContrib s p.src.toNat (pktWord p 0) (d.map (fun b => b.1)) d.length (!p.badLines.isEmpty)
        slotAnswer s p ok (pktWord p 0))

/-- PKT_RREL (R385). -/
def execPktRrel (p : Packet) (s : State) : Out :=
  gate s p 22 (fun s =>
    let (ok, s) := slotRelease s (pktWord p 0) (srcDom p.srcid)
    slotAnswer s p ok (pktWord p 0))

/-- PKT_RANS (R383, R385): acceptance or refusal of a contribution or release of this package. -/
def execPktRans (p : Packet) (s : State) : Out :=
  gate s p 23 (fun s =>
    match reqOf s p with
    | none => s
    | some q =>
      let s := if p.cause = 0 then giveData s q [] false else reqFail s q .reductionSlotUnavailable
      endReq s q)

/-! Time (R386, R387). -/

/-- Domains with a partition in the package. -/
def pkgDoms (s : State) : List Nat := (s.cores.filterMap (fun c => c.2.dom)).dedup

/-- Lock lost and reported to every domain of the package (R326, R387). -/
def loseLock (s : State) : State :=
  let s' := { s with cys := { s.cys with locked := false, offsets := [] } }
  (pkgDoms s).foldl (fun s d => reportEvent s d .timeSyncLost (BitVec.ofInt 64 (offsetNs s))) s'

/-- An exchange is complete (R386): the offset, in half nanoseconds, the step or the slew, and lock (R387). -/
def timeOffset (s : State) (t1 t2 t3 t4 : Nat) : State :=
  let i (n : Nat) : Int := Int.ofNat n
  let off := (i t2 - i t1) - (i t4 - i t3)
  let offs := (off :: s.cys.offsets).take 3
  let lock := offs.length = 3 ∧ offs.all (fun o => decide (-20 ≤ o) && decide (o ≤ 20))
  let big := decide (off < -2000) || decide (2000 < off)
  let step := decide (0 < off) && !s.cys.ever
  let was := s.cys.locked
  let f := s.cys.frac + 3500 * off.toNat
  let cys := { s.cys with last := off, offsets := offs, lastExchange := now s, t1 := none, locked := decide lock, ever := s.cys.ever || decide lock,
                          now := if step then s.cys.now + f / 7000 else s.cys.now, frac := if step then f % 7000 else s.cys.frac,
                          slew := if step then 0 else off * 3500 }
  let s := { s with cys := cys }
  if was && big then loseLock s else s

/-- PKT_TIME (R386): a request is answered with the times of its arrival and of the answer; an answer ends the exchange.
Payload: kind, t1, t2, t3. -/
def execPktTime (p : Packet) (s : State) : Out :=
  gate s p 28 (fun s =>
    if pktWord p 0 = 0 then
      sendPkt s (mkPkt s p.src.toNat 4 28 0 0 .none (leBytes 8 1 ++ word8 (pktWord p 1) ++ leBytes 8 (now s) ++ leBytes 8 (now s)))
    else match s.cys.t1 with
      | some (k, t) =>
        if k = p.src.toNat ∧ t = (pktWord p 1).toNat ∧ !s.cys.ref then timeOffset s t (pktWord p 2).toNat (pktWord p 3).toNat (now s) else s
      | none => s)

/-- TIME_EXCHANGE (R386): one begins every 1 ms, but at the reference; one that has not been answered by then is missed. Which
neighbour is the parent is the topology's. -/
def execTimeExchange (parent : BitVec 12) (s : State) : Out :=
  if s.cys.ref ∨ now s < s.cys.asked + 1000000 then .next s
  else
    let s := { s with cys := { s.cys with t1 := some (parent.toNat, now s), asked := now s } }
    .next (sendPkt s (mkPkt s parent.toNat 4 28 0 (srcidOf (duikerSid s)) .none (leBytes 8 0 ++ leBytes 8 (now s) ++ leBytes 16 0)))

/-- TIME_SYNC_LOST (R387): exchanges missed for 10 ms; the reference makes none. -/
def execTimeSyncLost (s : State) : Out :=
  if s.cys.locked ∧ !s.cys.ref ∧ s.cys.lastExchange + 10000000 ≤ now s then .next (loseLock s) else .next s

/-- PKT_MGMT: Duiker traffic, whose content the manual does not give; the state of R9 to R405 is untouched (log 18). -/
def execPktMgmt (p : Packet) (s : State) : Out := gate s p 29 (fun s => s)

/-- A packet that this package addressed to itself, delivered (directory and migration traffic of R359–R365). -/
def loopback (s : State) (p : Packet) : State :=
  let out : Out := match p.type.toNat with
    | 3 => execPktDirq p s
    | 4 => execPktMigrq p s
    | 5 => execPktInval p s
    | 10 => execPktBounce p s
    | 11 => execPktDirans p s
    | 12 => execPktAck p s
    | 0 => execPktRead p s
    | 1 => execPktWrite p s
    | 2 => execPktAtomic p s
    | 8 => execPktData p s
    | 9 => execPktDone p s
    | 13 => execPktMack p s
    | 16 => execPktMsg p s
    | 17 => execPktGang p s
    | 18 => execPktGack p s
    | 19 => execPktMsync p s
    | _ => .next s
  match out with
  | .next s => s
  | _ => s

end Sys2Proof.Machine
end

