-- ==== Sys2Proof/Machine/Crypto.lean ====
section
/-! DEFINITION. The checks of a firmware image that R395 names: SHA-384 (FIPS 180-4), RSA-3072 PSS with MGF1 (RFC 8017), and
SLH-DSA-SHA2-192s (FIPS 205). The manual fixes which they are; what they compute is taken from those standards (log 5). -/

namespace Sys2Proof.Machine

/-! SHA-2. -/

/-- The round constants of SHA-512; those of SHA-256 are the upper halves of the first 64. -/
def shaK : List Nat :=
  [0x428A2F98D728AE22, 0x7137449123EF65CD, 0xB5C0FBCFEC4D3B2F, 0xE9B5DBA58189DBBC,
   0x3956C25BF348B538, 0x59F111F1B605D019, 0x923F82A4AF194F9B, 0xAB1C5ED5DA6D8118,
   0xD807AA98A3030242, 0x12835B0145706FBE, 0x243185BE4EE4B28C, 0x550C7DC3D5FFB4E2,
   0x72BE5D74F27B896F, 0x80DEB1FE3B1696B1, 0x9BDC06A725C71235, 0xC19BF174CF692694,
   0xE49B69C19EF14AD2, 0xEFBE4786384F25E3, 0x0FC19DC68B8CD5B5, 0x240CA1CC77AC9C65] ++
  [0x2DE92C6F592B0275, 0x4A7484AA6EA6E483, 0x5CB0A9DCBD41FBD4, 0x76F988DA831153B5,
   0x983E5152EE66DFAB, 0xA831C66D2DB43210, 0xB00327C898FB213F, 0xBF597FC7BEEF0EE4,
   0xC6E00BF33DA88FC2, 0xD5A79147930AA725, 0x06CA6351E003826F, 0x142929670A0E6E70,
   0x27B70A8546D22FFC, 0x2E1B21385C26C926, 0x4D2C6DFC5AC42AED, 0x53380D139D95B3DF,
   0x650A73548BAF63DE, 0x766A0ABB3C77B2A8, 0x81C2C92E47EDAEE6, 0x92722C851482353B] ++
  [0xA2BFE8A14CF10364, 0xA81A664BBC423001, 0xC24B8B70D0F89791, 0xC76C51A30654BE30,
   0xD192E819D6EF5218, 0xD69906245565A910, 0xF40E35855771202A, 0x106AA07032BBD1B8,
   0x19A4C116B8D2D0C8, 0x1E376C085141AB53, 0x2748774CDF8EEB99, 0x34B0BCB5E19B48A8,
   0x391C0CB3C5C95A63, 0x4ED8AA4AE3418ACB, 0x5B9CCA4F7763E373, 0x682E6FF3D6B2B8A3,
   0x748F82EE5DEFB2FC, 0x78A5636F43172F60, 0x84C87814A1F0AB72, 0x8CC702081A6439EC] ++
  [0x90BEFFFA23631E28, 0xA4506CEBDE82BDE9, 0xBEF9A3F7B2C67915, 0xC67178F2E372532B,
   0xCA273ECEEA26619C, 0xD186B8C721C0C207, 0xEADA7DD6CDE0EB1E, 0xF57D4F7FEE6ED178,
   0x06F067AA72176FBA, 0x0A637DC5A2C898A6, 0x113F9804BEF90DAE, 0x1B710B35131C471B,
   0x28DB77F523047D84, 0x32CAAB7B40C72493, 0x3C9EBE0A15C9BEBC, 0x431D67C49C100D4C,
   0x4CC5D4BECB3E42B6, 0x597F299CFC657E2A, 0x5FCB6FAB3AD6FAEC, 0x6C44198C4A475817]

/-- Initial hash values of SHA-512; those of SHA-256 are their upper halves. -/
def sha512Init : List Nat :=
  [0x6A09E667F3BCC908, 0xBB67AE8584CAA73B, 0x3C6EF372FE94F82B, 0xA54FF53A5F1D36F1,
   0x510E527FADE682D1, 0x9B05688C2B3E6C1F, 0x1F83D9ABFB41BD6B, 0x5BE0CD19137E2179]
/-- Initial hash values of SHA-384. -/
def sha384Init : List Nat :=
  [0xCBBB9D5DC1059ED8, 0x629A292A367CD507, 0x9159015A3070DD17, 0x152FECD8F70E5939,
   0x67332667FFC00B31, 0x8EB44A8768581511, 0xDB0C2E0D64F98FA7, 0x47B5481DBEFA4FA4]

/-- Rotation of a word of `w` bits to the right. -/
def rotR (w n x : Nat) : Nat := (x >>> n) ||| ((x <<< (w - n)) % 2 ^ w)

/-- The four rotation sets of a word size: big sigmas 0 and 1, small sigmas 0 and 1, whose last entry is a shift. -/
def shaSets (w : Nat) : List (Nat × Nat × Nat) :=
  if w = 32 then [(2, 13, 22), (6, 11, 25), (7, 18, 3), (17, 19, 10)] else [(28, 34, 39), (14, 18, 41), (1, 8, 7), (19, 61, 6)]

/-- A big sigma. -/
def shaBig (w i x : Nat) : Nat :=
  let (a, b, c) := ((shaSets w)[i]?).getD (0, 0, 0)
  rotR w a x ^^^ rotR w b x ^^^ rotR w c x
/-- A small sigma. -/
def shaSmall (w i x : Nat) : Nat :=
  let (a, b, c) := ((shaSets w)[i + 2]?).getD (0, 0, 0)
  rotR w a x ^^^ rotR w b x ^^^ (x >>> c)

/-- The message schedule, latest word first, `n` words beyond those given. -/
def shaExpand (w : Nat) (l : List Nat) (n : Nat) : List Nat :=
  match n with
  | 0 => l
  | k + 1 =>
    let g (i : Nat) : Nat := (l[i]?).getD 0
    shaExpand w (((shaSmall w 1 (g 1) + g 6 + shaSmall w 0 (g 14) + g 15) % 2 ^ w) :: l) k

/-- The rounds of a block over pairs of constant and word. -/
def shaRounds (w : Nat) (h : List Nat) (l : List (Nat × Nat)) : List Nat :=
  match l with
  | [] => h
  | (k, x) :: t =>
    match h with
    | [a, b, c, d, e, f, g, v] =>
      let m := 2 ^ w
      let t1 := v + shaBig w 1 e + ((e &&& f) ^^^ ((m - 1 - e) &&& g)) + k + x
      let t2 := shaBig w 0 a + ((a &&& b) ^^^ (a &&& c) ^^^ (b &&& c))
      shaRounds w [(t1 + t2) % m, a, b, c, (d + t1) % m, e, f, g] t
    | _ => h

/-- A big-endian number. -/
def beNat (l : List Byte) : Nat := l.foldl (fun n b => n * 256 + b.toNat) 0
/-- `n` bytes of a number, big-endian. -/
def beBytes (n x : Nat) : List Byte := (leBytes n x).reverse

/-- Words of `n` bytes, big-endian. -/
def beWords (n : Nat) (l : List Byte) (fuel : Nat) : List Nat :=
  match fuel with
  | 0 => []
  | k + 1 => if l.isEmpty then [] else beNat (l.take n) :: beWords n (l.drop n) k

/-- Blocks hashed in turn from a hash value. -/
def shaBlocks (w : Nat) (h : List Nat) (l : List Byte) (fuel : Nat) : List Nat :=
  match fuel with
  | 0 => h
  | k + 1 =>
    if l.isEmpty then h
    else
      let rounds := if w = 32 then 64 else 80
      let ks := if w = 32 then (shaK.take 64).map (fun x => x / 2 ^ 32) else shaK
      let ws := (shaExpand w (beWords (w / 8) (l.take (2 * w)) 16).reverse (rounds - 16)).reverse
      shaBlocks w (List.zipWith (fun a b => (a + b) % 2 ^ w) h (shaRounds w h (ks.zip ws))) (l.drop (2 * w)) k

/-- A message padded to whole blocks with its length in bits. -/
def shaPad (w : Nat) (l : List Byte) : List Byte :=
  let n := l.length + 1 + w / 4
  l ++ 0x80#8 :: List.replicate ((2 * w - n % (2 * w)) % (2 * w)) 0#8 ++ beBytes (w / 4) (8 * l.length)

/-- A hash of the family: word size, initial value, bytes of the result. -/
def sha2 (w : Nat) (init : List Nat) (n : Nat) (l : List Byte) : List Byte :=
  let p := shaPad w l
  ((shaBlocks w init p (p.length / (2 * w) + 1)).flatMap (beBytes (w / 8))).take n

/-- SHA-256. -/
def sha256 (l : List Byte) : List Byte := sha2 32 (sha512Init.map (fun x => x / 2 ^ 32)) 32 l
/-- SHA-512. -/
def sha512 (l : List Byte) : List Byte := sha2 64 sha512Init 64 l
/-- SHA-384, as bytes. -/
def sha384Bytes (l : List Byte) : List Byte := sha2 64 sha384Init 48 l
/-- SHA-384 as a number, its first byte the most significant. -/
def sha384 (l : List Byte) : BitVec 384 := BitVec.ofNat 384 (beNat (sha384Bytes l))

/-- The mask generation function MGF1 of a hash, `n` bytes long. -/
def mgf1 (hash : List Byte → List Byte) (seed : List Byte) (n : Nat) : List Byte :=
  ((List.range (n / 32 + 1)).flatMap (fun i => hash (seed ++ beBytes 4 i))).take n

/-! RSA-3072 PSS (R395): exponent 65,537, SHA-384 for both hashes, a salt of 48 bytes. -/

/-- `x` to the power of two to the `n`, modulo `m`. -/
def sqrMod (m x n : Nat) : Nat :=
  match n with
  | 0 => x
  | k + 1 => sqrMod m (x * x % m) k

/-- The signature is valid for the signed bytes under a modulus of 384 bytes. -/
def rsaPssOk (key signed sig : List Byte) : Bool :=
  let m := beNat key
  let g := beNat sig
  let em := beBytes 384 (sqrMod m (g % m) 16 * g % m)
  let (masked, h) := (em.take 335, (em.drop 335).take 48)
  let db := List.zipWith (fun a b => a ^^^ b) masked (mgf1 sha384Bytes h 335)
  let db := db.take 1 |>.map (fun b => b &&& 0x7F#8) |>.append (db.drop 1)
  decide (g < m) && sig.length == 384 && em.getLast? == some 0xBC#8 && ((em[0]?).getD 0).toNat < 128 &&
    (db.take 286).all (fun b => b == 0) && db[286]? == some 1#8 &&
    sha384Bytes (List.replicate 8 0#8 ++ sha384Bytes signed ++ db.drop 287) == h

/-! SLH-DSA-SHA2-192s (FIPS 205): n = 24, h = 63, d = 7, trees of height 9, 17 FORS trees of height 14, Winternitz parameter 16. -/

/-- A hash address as SHA-2 takes it: layer, tree, type, and three words. -/
structure Adrs where
  layer : Nat
  tree : Nat
  type : Nat
  w1 : Nat
  w2 : Nat
  w3 : Nat
deriving DecidableEq, Repr

/-- Its 22 bytes. -/
def Adrs.bytes (a : Adrs) : List Byte :=
  beBytes 1 a.layer ++ beBytes 8 a.tree ++ beBytes 1 a.type ++ beBytes 4 a.w1 ++ beBytes 4 a.w2 ++ beBytes 4 a.w3

/-- The function F, of one value. -/
def slhF (seed : List Byte) (a : Adrs) (x : List Byte) : List Byte := (sha256 (seed ++ List.replicate 40 0#8 ++ a.bytes ++ x)).take 24
/-- The functions H and T, of two or more values joined. -/
def slhT (seed : List Byte) (a : Adrs) (x : List Byte) : List Byte := (sha512 (seed ++ List.replicate 104 0#8 ++ a.bytes ++ x)).take 24

/-- `n` digits of `b` bits from the front of a byte string. -/
def slhDigits (b n : Nat) (l : List Byte) : List Nat :=
  let bits := 8 * l.length
  (List.range n).map (fun i => beNat l / 2 ^ (bits - b * (i + 1)) % 2 ^ b)

/-- A chain from step `i`, `n` steps long. -/
def slhChain (seed : List Byte) (a : Adrs) (x : List Byte) (i n : Nat) : List Byte :=
  match n with
  | 0 => x
  | k + 1 => slhChain seed a (slhF seed { a with w3 := i } x) (i + 1) k

/-- `n` bytes of a string at index `i`. -/
def sliceOf (l : List Byte) (n i : Nat) : List Byte := (l.drop (n * i)).take n

/-- A root from a leaf's value and its authentication path: index `i` at height `h`, `base` the index of the tree's first node. -/
def slhRoot (seed : List Byte) (a : Adrs) (path : List Byte) (h i base : Nat) (x : List Byte) (n : Nat) : List Byte :=
  match n with
  | 0 => x
  | k + 1 =>
    let a := { a with w2 := h + 1, w3 := (base + i) / 2 }
    let y := path.take 24
    slhRoot seed a (path.drop 24) (h + 1) (i / 2) (base / 2) (slhT seed a (if i % 2 = 0 then x ++ y else y ++ x)) k

/-- The WOTS+ public key that a signature of 51 chains gives for a message. -/
def slhWots (seed : List Byte) (layer tree leaf : Nat) (sig msg : List Byte) : List Byte :=
  let d := slhDigits 4 48 msg
  let sum := d.foldl (fun n x => n + (15 - x)) 0
  let d := d ++ slhDigits 4 3 (beBytes 2 (sum * 16))
  let ends := d.zipIdx.flatMap (fun x => slhChain seed ⟨layer, tree, 0, leaf, x.2, 0⟩ (sliceOf sig 24 x.2) x.1 (15 - x.1))
  slhT seed ⟨layer, tree, 1, leaf, 0, 0⟩ ends

/-- The root of the hypertree that the signature's layers give, `n` of them left. -/
def slhTree (seed : List Byte) (layer tree leaf : Nat) (sig node : List Byte) (n : Nat) : List Byte :=
  match n with
  | 0 => node
  | k + 1 =>
    let pk := slhWots seed layer tree leaf (sig.take 1224) node
    let root := slhRoot seed ⟨layer, tree, 2, 0, 0, 0⟩ ((sig.drop 1224).take 216) 0 leaf 0 pk 9
    slhTree seed (layer + 1) (tree / 512) (tree % 512) (sig.drop 1440) root k

/-- The FORS public key that a signature gives for a digest of 30 bytes. -/
def slhFors (seed : List Byte) (tree leaf : Nat) (sig md : List Byte) : List Byte :=
  let roots := (slhDigits 14 17 md).zipIdx.flatMap (fun x =>
    let one := sliceOf sig 360 x.2
    let base := x.2 * 2 ^ 14
    let node := slhF seed ⟨0, tree, 3, leaf, 0, base + x.1⟩ (one.take 24)
    slhRoot seed ⟨0, tree, 3, leaf, 0, 0⟩ (one.drop 24) 0 x.1 base node 14)
  slhT seed ⟨0, tree, 4, leaf, 0, 0⟩ roots

/-- The signature of 16,224 bytes is valid for the signed bytes, with the empty context, under a public key of 48 bytes. -/
def slhDsaOk (key signed sig : List Byte) : Bool :=
  let (seed, root) := (key.take 24, key.drop 24)
  let r := sig.take 24
  let dig := mgf1 sha512 (r ++ seed ++ sha512 (r ++ seed ++ root ++ [0#8, 0#8] ++ signed)) 39
  let tree := beNat ((dig.drop 30).take 7) % 2 ^ 54
  let leaf := beNat ((dig.drop 37).take 2) % 2 ^ 9
  let pk := slhFors seed tree leaf ((sig.drop 24).take 6120) (dig.take 30)
  sig.length == 16224 && slhTree seed 0 tree leaf (sig.drop 6144) pk 7 == root

end Sys2Proof.Machine
end

