-- ==== Sys2Proof/Machine/Platform.lean ====
section
/-! DEFINITION. Boot and power (R10, R393–R397), BAR0 and its mailbox (R398–R401), the host's memory window (R390), sensors
(R402), bubbles (R403), and unit failures (R326, R392). -/

namespace Sys2Proof.Machine

/-! The memory window (R390). -/

/-- The page-frame address and the domain of an offset in BAR4; none when its aperture is unmapped. -/
def barPlace (s : State) (off : Nat) : Option (Nat × Nat) :=
  let w := (aget s.bar4ap (off / 2 ^ 30)).getD 0
  if off < 2 ^ 36 ∧ w.getLsbD 63 then some (bitsOf w 30 18 * 2 ^ 30 + off % 2 ^ 30, bitsOf w 0 8) else none

/-- The identity of the host acting for a domain (R23, R178). -/
def hostSid (s : State) (dom : Nat) : Word := sidOf s.pkg 0 0 0 0 dom 2

/-- The lines that a host access touches, with their domains. -/
def barLines (s : State) (off n : Nat) : List (Nat × Nat) :=
  ((rangeFrom off n).filterMap (fun o => (barPlace s o).map (fun p => (p.1 / 64, p.2)))).dedup

/-- One byte of a host read: memory; all ones of an unmapped aperture; a byte that no rule states where the access table
refuses the read or no memory is there (log 20). -/
def barByte (s : State) (off : Nat) : Byte × Bool :=
  match barPlace s off with
  | none => (0xFF, false)
  | some (pa, dom) =>
    if (accessBits s 7 0 dom).getLsbD 0 && frameExists s pa then (memRead s.mem pa, linePois s (pa / 64) != 0)
    else (Config.freeSpadByte s.free off, false)

/-- HOST_BAR4_READ (R390): served at the home slices; a data error is reported to the aperture's domain (R135, R389). -/
def execHostBar4Read (off size : Nat) (s : State) : Out :=
  if !s.powered then .next s
  else
    let s := (barLines s off size).foldl (fun s x =>
      if (accessBits s 7 0 x.2).getLsbD 0 && frameExists s (64 * x.1) then
        let (_, e, s) := homeRead s x.1
        reportDataOpt s x.2 (hostSid s x.2) e 0 (BitVec.ofNat 64 (64 * x.1))
      else s) s
    .next { s with barData := (rangeFrom off size).map (barByte s), free := s.free + 1 }

/-- HOST_BAR4_WRITE (R390): lands at its home slices as one write of each line (R134, R389). -/
def execHostBar4Write (off : Nat) (data : List Byte) (s : State) : Out :=
  if !s.powered then .next s
  else
    let ls := barLines s off data.length
    let bad (x : Nat × Nat) : Bool := !((accessBits s 7 0 x.2).getLsbD 1 && frameExists s (64 * x.1))
    let s' := (ls.filter bad).foldl (fun s x => logEvent s (hostSid s x.2) .accessTableDenied (64 * x.1)) s
    .next ((splitBar off data data.length).foldl (fun s p =>
      match barPlace s p.1 with
      | none => s
      | some (pa, dom) =>
        if bad (pa / 64, dom) then s
        else
          let (s, e) := landBytes s none (.mem pa) (p.2.map (fun b => some (b, false)))
          reportDataOpt s dom (hostSid s dom) e 0 (BitVec.ofNat 64 pa)) s')
where
  /-- The write cut at 64-byte lines. -/
  splitBar (off : Nat) (l : List Byte) (fuel : Nat) : List (Nat × List Byte) :=
    match fuel with
    | 0 => []
    | k + 1 =>
      match l with
      | [] => []
      | _ :: _ => (off, l.take (64 - off % 64)) :: splitBar (off + (64 - off % 64)) (l.drop (64 - off % 64)) k

/-! Boot (R393–R397). -/

/-- The value F of the anti-rollback counter (R396). -/
def fuseValue (s : State) : Nat := Config.fuses.toNat + s.boot.blown

/-- The layout of an image (R394, R395): MAGIC, LEN, the bytes received, zero bytes and bits. -/
def imageLayoutOk (l : List Byte) : Bool :=
  let magic : List Byte := [0x53, 0x56, 0x5A, 0x4A, 0x51, 0x46, 0x57, 0x31]
  let len := (wordAt l 2).toNat
  decide (512 ≤ l.length) && l.take 8 == magic && decide (len % 64 = 0) && decide (512 + len + 384 + 16224 ≤ l.length) &&
    bitsOf (wordAt l 1) 6 58 == 0 && ((l.drop 456).take 56).all (fun b => b == 0)

/-- The SVN of an image. -/
def imageSvn (l : List Byte) : Nat := bitsOf (wordAt l 1) 0 6

/-- The check of a stage, 3 to 6, on the received bytes: the CAUSE of its failure, or none (R393–R396). -/
def stageCause (f stage : Nat) (l : List Byte) : Option Nat :=
  let len := (wordAt l 2).toNat
  let rsapk := (l.drop 24).take 384
  let slhpk := (l.drop 408).take 48
  let signed := l.take (512 + len)
  match stage with
  | 3 =>
    if !imageLayoutOk l then some 2
    else if sha384 rsapk ≠ Config.rsaFuse ∨ sha384 slhpk ≠ Config.slhFuse then some 6 else none
  | 4 => if rsaPssOk rsapk signed ((l.drop (512 + len)).take 384) then none else some 3
  | 5 => if slhDsaOk slhpk signed ((l.drop (896 + len)).take 16224) then none else some 4
  | _ => if imageSvn l < f then some 5 else none

/-- Duiker's strand entered at the body (R393 stage 7, log 5). -/
def enterFirmware (s : State) : State :=
  let (u, s) := fresh s
  let sid := strandSid s ⟨duikerId, 0⟩ 0
  let (t, s) := bareStrand s u 0 .h Config.firmwareEntry (scalarsFrom [Config.firmwareEntry, 0, sid]) 0 0 0 (.pattern 0 0)
  setStrand s ⟨duikerId, 0⟩ t

/-- A failure of stage 1 or 2: retried after 10 s with CAUSE 1 (R393). -/
def bootNetFail (s : State) (stage : Nat) : State :=
  { s with boot := { s.boot with stage := stage, cause := 1, next := now s + 10000000000, got := none } }

/-- An attempt of the boot from stage 1 (R393): with a lease and a URL, Duiker is in stage 2. -/
def bootTry (s : State) (net : BootInput) : State :=
  if net.lease && net.url then { s with boot := { s.boot with stage := 2, cause := 0, got := some net } } else bootNetFail s 1

/-- One stage of the boot, 2 to 6, done (R393): Duiker is in the next one, or halts, or tries again later. -/
def bootStage (s : State) : State :=
  match s.boot.stage, s.boot.got with
  | 2, none => s
  | 2, some net =>
    (match net.image with
     | none => bootNetFail s 2
     | some l =>
       if 2 ^ 24 < l.length then bootNetFail s 2
       else { s with boot := { s.boot with stage := 3, image := l, svn := imageSvn l, got := none } })
  | n, _ =>
    if n < 3 ∨ 6 < n then s
    else match stageCause (fuseValue s) n s.boot.image with
      | some c => { s with boot := { s.boot with cause := c, halted := true } }
      | none => let s := { s with boot := { s.boot with stage := n + 1 } }; if n = 6 then enterFirmware s else s

/-- The firmware reports ready (R393 stage 8), and the fuses are blown up to the image's SVN (R396). -/
def bootReady (s : State) : State :=
  if s.powered ∧ s.boot.stage = 7 then
    let f := fuseValue s
    { s with boot := { s.boot with stage := 8, blown := s.boot.blown + (s.boot.svn - f) } }
  else s

/-- POWER_ON (R10, R393): nothing but the fuses, the host and the package number outlasts an absence of power. -/
def execPowerOn (net : BootInput) (s : State) : Out :=
  if s.powered then .next (if s.boot.stage = 1 ∧ s.boot.cause = 0 then bootTry s net else s)
  else
    let r := State.reset
    .next (bootTry { r with pkg := s.pkg, hostMem := s.hostMem, boot := { r.boot with blown := s.boot.blown },
                            agenda := s.agenda, uid := s.uid, free := s.free } net)

/-- BOOT_RETRY (R393). -/
def execBootRetry (net : BootInput) (s : State) : Out :=
  .next (if s.powered ∧ s.boot.stage ≤ 2 ∧ s.boot.halted = false ∧ s.boot.got = none ∧ s.boot.next ≤ now s then bootTry s net else s)

/-- POWER_REMOVAL (R10). -/
def execPowerRemoval (s : State) : Out :=
  let r := State.reset
  .next { r with powered := false, pkg := s.pkg, hostMem := s.hostMem, boot := { r.boot with blown := s.boot.blown },
                 agenda := s.agenda, uid := s.uid, free := s.free }

/-- The boot starts again from stage 1 (R397): every strand ends unsaved, every core is reset (R104), no access is allowed
(R393). What the manual does not name stays or is as after power-on as log 21 lists. -/
def restart (s : State) : State :=
  let r := State.reset
  { r with pkg := s.pkg, cys := s.cys, mem := s.mem, memPois := s.memPois, memBad := s.memBad, hostMem := s.hostMem,
           bar4ap := s.bar4ap, evlog := s.evlog, evseq := s.evseq, sensors := s.sensors, sensorTime := s.sensorTime,
           msix := s.msix, deadLinks := s.deadLinks, boot := { r.boot with blown := s.boot.blown, next := now s },
           barData := s.barData, agenda := s.agenda, uid := s.uid, free := s.free }

/-- What Duiker does next of its own: a restart that it has answered (R400), or a stage of the boot. -/
def bootStep (s : State) : State :=
  if !s.powered ∨ s.boot.halted ∧ !s.boot.again then s else if s.boot.again then restart s else bootStage s

/-- A device found at a CXL port, once the firmware sets the ports up (R391, R393 stage 7): used when it is of the supported kind,
else left unused and logged. -/
def cxlFound (s : State) (port cap : Nat) (ok : Bool) : State :=
  if !s.powered ∨ s.boot.stage < 7 ∨ 7 < port ∨ s.cxl.any (fun d => d.1 == port) then s
  else if ok then { s with cxl := sortBy (fun a b => decide (a.1 < b.1)) (s.cxl ++ [(port, cap)]) }
  else logEvent s (duikerSid s) .none port

/-! BAR0 (R398–R401). -/

/-- STATUS (R398). -/
def bootStatus (s : State) : Word := BitVec.ofNat 64 (s.boot.stage * 2 ^ 56 + s.boot.cause % 256 * 2 ^ 48 + s.boot.svn % 64)

/-- The 64 bytes of an event record (R401). -/
def recBytes (e : EvRec) : List Byte :=
  leBytes 8 e.time ++ word8 e.who ++ leBytes 8 e.cause.toNat ++ leBytes 32 e.data.toNat ++ leBytes 8 e.seq

/-- A doubleword of the event log mirror: record SEQ lies at place SEQ − 1 mod 16,384 (log 22). -/
def mirrorWord (s : State) (i : Nat) : Word :=
  match s.evlog.find? (fun e => (e.seq - 1) % 16384 == i / 8) with
  | some e => wordAt (recBytes e) (i % 8)
  | none => 0

/-- What a host read of a doubleword of BAR0 gives (R398). -/
def bar0Read (s : State) (off : Nat) : Word :=
  if off = 0 then bootStatus s
  else if 0x140 ≤ off ∧ off < 0x180 then s.mboxRep.extractLsb' (8 * (off - 0x140) / 64 * 64) 64
  else if 0x100000 ≤ off ∧ off < 0x200000 then mirrorWord s ((off - 0x100000) / 8)
  else 0

/-- DOORBELL (R326, R398); a halted Duiker answers only the mailbox (R393). -/
def execDoorbell (dom : Nat) (v : Word) (s : State) : Out :=
  .next (if s.powered ∧ s.boot.halted = false ∧ dom < 256 then reportEvent s dom .hostSignal v else s)

/-- Doubleword `i` of a request. -/
def reqWord (q : BitVec 512) (i : Nat) : Word := q.extractLsb' (64 * i) 64

/-- A reply (R400). -/
def mboxReply (s : State) (status op : Nat) (result : Word) : State :=
  let w0 : Word := BitVec.ofNat 64 (op * 65536 + status)
  let done : Word := 1#64 <<< 63
  let z : Word := 0
  { s with mboxRep := done ++ z ++ z ++ z ++ z ++ BitVec.ofNat 64 (now s) ++ result ++ w0, mboxBusy := false }

/-- A refused request (R399, R400). -/
def mboxRefuse (s : State) (op : Nat) : State := mboxReply s (0x8000 + causeCode .operandRange) op 0

/-- The sensor word of an index (R400, R402). Before the first sample the reading is a value that no rule states. -/
def sensorWord (s : State) (i : Nat) : Word :=
  let unit := if i < 256 then 1 else if i % 2 = 0 then 2 else 3
  let age := (now s - s.sensorTime) / 1000
  let v := match s.sensors[i]? with
    | some v => v.toNat
    | none => bitsOf (Config.freeWord s.free) 0 32
  BitVec.ofNat 64 (unit * 2 ^ 56 + (if 0xFFFF < age then 0xFFFF else age) * 2 ^ 32 + v)

/-- The debug-halt target of a request (R347, R399): well formed, with HALT set. -/
def haltTargetOk (s : State) (w : Word) : Bool :=
  bitsOf w 52 12 == s.pkg && w &&& preemptZero == 0 && decide (bitsOf w 46 4 ≤ 9) && w.getLsbD 22

/-- Duiker answers a request (R399, R400). The sensor index is read in word 1, because word 0 [7:0] is the opcode
(log 23). A RESTART is answered first, and the boot restarts in the next step. -/
def mboxServe (s : State) (q : BitVec 512) : State :=
  let w := reqWord q 0
  let op := bitsOf w 0 8
  let arg := reqWord q 1
  if s.boot.again then s
  else if s.boot.halted ∧ op ≠ 1 then mboxRefuse s op
  else match op with
    | 1 => let s := mboxReply s 0 1 0; { s with boot := { s.boot with again := true } }
    | 2 => mboxReply (reportEvent s (bitsOf w 8 8) .managementRequest arg) 0 2 0
    | 3 => if haltTargetOk s arg then let (d, s) := preemptAct s arg; mboxReply s 0 3 d else mboxRefuse s 3
    | 4 => if bitsOf w 8 12 = s.pkg then mboxRefuse s 4 else mboxReply (declareDead s (bitsOf w 8 12)) 0 4 0
    | 5 => if bitsOf arg 0 16 ≤ 335 then mboxReply { s with free := s.free + 1 } 0 5 (sensorWord s (bitsOf arg 0 16)) else mboxRefuse s 5
    | _ => mboxRefuse s op

/-- A request posted (R399, R400): the reply area is cleared; one posted while the previous has no complete reply is
discarded and logged. -/
def mboxPost (s : State) (q : BitVec 512) : State :=
  if !s.powered then s
  else if s.mboxBusy then logEvent s (duikerSid s) .none (reqWord q 0).toNat
  else { s with mboxReq := q, mboxRep := 0, mboxBusy := true }

/-- A mailbox row: a request already posted is answered, another is posted and, when Duiker is free, answered. -/
def mailbox (q : BitVec 512) (s : State) : Out :=
  if !s.powered then .next s
  else if s.mboxBusy then .next (if s.mboxReq = q then mboxServe s q else mboxPost s q)
  else .next (mboxServe (mboxPost s q) q)

/-- R397, R399. -/
def execMailboxRestart (req : BitVec 512) (s : State) : Out := mailbox req s
/-- R399. -/
def execMailboxManagementRequest (req : BitVec 512) (s : State) : Out := mailbox req s
/-- R399. -/
def execMailboxDebugHalt (req : BitVec 512) (s : State) : Out := mailbox req s
/-- R399. -/
def execMailboxDeclareDead (req : BitVec 512) (s : State) : Out := mailbox req s
/-- R399. -/
def execMailboxReadSensor (req : BitVec 512) (s : State) : Out := mailbox req s
/-- R399. -/
def execMailboxRequestRefused (req : BitVec 512) (s : State) : Out := mailbox req s

/-! Sensors, bubbles and failures (R326, R392, R402, R403). -/

/-- The compute cores and the Markhor of a cluster. -/
def clusterCores (d k : Nat) : List CoreId := (List.range 16).map (computeId d k) ++ [⟨.markhor, d, k, 0⟩]

/-- The domains with cores in a cluster. -/
def clusterDoms (s : State) (d k : Nat) : List Nat := ((clusterCores d k).filterMap (fun c => (getCore s c).dom)).dedup

/-- PKG, DIE and CLUS in the places of R23. -/
def clusterPlaces (s : State) (d k : Nat) : Nat := s.pkg * 2 ^ 52 + d * 2 ^ 50 + k * 2 ^ 46

/-- A sensor of a core's cluster read at or above 105 °C when it was last sampled: the cluster's bubble ratio stays forced
(R402, log 62). -/
def forcedHot (s : State) (c : CoreId) : Bool :=
  decide (c.kind = .compute ∨ c.kind = .markhor) &&
  (List.range 64).any (fun n => match s.sensors[64 * c.die + n]? with
    | some v => decide (105 * 16 ≤ v.toInt) && Config.sensorCluster (64 * c.die + n) % 10 == c.clus
    | none => false)

/-- The thermal limits on one sensor (R402); readings in 1/16 °C, signed. -/
def thermal (s : State) (i : Nat) (v : BitVec 32) : State :=
  let d := i / 64
  let k := Config.sensorCluster i % 10
  let doms := clusterDoms s d k
  let s :=
    if 105 * 16 ≤ v.toInt then
      let s := (clusterCores d k).foldl (fun s c => updCore s c (fun x => { x with bubble := 15 })) s
      doms.foldl (fun s dom => reportEvent s dom .thermalLimit (BitVec.ofNat 64 (clusterPlaces s d k + i))) s
    else s
  if 115 * 16 ≤ v.toInt ∧ (clusterCores d k).any (fun c => !(getCore s c).failed) then
    let s := (clusterCores d k).foldl failCore s
    let code := bitsOf (Config.freeWord s.free) 0 24
    doms.foldl (fun s dom => reportEvent s dom .machineCheck (BitVec.ofNat 64 (clusterPlaces s d k + code)))
      { s with free := s.free + 1 }
  else s

/-- SENSOR_SAMPLE (R402): every 100 µs. -/
def execSensorSample (readings : List (BitVec 32)) (s : State) : Out :=
  if !s.powered || (!s.sensors.isEmpty && decide (now s < s.sensorTime + 100000)) then .next s
  else
    let s := { s with sensors := readings.take 336, sensorTime := now s }
    .next ((List.range 256).foldl (fun s i => match readings[i]? with
      | some v => thermal s i v
      | none => s) s)

/-- BUBBLE_RATIO_UPDATE (R403), once every 1 µs: raised by an amount that no rule states when a measure passes its limit, else lowered by 1;
a ratio that R402 forces stays. -/
def execBubbleRatioUpdate (c : CoreId) (hot : Bool) (s : State) : Out :=
  let b := (getCore s c).bubble
  let up := b + 1 + bitsOf (Config.freeWord s.free) 0 4
  let t := now s / 1000 + 1
  .next (if (getCore s c).bubbleSet = t ∨ forcedHot s c then s
         else if hot then updCore { s with free := s.free + 1 } c (fun k => { k with bubble := if 15 < up then 15 else up, bubbleSet := t })
         else updCore s c (fun k => { k with bubble := b - 1, bubbleSet := t }))

/-- MACHINE_CHECK (R326): reported to the domains with cores in the unit's cluster, or to every domain of the package when
the unit lies in none. -/
def execMachineCheck (unit : Word) (s : State) : Out :=
  let (d, k) := (bitsOf unit 50 2, bitsOf unit 46 4)
  let doms := if k ≤ 9 then clusterDoms s d k else pkgDoms s
  .next (doms.foldl (fun s dom => reportEvent s dom .machineCheck unit) s)

/-- CXL_READ_TIMEOUT (R392): the line of the capacity tier reaches its requester poisoned with an error (R135). -/
def execCxlReadTimeout (line : Nat) (s : State) : Out :=
  .next (if 0x8000000000 ≤ 64 * line ∧ frameExists s (64 * line) then { s with memBad := aset s.memBad line false } else s)

end Sys2Proof.Machine
end

