-- ==== Sys2Proof/Machine/Dispatch.lean ====
section
/-! DEFINITION. One arm per row: the meaning it calls. -/

namespace Sys2Proof.Machine

def exec (i : Instr) (s : State) : Host.Outcome State Fault Refusal :=
  match i with
  | .nop => Sys2Proof.Machine.execNop s
  | .done => Sys2Proof.Machine.execDone s
  | .pause => Sys2Proof.Machine.execPause s
  | .trap code => Sys2Proof.Machine.execTrap code s
  | .brk code => Sys2Proof.Machine.execBrk code s
  | .eret a => Sys2Proof.Machine.execEret a s
  | .csrr r csr => Sys2Proof.Machine.execCsrr r csr s
  | .csrw r csr => Sys2Proof.Machine.execCsrw r csr s
  | .csrs r csr => Sys2Proof.Machine.execCsrs r csr s
  | .csrc r csr => Sys2Proof.Machine.execCsrc r csr s
  | .idle => Sys2Proof.Machine.execIdle s
  | .ftrim v a t => Sys2Proof.Machine.execFtrim v a t s
  | .br off => Sys2Proof.Machine.execBr off s
  | .call off => Sys2Proof.Machine.execCall off s
  | .bc a cc off => Sys2Proof.Machine.execBc a cc off s
  | .jr a => Sys2Proof.Machine.execJr a s
  | .jal d a => Sys2Proof.Machine.execJal d a s
  | .safept tmask lmask smask vmask => Sys2Proof.Machine.execSafept tmask lmask smask vmask s
  | .add d a b => Sys2Proof.Machine.execAdd d a b s
  | .sub d a b => Sys2Proof.Machine.execSub d a b s
  | .and d a b => Sys2Proof.Machine.execAnd d a b s
  | .or d a b => Sys2Proof.Machine.execOr d a b s
  | .xor d a b => Sys2Proof.Machine.execXor d a b s
  | .andn d a b => Sys2Proof.Machine.execAndn d a b s
  | .shl d a b => Sys2Proof.Machine.execShl d a b s
  | .shr d a b => Sys2Proof.Machine.execShr d a b s
  | .sar d a b => Sys2Proof.Machine.execSar d a b s
  | .ror d a b => Sys2Proof.Machine.execRor d a b s
  | .mul d a b => Sys2Proof.Machine.execMul d a b s
  | .mulh d a b => Sys2Proof.Machine.execMulh d a b s
  | .mulhn d a b => Sys2Proof.Machine.execMulhn d a b s
  | .min d a b => Sys2Proof.Machine.execMin d a b s
  | .max d a b => Sys2Proof.Machine.execMax d a b s
  | .minn d a b => Sys2Proof.Machine.execMinn d a b s
  | .maxn d a b => Sys2Proof.Machine.execMaxn d a b s
  | .slt d a b => Sys2Proof.Machine.execSlt d a b s
  | .sltn d a b => Sys2Proof.Machine.execSltn d a b s
  | .seq d a b => Sys2Proof.Machine.execSeq d a b s
  | .clz d a => Sys2Proof.Machine.execClz d a s
  | .ctz d a => Sys2Proof.Machine.execCtz d a s
  | .popc d a => Sys2Proof.Machine.execPopc d a s
  | .bfx d a b => Sys2Proof.Machine.execBfx d a b s
  | .bfi d a b => Sys2Proof.Machine.execBfi d a b s
  | .div d a b la => Sys2Proof.Machine.execDiv d a b la s
  | .divn d a b la => Sys2Proof.Machine.execDivn d a b la s
  | .rem d a b la => Sys2Proof.Machine.execRem d a b la s
  | .remn d a b la => Sys2Proof.Machine.execRemn d a b la s
  | .addi d a imm => Sys2Proof.Machine.execAddi d a imm s
  | .addiLiteral d a lit => Sys2Proof.Machine.execAddiLiteral d a lit s
  | .andi d a imm => Sys2Proof.Machine.execAndi d a imm s
  | .andiLiteral d a lit => Sys2Proof.Machine.execAndiLiteral d a lit s
  | .ori d a imm => Sys2Proof.Machine.execOri d a imm s
  | .oriLiteral d a lit => Sys2Proof.Machine.execOriLiteral d a lit s
  | .xori d a imm => Sys2Proof.Machine.execXori d a imm s
  | .xoriLiteral d a lit => Sys2Proof.Machine.execXoriLiteral d a lit s
  | .shli d a amt => Sys2Proof.Machine.execShli d a amt s
  | .shri d a amt => Sys2Proof.Machine.execShri d a amt s
  | .sari d a amt => Sys2Proof.Machine.execSari d a amt s
  | .li d imm => Sys2Proof.Machine.execLi d imm s
  | .liLiteral d lit => Sys2Proof.Machine.execLiLiteral d lit s
  | .addpc d imm => Sys2Proof.Machine.execAddpc d imm s
  | .addpcLiteral d lit => Sys2Proof.Machine.execAddpcLiteral d lit s
  | .ld d a ty off la => Sys2Proof.Machine.execLd d a ty off la s
  | .st d a ty off => Sys2Proof.Machine.execSt d a ty off s
  | .pref a ty off => Sys2Proof.Machine.execPref a ty off s
  | .ldacq d a size scope off => Sys2Proof.Machine.execLdacq d a size scope off s
  | .strel d a size scope off => Sys2Proof.Machine.execStrel d a size scope off s
  | .fence kind scope => Sys2Proof.Machine.execFence kind scope s
  | .amoAdd d a b c scope size nr la => Sys2Proof.Machine.execAmoAdd d a b c scope size nr la s
  | .amoMin d a b c scope size nr la => Sys2Proof.Machine.execAmoMin d a b c scope size nr la s
  | .amoMinn d a b c scope size nr la => Sys2Proof.Machine.execAmoMinn d a b c scope size nr la s
  | .amoMax d a b c scope size nr la => Sys2Proof.Machine.execAmoMax d a b c scope size nr la s
  | .amoMaxn d a b c scope size nr la => Sys2Proof.Machine.execAmoMaxn d a b c scope size nr la s
  | .amoAnd d a b c scope size nr la => Sys2Proof.Machine.execAmoAnd d a b c scope size nr la s
  | .amoOr d a b c scope size nr la => Sys2Proof.Machine.execAmoOr d a b c scope size nr la s
  | .amoXor d a b c scope size nr la => Sys2Proof.Machine.execAmoXor d a b c scope size nr la s
  | .amoExch d a b c scope size nr la => Sys2Proof.Machine.execAmoExch d a b c scope size nr la s
  | .amoCas d a b c scope size nr la => Sys2Proof.Machine.execAmoCas d a b c scope size nr la s
  | .amoFadd d a b c scope size nr la => Sys2Proof.Machine.execAmoFadd d a b c scope size nr la s
  | .amoFmin d a b c scope size nr la => Sys2Proof.Machine.execAmoFmin d a b c scope size nr la s
  | .amoFmax d a b c scope size nr la => Sys2Proof.Machine.execAmoFmax d a b c scope size nr la s
  | .amoIns d a b c scope size nr la => Sys2Proof.Machine.execAmoIns d a b c scope size nr la s
  | .amoFfcs d a b c scope size nr la => Sys2Proof.Machine.execAmoFfcs d a b c scope size nr la s
  | .amoPset d a b c scope size nr la => Sys2Proof.Machine.execAmoPset d a b c scope size nr la s
  | .send a b => Sys2Proof.Machine.execSend a b s
  | .sendc a b => Sys2Proof.Machine.execSendc a b s
  | .chnew d a => Sys2Proof.Machine.execChnew d a s
  | .chfree a => Sys2Proof.Machine.execChfree a s
  | .chbind a b => Sys2Proof.Machine.execChbind a b s
  | .patadd d a => Sys2Proof.Machine.execPatadd d a s
  | .patdel a b => Sys2Proof.Machine.execPatdel a b s
  | .chstat d a => Sys2Proof.Machine.execChstat d a s
  | .chmove d a b => Sys2Proof.Machine.execChmove d a b s
  | .spawn d a => Sys2Proof.Machine.execSpawn d a s
  | .gang d a => Sys2Proof.Machine.execGang d a s
  | .jstat d a => Sys2Proof.Machine.execJstat d a s
  | .jcancel d a => Sys2Proof.Machine.execJcancel d a s
  | .tnow d => Sys2Proof.Machine.execTnow d s
  | .tlwait k b => Sys2Proof.Machine.execTlwait k b s
  | .tlread d k sel => Sys2Proof.Machine.execTlread d k sel s
  | .waitany d a => Sys2Proof.Machine.execWaitany d a s
  | .waitall a => Sys2Proof.Machine.execWaitall a s
  | .tagfirst d a => Sys2Proof.Machine.execTagfirst d a s
  | .tagclr a => Sys2Proof.Machine.execTagclr a s
  | .tagrd d sel => Sys2Proof.Machine.execTagrd d sel s
  | .vadd d a b p z => Sys2Proof.Machine.execVadd d a b p z s
  | .vsub d a b p z => Sys2Proof.Machine.execVsub d a b p z s
  | .vmul d a b p z => Sys2Proof.Machine.execVmul d a b p z s
  | .vfma d a b p z => Sys2Proof.Machine.execVfma d a b p z s
  | .vmin d a b p z => Sys2Proof.Machine.execVmin d a b p z s
  | .vmax d a b p z => Sys2Proof.Machine.execVmax d a b p z s
  | .vabs d a p z => Sys2Proof.Machine.execVabs d a p z s
  | .vneg d a p z => Sys2Proof.Machine.execVneg d a p z s
  | .vand d a b p z => Sys2Proof.Machine.execVand d a b p z s
  | .vor d a b p z => Sys2Proof.Machine.execVor d a b p z s
  | .vxor d a b p z => Sys2Proof.Machine.execVxor d a b p z s
  | .vshl d a b p z => Sys2Proof.Machine.execVshl d a b p z s
  | .vshr d a b p z => Sys2Proof.Machine.execVshr d a b p z s
  | .vceq d a b p z => Sys2Proof.Machine.execVceq d a b p z s
  | .vclt d a b p z => Sys2Proof.Machine.execVclt d a b p z s
  | .vcle d a b p z => Sys2Proof.Machine.execVcle d a b p z s
  | .vsel d a b p => Sys2Proof.Machine.execVsel d a b p s
  | .vdiv d a b p z => Sys2Proof.Machine.execVdiv d a b p z s
  | .vrcp d a p z => Sys2Proof.Machine.execVrcp d a p z s
  | .vrsq d a p z => Sys2Proof.Machine.execVrsq d a p z s
  | .vexp2 d a p z => Sys2Proof.Machine.execVexp2 d a p z s
  | .vdot d a b p z => Sys2Proof.Machine.execVdot d a b p z s
  | .vperm d a b p z => Sys2Proof.Machine.execVperm d a b p z s
  | .vbcast d a code p z => Sys2Proof.Machine.execVbcast d a code p z s
  | .vredadd d a p => Sys2Proof.Machine.execVredadd d a p s
  | .vredmax d a p => Sys2Proof.Machine.execVredmax d a p s
  | .vredmin d a p => Sys2Proof.Machine.execVredmin d a p s
  | .vins d a b => Sys2Proof.Machine.execVins d a b s
  | .vext d a b => Sys2Proof.Machine.execVext d a b s
  | .vcvt d a p z tag rm sl sat => Sys2Proof.Machine.execVcvt d a p z tag rm sl sat s
  | .vtag d a tag => Sys2Proof.Machine.execVtag d a tag s
  | .vwid d a b p z sl bs => Sys2Proof.Machine.execVwid d a b p z sl bs s
  | .vnar d a b p z tag sl bs => Sys2Proof.Machine.execVnar d a b p z tag sl bs s
  | .vscl d a p tag sl bs ef => Sys2Proof.Machine.execVscl d a p tag sl bs ef s
  | .vld d a p z tag off la => Sys2Proof.Machine.execVld d a p z tag off la s
  | .vst d a p off => Sys2Proof.Machine.execVst d a p off s
  | .vgath d a b p z tag scl off la => Sys2Proof.Machine.execVgath d a b p z tag scl off la s
  | .vscat d a b p scl off => Sys2Proof.Machine.execVscat d a b p scl off s
  | .pand d a b => Sys2Proof.Machine.execPand d a b s
  | .por d a b => Sys2Proof.Machine.execPor d a b s
  | .pnot d a => Sys2Proof.Machine.execPnot d a s
  | .pcnt d a => Sys2Proof.Machine.execPcnt d a s
  | .pfirst d a => Sys2Proof.Machine.execPfirst d a s
  | .pset d a => Sys2Proof.Machine.execPset d a s
  | .tmma d a b c e fa fb sc q => Sys2Proof.Machine.execTmma d a b c e fa fb sc q s
  | .tzero d fa q => Sys2Proof.Machine.execTzero d fa q s
  | .tst d a c fa sat q => Sys2Proof.Machine.execTst d a c fa sat q s
  | .tscl d a col q => Sys2Proof.Machine.execTscl d a col q s
  | .tget d a b => Sys2Proof.Machine.execTget d a b s
  | .tset d a b bc => Sys2Proof.Machine.execTset d a b bc s
  | .lbld d a b fmt mode pol q => Sys2Proof.Machine.execLbld d a b fmt mode pol q s
  | .lmm d a b c fmt nt q => Sys2Proof.Machine.execLmm d a b c fmt nt q s
  | .linv d q => Sys2Proof.Machine.execLinv d q s
  | .lstat d b sel => Sys2Proof.Machine.execLstat d b sel s
  | .lrbld d q => Sys2Proof.Machine.execLrbld d q s
  | .cp d a b c x => Sys2Proof.Machine.execCp d a b c x s
  | .cp2d d a b c x => Sys2Proof.Machine.execCp2d d a b c x s
  | .cp3d d a b c x => Sys2Proof.Machine.execCp3d d a b c x s
  | .cpm d a b c x nm => Sys2Proof.Machine.execCpm d a b c x nm s
  | .cpredK0 d a b c x op size => Sys2Proof.Machine.execCpredK0 d a b c x op size s
  | .cpredK1 d a x op size => Sys2Proof.Machine.execCpredK1 d a x op size s
  | .cpredK2 d a b c x op size => Sys2Proof.Machine.execCpredK2 d a b c x op size s
  | .cpredK3 d b x op size => Sys2Proof.Machine.execCpredK3 d b x op size s
  | .cpfill d a b c x => Sys2Proof.Machine.execCpfill d a b c x s
  | .cpsigIrq d a x => Sys2Proof.Machine.execCpsigIrq d a x s
  | .cpsigMsg d a b x => Sys2Proof.Machine.execCpsigMsg d a b x s
  | .cpcan d a strm => Sys2Proof.Machine.execCpcan d a strm s
  | .cpq d strm => Sys2Proof.Machine.execCpq d strm s
  | .cpat d a b c x afn size => Sys2Proof.Machine.execCpat d a b c x afn size s
  | .tlbwInstall d a b => Sys2Proof.Machine.execTlbwInstall d a b s
  | .tlbwSetMissChannel d a b => Sys2Proof.Machine.execTlbwSetMissChannel d a b s
  | .tlbinv a b => Sys2Proof.Machine.execTlbinv a b s
  | .tlbinva a => Sys2Proof.Machine.execTlbinva a s
  | .pgmig d a b => Sys2Proof.Machine.execPgmig d a b s
  | .ownq d a => Sys2Proof.Machine.execOwnq d a s
  | .stubq d a => Sys2Proof.Machine.execStubq d a s
  | .rfc d a b => Sys2Proof.Machine.execRfc d a b s
  | .fresume d a => Sys2Proof.Machine.execFresume d a s
  | .actw d a b => Sys2Proof.Machine.execActw d a b s
  | .partwAssign d a b => Sys2Proof.Machine.execPartwAssign d a b s
  | .partwWithdraw d a b => Sys2Proof.Machine.execPartwWithdraw d a b s
  | .partwSetWord d a b => Sys2Proof.Machine.execPartwSetWord d a b s
  | .filtw d a b => Sys2Proof.Machine.execFiltw d a b s
  | .ctxsave d a b => Sys2Proof.Machine.execCtxsave d a b s
  | .ctxload d a b => Sys2Proof.Machine.execCtxload d a b s
  | .preempt d a => Sys2Proof.Machine.execPreempt d a s
  | .preemptHalt d a => Sys2Proof.Machine.execPreemptHalt d a s
  | .tsyncStatus d a b => Sys2Proof.Machine.execTsyncStatus d a b s
  | .tsyncSetReference d a b => Sys2Proof.Machine.execTsyncSetReference d a b s
  | .tsyncSetTime d a b => Sys2Proof.Machine.execTsyncSetTime d a b s
  | .icacheLineFill c line => Sys2Proof.Machine.execIcacheLineFill c line s
  | .lookaheadOpenerComplete r id => Sys2Proof.Machine.execLookaheadOpenerComplete r id s
  | .storeArrival seq => Sys2Proof.Machine.execStoreArrival seq s
  | .atomicExecute seq => Sys2Proof.Machine.execAtomicExecute seq s
  | .runAheadEnd r => Sys2Proof.Machine.execRunAheadEnd r s
  | .trapSlotGrant r => Sys2Proof.Machine.execTrapSlotGrant r s
  | .recordWriteRetry r => Sys2Proof.Machine.execRecordWriteRetry r s
  | .messageArrival id => Sys2Proof.Machine.execMessageArrival id s
  | .matchDecision c => Sys2Proof.Machine.execMatchDecision c s
  | .admission c => Sys2Proof.Machine.execAdmission c s
  | .strandRelease r => Sys2Proof.Machine.execStrandRelease r s
  | .ringRefill c h => Sys2Proof.Machine.execRingRefill c h s
  | .ringReadRetry c h => Sys2Proof.Machine.execRingReadRetry c h s
  | .forwardingEntryExpiry c h => Sys2Proof.Machine.execForwardingEntryExpiry c h s
  | .spilledRecordApply c h => Sys2Proof.Machine.execSpilledRecordApply c h s
  | .hostChannelSend off size data => Sys2Proof.Machine.execHostChannelSend off size data s
  | .hostBar4Read off size => Sys2Proof.Machine.execHostBar4Read off size s
  | .hostBar4Write off data => Sys2Proof.Machine.execHostBar4Write off data s
  | .doorbell dom v => Sys2Proof.Machine.execDoorbell dom v s
  | .mailboxRestart req => Sys2Proof.Machine.execMailboxRestart req s
  | .mailboxManagementRequest req => Sys2Proof.Machine.execMailboxManagementRequest req s
  | .mailboxDebugHalt req => Sys2Proof.Machine.execMailboxDebugHalt req s
  | .mailboxDeclareDead req => Sys2Proof.Machine.execMailboxDeclareDead req s
  | .mailboxReadSensor req => Sys2Proof.Machine.execMailboxReadSensor req s
  | .jobStart j => Sys2Proof.Machine.execJobStart j s
  | .chunkDeal j c => Sys2Proof.Machine.execChunkDeal j c s
  | .launchItemOffer c => Sys2Proof.Machine.execLaunchItemOffer c s
  | .itemEnd uid => Sys2Proof.Machine.execItemEnd uid s
  | .gangMemberUnreachable j pkg => Sys2Proof.Machine.execGangMemberUnreachable j pkg s
  | .partitionWordApply c => Sys2Proof.Machine.execPartitionWordApply c s
  | .unitWithdrawal c => Sys2Proof.Machine.execUnitWithdrawal c s
  | .preemptForceTimeout r => Sys2Proof.Machine.execPreemptForceTimeout r s
  | .strandSave r => Sys2Proof.Machine.execStrandSave r s
  | .strandRestore c => Sys2Proof.Machine.execStrandRestore c s
  | .debugHalt r => Sys2Proof.Machine.execDebugHalt r s
  | .timerExpiry dom => Sys2Proof.Machine.execTimerExpiry dom s
  | .idleTimeout r => Sys2Proof.Machine.execIdleTimeout r s
  | .pauseEnd r => Sys2Proof.Machine.execPauseEnd r s
  | .tagWaitGrant c => Sys2Proof.Machine.execTagWaitGrant c s
  | .fenceTicketGrant r => Sys2Proof.Machine.execFenceTicketGrant r s
  | .fenceTicketTimeout r => Sys2Proof.Machine.execFenceTicketTimeout r s
  | .copyBlock c strm num member block => Sys2Proof.Machine.execCopyBlock c strm num member block s
  | .copyComplete c strm num => Sys2Proof.Machine.execCopyComplete c strm num s
  | .copyFaultTimeout c strm num => Sys2Proof.Machine.execCopyFaultTimeout c strm num s
  | .cpsigSignal c strm num => Sys2Proof.Machine.execCpsigSignal c strm num s
  | .remoteTimeout c strm num => Sys2Proof.Machine.execRemoteTimeout c strm num s
  | .dteStep c => Sys2Proof.Machine.execDteStep c s
  | .dteComplete c => Sys2Proof.Machine.execDteComplete c s
  | .kuduStep c => Sys2Proof.Machine.execKuduStep c s
  | .kuduComplete c => Sys2Proof.Machine.execKuduComplete c s
  | .tlbMissTimeout die clus token => Sys2Proof.Machine.execTlbMissTimeout die clus token s
  | .frozenPageTimeout gpn => Sys2Proof.Machine.execFrozenPageTimeout gpn s
  | .ownerLookupTimeout gpn => Sys2Proof.Machine.execOwnerLookupTimeout gpn s
  | .stubHeldTimeout gpn => Sys2Proof.Machine.execStubHeldTimeout gpn s
  | .stubQuietExpiry gpn => Sys2Proof.Machine.execStubQuietExpiry gpn s
  | .linkDead pkg => Sys2Proof.Machine.execLinkDead pkg s
  | .messageRetransmit pkg => Sys2Proof.Machine.execMessageRetransmit pkg s
  | .messageGiveUp pkg => Sys2Proof.Machine.execMessageGiveUp pkg s
  | .remoteAtomicRetransmit pkg rid => Sys2Proof.Machine.execRemoteAtomicRetransmit pkg rid s
  | .pktRead p => Sys2Proof.Machine.execPktRead p s
  | .pktWrite p => Sys2Proof.Machine.execPktWrite p s
  | .pktAtomic p => Sys2Proof.Machine.execPktAtomic p s
  | .pktDirq p => Sys2Proof.Machine.execPktDirq p s
  | .pktMigrq p => Sys2Proof.Machine.execPktMigrq p s
  | .pktInval p => Sys2Proof.Machine.execPktInval p s
  | .pktData p => Sys2Proof.Machine.execPktData p s
  | .pktDone p => Sys2Proof.Machine.execPktDone p s
  | .pktBounce p => Sys2Proof.Machine.execPktBounce p s
  | .pktDirans p => Sys2Proof.Machine.execPktDirans p s
  | .pktAck p => Sys2Proof.Machine.execPktAck p s
  | .pktMack p => Sys2Proof.Machine.execPktMack p s
  | .pktMsg p => Sys2Proof.Machine.execPktMsg p s
  | .pktGang p => Sys2Proof.Machine.execPktGang p s
  | .pktGack p => Sys2Proof.Machine.execPktGack p s
  | .pktMsync p => Sys2Proof.Machine.execPktMsync p s
  | .pktResv p => Sys2Proof.Machine.execPktResv p s
  | .pktContrib p => Sys2Proof.Machine.execPktContrib p s
  | .pktRrel p => Sys2Proof.Machine.execPktRrel p s
  | .pktRans p => Sys2Proof.Machine.execPktRans p s
  | .pktTime p => Sys2Proof.Machine.execPktTime p s
  | .pktMgmt p => Sys2Proof.Machine.execPktMgmt p s
  | .reductionTimeout slot => Sys2Proof.Machine.execReductionTimeout slot s
  | .timeExchange parent => Sys2Proof.Machine.execTimeExchange parent s
  | .timeSyncLost => Sys2Proof.Machine.execTimeSyncLost s
  | .sensorSample readings => Sys2Proof.Machine.execSensorSample readings s
  | .bubbleRatioUpdate c hot => Sys2Proof.Machine.execBubbleRatioUpdate c hot s
  | .machineCheck unit => Sys2Proof.Machine.execMachineCheck unit s
  | .cxlReadTimeout line => Sys2Proof.Machine.execCxlReadTimeout line s
  | .powerOn net => Sys2Proof.Machine.execPowerOn net s
  | .bootRetry net => Sys2Proof.Machine.execBootRetry net s
  | .powerRemoval => Sys2Proof.Machine.execPowerRemoval s
  | .illegalMajor w0 why => Sys2Proof.Machine.execIllegalMajor w0 why s
  | .fetchFault why addr => Sys2Proof.Machine.execFetchFault why addr s
  | .mailboxRequestRefused req => Sys2Proof.Machine.execMailboxRequestRefused req s

end Sys2Proof.Machine
end

