-- ==== Sys2Proof/Machine/Fetch.lean ====
section
/-! DEFINITION. Instruction fetch (R80–R83, R93), issue selection (R103, R104), and what happens next. -/

namespace Sys2Proof.Machine

/-- Offsets of the marked starts of a line (R80), from offset `o`. -/
def startsFrom (l : List Byte) (o : Nat) (fuel : Nat) : List Nat :=
  match fuel with
  | 0 => []
  | k + 1 => if 64 ≤ o then [] else o :: startsFrom l (o + lenBytes (fLen (word32At (l.drop o) 0))) k

/-- The offset is a marked start of the line. -/
def isStart (l : List Byte) (o : Nat) : Bool := (startsFrom l 0 16).contains o

/-- A core of this kind lacks the major (R25). -/
def lacksMajor (k : CoreKind) (m : Nat) : Bool :=
  k != .compute && (m == 0x1C || (decide (0x20 ≤ m) && decide (m ≤ 0x24)) || m == 0x28 || m == 0x29 || m == 0x2A)

/-- The place of a fetch: page-frame address, a stop, or a miss (R82). -/
inductive FetchAt where
  | at_ (pa : Nat)
  | fault (c : Cause)
  | miss
  | hole (pa : Nat)
deriving DecidableEq, Repr

/-- The translation of a fetch (R82, R353–R355). -/
def fetchXlate (s : State) (r : StrandRef) (t : Strand) (va : Word) : FetchAt × State :=
  let vu := va.toNat / 65536
  if 2 ^ 56 ≤ va.toNat then (.fault .fetchFault, s)
  else if t.absent.contains vu then (.fault .pageNotPresent, s)
  else match tlbLookup s (strandAgent r t) vu with
    | none => if t.shadow.isSome || r.core.kind != .compute then (.fault .pageNotPresent, s) else (.miss, s)
    | some (e, s) =>
      if e.loc = 2 then (.fault .pageNotPresent, s)
      else if privNum t.priv < e.priv ∨ e.x = false then (.fault .permissionExecute, s)
      else if e.loc = 1 then (.fault .pageNotLocal, s)
      else let pa := paOf e va; if frameExists s pa then (.at_ pa, s) else (.hole pa, s)

/-- The hardware breakpoint of the domain that the address matches (R340). -/
def bkptHit (s : State) (dom : Nat) (pc : Word) : Option Nat :=
  let d := getDom s dom
  (List.range 4).find? (fun n => match d.bkpt[n]? with
    | some w => w.getLsbD 0 && w.toNat / 4 == pc.toNat / 4
    | none => false)

/-- What happens next: a row to execute, or a state reached without one. -/
inductive Up where
  | exec (i : Instr) (s : State)
  | state (s : State)
  | stop (f : Fault)
deriving DecidableEq, Repr

/-- The pc is no marked start of the line's bytes (R80, R81): not a multiple of 4, or not marked. -/
def notStart (bytes : List Byte) (pc : Word) (off : Nat) : Bool := decide (pc.toNat % 4 ≠ 0) || !isStart bytes off

/-- Fetch and decode at the strand's pc (R80–R82, R93 items 1 to 7), with hardware breakpoints before decoding; in run-ahead
they do not match (log 63). -/
def fetchUp (s : State) (r : StrandRef) (t : Strand) (again : State) : Up :=
  match fetchXlate s r t t.pc with
  | (.hole pa, _) => .stop (.noFrame pa)
  | (.fault c, s) => .exec (.fetchFault c t.pc) s
  | (.miss, s) =>
    match startMiss s r.core.die r.core.clus t.dom (strandSid s r t.dom) t.pc 3 none with
    | (some tok, s) => .state (waitStrand s r t (.miss tok))
    | (none, s) => .state (updStrand s r (fun t => { t with absent := (t.pc.toNat / 65536) :: t.absent, since := s.cycle + 1 }))
  | (.at_ pa, s) =>
    match aget (getCore s r.core).icache (pa / 64) with
    | none => .exec (.icacheLineFill r.core (pa / 64)) again
    | some ln =>
      let bytes := leBytes 64 ln.toNat
      let off := pa % 64
      if notStart bytes t.pc off then .exec (.fetchFault .notInstructionStart t.pc) s
      else
        let l := bytes.drop off
        let w0 := word32At l 0
        if 64 < off + lenBytes (fLen w0) then
          (match t.shadow with
           | some _ => .state (endShadow s r t)
           | none => .state (raiseTrap s r t (trapReq s .lineCrossing 0 0 t.pc t.pc w0)))
        else match (if t.skipBp || t.shadow.isSome then none else bkptHit s t.dom t.pc) with
          | some n => .state (raiseTrap s r t (trapReq s .breakpoint (BitVec.ofNat 64 (0x400 + n)) 0 t.pc t.pc w0))
          | none =>
            if lacksMajor r.core.kind (fMaj w0).toNat then .exec (.illegalMajor w0 .illegalMajor) s
            else match decode l with
              | .error e => .exec (.illegalMajor w0 e) s
              | .ok (i, _) => .exec i s

/-- The strand chosen in this cycle issues; one that is no longer ready does not. -/
def issueTurn (s : State) (r : StrandRef) (again : State) : Up :=
  let s := { s with cur := r }
  match getStrand s r with
  | none => .state s
  | some t => if t.status = .ready then fetchUp s r t { again with cur := r } else .state s


end Sys2Proof.Machine
end

