-- ==== Sys2Proof/Machine/Sched.lean ====
section
/-! DEFINITION. What happens next (R18, R103–R105, R404, log 1): the agenda's head, else a strand chosen in this cycle, else
a new cycle, in which every device does what it can. -/

namespace Sys2Proof.Machine

/-! Time (R4, R386). -/

/-- A cycle of 4/7 ns, in parts of 1/7000 ns, slewed by up to 1,000 ppm until the offset is zero. -/
def advance (s : State) : State :=
  let adj : Int := if 4 ≤ s.cys.slew then 4 else if s.cys.slew ≤ -4 then -4 else s.cys.slew
  let f := s.cys.frac + (4000 + adj).toNat
  { s with cycle := s.cycle + 1,
           cys := { s.cys with now := s.cys.now + f / 7000, frac := f % 7000, slew := s.cys.slew - adj } }

/-- The cycle that ends counts for the engine steps under way, unless it was a bubble (R403, R404). -/
def tickEngines (s : State) : State :=
  let tick (q : EngCmd) : EngCmd := { q with left := q.left - 1 }
  { s with cores := s.cores.map (fun x =>
      (x.1, if x.2.bubble ≤ s.cycle % 16 then { x.2 with dteq := x.2.dteq.map tick, kuduq := x.2.kuduq.map tick } else x.2)) }

/-! Issue selection (R95, R103, R104). -/

/-- Where a strand's next instruction stands: to be fetched (its line, if it translates), or a pipe, true the vector/engine
pipe, with the instruction where the word is one. -/
inductive Peek where
  | line (ln : Nat)
  | miss
  | pipe (v : Bool) (i : Option Instr)
deriving DecidableEq, Repr

/-- The next instruction of a strand (R95, R103, R104): one that ends in a fault of items 1 to 7 of R93 competes for the scalar
pipe, one of items 8 and 9 for the pipe of its major. -/
def peek (s : State) (r : StrandRef) (t : Strand) : Peek :=
  match fetchXlate s r t t.pc with
  | (.hole _, _) => .pipe false none
  | (.fault _, _) => .pipe false none
  | (.miss, _) => .miss
  | (.at_ pa, _) =>
    match aget (getCore s r.core).icache (pa / 64) with
    | none => .line (pa / 64)
    | some ln =>
      let bytes := leBytes 64 ln.toNat
      let off := pa % 64
      if notStart bytes t.pc off then .pipe false none
      else
        let l := bytes.drop off
        let w0 := word32At l 0
        if 64 < off + lenBytes (fLen w0) ∨ lacksMajor r.core.kind (fMaj w0).toNat then .pipe false none
        else match decode l with
          | .error (.lookaheadMisuse _) => .pipe (vectorPipe w0) none
          | .error (.reservedLate _ _) => .pipe (vectorPipe w0) none
          | .error _ => .pipe false none
          | .ok (i, _) => .pipe (vectorPipe w0) (some i)

/-- The core may issue in this cycle: powered, past the boot or Duiker (R393), not failed (R10), no bubble (R403). -/
def coreRuns (s : State) (c : CoreId) (k : Core) : Bool :=
  s.powered && !k.failed && (s.boot.stage == 8 || c.kind == .duiker) && decide (k.bubble ≤ s.cycle % 16)

/-- The strands of a core that no wait and no spacing holds back; a strand whose save is due waits for it (R333). -/
def unheld (s : State) (c : CoreId) (k : Core) : List (StrandRef × Strand) :=
  (k.strands.map (fun y => ((⟨c, y.1⟩ : StrandRef), y.2))).filter (fun y =>
    y.2.status == .ready && decide (y.2.readyAt ≤ s.cycle) && !(y.2.saveNow && y.2.preq.isSome))

/-- Fields of an atomic (R147): A, SCOPE, double, NR, LA. -/
def amoFields (i : Instr) : Option (BitVec 5 × Nat × Bool × BitVec 1 × BitVec 4) :=
  match i with
  | .amoAdd _ a _ _ sc z nr la | .amoMin _ a _ _ sc z nr la | .amoMinn _ a _ _ sc z nr la | .amoMax _ a _ _ sc z nr la
  | .amoMaxn _ a _ _ sc z nr la | .amoAnd _ a _ _ sc z nr la | .amoOr _ a _ _ sc z nr la | .amoXor _ a _ _ sc z nr la
  | .amoExch _ a _ _ sc z nr la | .amoCas _ a _ _ sc z nr la | .amoFadd _ a _ _ sc z nr la | .amoFmin _ a _ _ sc z nr la
  | .amoFmax _ a _ _ sc z nr la | .amoIns _ a _ _ sc z nr la | .amoFfcs _ a _ _ sc z nr la | .amoPset _ a _ _ sc z nr la =>
    some (a, sc.toNat, z == 1, nr, la)
  | _ => none

/-- LA of an opener form that is no atomic (R96), 0 for every other instruction. -/
def openerLa (i : Instr) : BitVec 4 :=
  match i with
  | .ld _ _ _ _ la | .div _ _ _ la | .divn _ _ _ la | .rem _ _ _ la | .remn _ _ _ la | .vld _ _ _ _ _ _ la | .vgath _ _ _ _ _ _ _ _ la => la
  | _ => 0

/-- The queue, place or engine that the instruction waits for before it issues (R98, R103, R119, R132, R181, R210, R245, R282,
R284, R306, R307). -/
def unitHolds (s : State) (r : StrandRef) (t : Strand) (i : Instr) : Bool :=
  let k := getCore s r.core
  let strm (x : CopyAttr) : Bool := decide (64 ≤ (k.copies.filter (fun q => q.strm == x.strm.toNat)).length)
  match i with
  | .st _ _ _ _ | .strel _ _ _ _ _ | .vst _ _ _ _ | .vscat _ _ _ _ _ _ => decide (32 ≤ outstanding s t.uid)
  | .send _ _ | .sendc _ _ => decide (16 ≤ unaccepted s t.uid)
  | .tmma _ _ _ _ _ _ _ _ _ | .tzero _ _ _ | .tst _ _ _ _ _ _ | .tscl _ _ _ _ => decide (16 ≤ k.dteq.length)
  | .lbld _ _ _ _ _ _ _ | .lmm _ _ _ _ _ _ _ | .linv _ _ | .lrbld _ _ => decide (16 ≤ k.kuduq.length)
  | .ftrim v a n => decide (v.toNat ≤ t.r.v.length) && decide (a.toNat ≤ t.tiles.length) && decide (n.toNat ≤ t.tabs.length) &&
      engNames k t.uid (rangeFrom a.toNat (t.tiles.length - a.toNat)) (rangeFrom n.toNat (t.tabs.length - n.toNat)) true
  | .tget _ a _ => engNames k t.uid [a.toNat] [] false
  | .tset d _ _ _ => engNames k t.uid [d.toNat] [] false
  | .lstat _ b _ => engNames k t.uid [] [b.toNat] false
  | .cp _ _ _ _ x | .cp2d _ _ _ _ x | .cp3d _ _ _ _ x | .cpm _ _ _ _ x _ | .cpredK0 _ _ _ _ x _ _ | .cpredK1 _ _ x _ _
  | .cpredK2 _ _ _ _ x _ _ | .cpredK3 _ _ x _ _ | .cpfill _ _ _ _ x | .cpsigIrq _ _ x | .cpsigMsg _ _ _ x | .cpat _ _ _ _ x _ _ => strm x
  | _ => match amoFields i with
    | some (_, _, _, nr, la) => if nr = 1 then decide (32 ≤ outstanding s t.uid) else la != 0 && decide (8 ≤ t.openers.length)
    | none => openerLa i != 0 && decide (8 ≤ t.openers.length)

/-- The strand is not ready for its next instruction (R97, R100, R103, R257). -/
def holdsBack (s : State) (r : StrandRef) (t : Strand) (i : Instr) : Bool :=
  t.openers.any (fun o => !o.isOpen) || ((need i).closes && !t.openers.isEmpty) || !readable t.lat i s.cycle ||
  (t.shadow.isNone && unitHolds s r t i)

/-- The ready strands of a core with their pipes (R103). -/
def readyOf (s : State) (c : CoreId) (k : Core) : List (StrandRef × Strand × Bool) :=
  (unheld s c k).filterMap (fun y => match peek s y.1 y.2 with
    | .pipe v (some i) => if holdsBack s y.1 y.2 i then none else some (y.1, y.2, v)
    | .pipe v none => if y.2.openers.any (fun o => !o.isOpen) then none else some (y.1, y.2, v)
    | _ => none)

/-- A strand's pipe takes an instruction in this cycle: the vector/engine pipe only when no instruction occupies it (R257). -/
def pipeOpen (s : State) (k : Core) (y : StrandRef × Strand × Bool) : Bool := !y.2.2 || decide (k.pipeFree ≤ s.cycle)

/-- The strand that a guard cycle serves: the one that has been ready longest (R104). -/
def guardPick (l : List (StrandRef × Strand × Bool)) : Option (StrandRef × Strand × Bool) :=
  leastBy (fun a b => lexLt [a.2.1.since, a.1.slot] [b.2.1.since, b.1.slot]) l

/-- The picks of R104 among ready strands with their pipes. -/
def picks (guard : Bool) (l : List (StrandRef × Strand × Bool)) : List StrandRef :=
  let rank (y : StrandRef × Strand × Bool) : List Nat := [7 - y.2.1.prio, y.2.1.since, y.1.slot]
  let g := if guard then guardPick l else none
  let rest := l.filter (fun y => match g with | some x => y.1 != x.1 | none => true)
  let best (v : Bool) : List StrandRef :=
    if (match g with | some x => x.2.2 == v | none => false) then []
    else match leastBy (fun a b => lexLt (rank a) (rank b)) (rest.filter (fun y => y.2.2 == v)) with
      | some w => [w.1]
      | none => []
  (match g with | some x => [x.1] | none => []) ++ best false ++ best true

/-- The strands that a core issues in this cycle. A strand that needs the vector/engine pipe while an instruction occupies it is
not chosen and keeps its ready-since; where it is the one that a guard cycle serves, that pick is made once the pipe is free,
as after a bubble (R104, R105, R404, log 70). -/
def coreTurn (s : State) (c : CoreId) (k : Core) : List StrandRef :=
  if coreRuns s c k then
    let l := readyOf s c k
    picks (k.guardDue && (match guardPick l with | some g => pipeOpen s k g | none => false)) (l.filter (pipeOpen s k))
  else []

/-- A guard cycle falls due: the counter's bits [5:0] are zero (R104). -/
def markGuards (s : State) : State :=
  if s.cycle % 64 = 0 then { s with cores := s.cores.map (fun x => (x.1, { x.2 with guardDue := true })) } else s

/-- A guard cycle is over once its pick was made, or no strand was ready; a bubble, or an occupied pipe, moves it (R104, R404). -/
def settleGuards (s : State) : State :=
  { s with cores := s.cores.map (fun x => (x.1,
      let l := readyOf s x.1 x.2
      let waits := decide (s.cycle % 16 < x.2.bubble) ||
        (coreRuns s x.1 x.2 && (match guardPick l with | some g => !pipeOpen s x.2 g | none => false))
      if x.2.guardDue && !waits then { x.2 with guardDue := false } else x.2)) }

/-! Waits that end without a row (R103). -/

/-- What a strand waits for has come. -/
def waitOver (s : State) (r : StrandRef) (t : Strand) (w : Wait) : Bool :=
  let k := getCore s r.core
  match w with
  | .openers => if t.inside then readsDone s t else t.openers.all (fun o => o.isOpen)
  | .stores => decide (outstanding s t.uid < 32)
  | .writes => t.openers.isEmpty && !s.pend.any (fun p => p.uid == t.uid)
  | .sends => decide (unaccepted s t.uid < 16)
  | .queue q => if q = 4 then decide (k.dteq.length < 16) else if q = 5 then decide (k.kuduq.length < 16)
                else decide ((k.copies.filter (fun x => x.strm == q)).length < 64)
  | .engine ts ls trim => !engNames k t.uid ts ls trim
  | .timeline i n => decide (n ≤ (tlOf k i).value)
  | .fence sc => belowDone s r.core t.uid s.uid t.openers sc
  | .ticket _ _ => t.ticket.isSome
  | .miss _ | .pause _ | .idle _ | .tags _ _ _ _ _ | .answer _ | .partition | .job _ _ _ _ _ => false

/-- The state of a meaning that never stops. -/
def outState (s : State) (o : Out) : State := match o with | .next s' => s' | _ => s

/-- Divisions that are due write their results (R101, R107). -/
def endDivs (s : State) : State :=
  (allStrands s).foldl (fun s y => y.2.openers.foldl (fun s o => match o.work with
    | .div _ _ due => if due ≤ s.cycle then outState s (execLookaheadOpenerComplete y.1 o.id s) else s
    | _ => s) s) s

/-- Waits that are over make their strands ready; a `pause` or an `idle` that ends is complete (R103, R116, R330). -/
def endWaits (s : State) : State :=
  (allStrands s).foldl (fun s y => match y.2.status with
    | .waiting (.pause _) => outState s (execPauseEnd y.1 s)
    | .waiting (.job _ _ _ _ _) => jobGrant s y.1 y.2
    | .waiting (.idle till) => if till ≤ s.cycle then outState s (execIdleTimeout y.1 s) else s
    | .waiting w => if waitOver s y.1 y.2 w then setStrand s y.1 { y.2 with status := .ready, since := s.cycle } else s
    | _ => s) s

/-- Strands whose instruction goes on as answers come (R333, R343): they execute it again beside the picks. -/
def pollers (s : State) : List StrandRef :=
  (allStrands s).filterMap (fun y => match y.2.status with
    | .waiting (.answer _) => some y.1
    | .waiting .partition => some y.1
    | _ => none)

/-! Fetching ahead of issue (R103). -/

/-- The lines that ready strands want, and their translation misses started. -/
def fetchAhead (s : State) : List Act × State :=
  s.cores.foldl (fun z x =>
    if coreRuns s x.1 x.2 then
      (unheld s x.1 x.2).foldl (fun z y => match peek s y.1 y.2 with
        | .pipe _ _ => z
        | .line ln => (z.1 ++ [.ev (.icacheLineFill x.1 ln)], z.2)
        | .miss =>
          match startMiss z.2 x.1.die x.1.clus y.2.dom (strandSid s y.1 y.2.dom) y.2.pc 3 none with
          | (some tok, s) => (z.1, updStrand s y.1 (fun t => { t with status := .waiting (.miss tok) }))
          | (none, s) => (z.1, updStrand s y.1 (fun t => { t with absent := (y.2.pc.toNat / 65536) :: t.absent }))) z
    else z) ([], s)

/-! What the devices can do (R14, R15, R18, R192, R209, R282, R306). Rows whose own conditions do not hold change nothing. -/

/-- Rows about one strand. -/
def strandRows (r : StrandRef) (t : Strand) : List Instr :=
  t.openers.map (fun o => .lookaheadOpenerComplete r o.id) ++ (if t.shadow.isSome then [.runAheadEnd r] else []) ++
  (match t.status with
   | .trapping _ | .faulting _ _ _ _ => [.trapSlotGrant r, .recordWriteRetry r]
   | .ended => [.strandRelease r]
   | .waiting (.ticket _ _) => [.fenceTicketGrant r, .fenceTicketTimeout r]
   | _ => []) ++
  (if t.preq.isSome then [.strandSave r, .preemptForceTimeout r] else [])

/-- Rows about a copy command. -/
def commandRows (c : CoreId) (q : Copy) : List Instr :=
  (if q.fn = 6 then [.cpsigSignal c q.strm q.num]
   else ((allBlocks q).filter (fun x => !blockOver q x.1 x.2)).map (fun x => .copyBlock c q.strm q.num x.1 x.2)) ++
  [.copyFaultTimeout c q.strm q.num, .remoteTimeout c q.strm q.num, .copyComplete c q.strm q.num]

/-- Rows about a core. -/
def coreRows (c : CoreId) (k : Core) : List Instr :=
  if k.failed then []
  else
    k.strands.flatMap (fun y => strandRows ⟨c, y.1⟩ y.2) ++
    k.jmu.chans.flatMap (fun q => [.ringRefill c q.handle, .ringReadRetry c q.handle, .spilledRecordApply c q.handle]) ++
    [.matchDecision c, .launchItemOffer c, .strandRestore c, .admission c, .dteStep c, .dteComplete c, .kuduStep c, .kuduComplete c] ++
    k.copies.flatMap (commandRows c)

/-- The class of an arrival at a home (R155): its own core, its die, another die, Eland. -/
def arrivalClass (f : Flight) (c : CoreId) : Nat :=
  if f.src = c then 0
  else match f.src.kind with
    | .compute | .markhor => if f.src.die = c.die then 1 else 2
    | _ => 3

/-- Messages in the order in which their homes take them: those that reached a home in an earlier cycle first, those of one
cycle by class and by sender (R155). -/
def arrivalOrder (l : List Flight) : List Flight :=
  let key (f : Flight) : List Nat := match f.at_ with
    | none => [0, 0, 0, 0, f.id]
    | some c => [1, f.reach, arrivalClass f c, f.m.sender.toNat, f.id]
  sortBy (fun a b => lexLt (key a) (key b)) l

/-- Rows about the package. -/
def packageRows (s : State) : List Instr :=
  s.pend.map (fun p => match p.work with | .store _ => .storeArrival p.seq | .atomic _ _ _ _ _ => .atomicExecute p.seq) ++
  (arrivalOrder s.flight).map (fun f => .messageArrival f.id) ++
  s.jobs.flatMap (fun j => .jobStart j.1 :: j.2.ending.map (fun u => .itemEnd u.uid) ++
    (if j.2.st = .dealing then (coreSet s j.2.dom j.2.clmask j.2.cmask).map (fun c => .chunkDeal j.1 c) else []) ++
    ((j.2.gang.getD []).map (fun m => .gangMemberUnreachable j.1 m.pkg))) ++
  s.doms.map (fun d => .timerExpiry d.1) ++
  s.clusters.flatMap (fun c => c.2.misses.map (fun m => .tlbMissTimeout c.1.1 c.1.2 m.token)) ++
  s.migs.map (fun m => .frozenPageTimeout (BitVec.ofNat 48 m.gpn)) ++
  (s.lookups ++ s.asked).map (fun l => .ownerLookupTimeout (BitVec.ofNat 48 l.1)) ++
  s.stubs.flatMap (fun x => [.stubHeldTimeout (BitVec.ofNat 48 x.gpn), .stubQuietExpiry (BitVec.ofNat 48 x.gpn)]) ++
  s.vcOut.flatMap (fun v => [.messageRetransmit (BitVec.ofNat 12 v.dst), .messageGiveUp (BitVec.ofNat 12 v.dst)]) ++
  s.slots.map (fun x => .reductionTimeout x.1) ++
  (s.reqs.filter (fun q => decide (64 ≤ q.strm) && q.strm != 65)).map (fun q => .remoteTimeout q.core q.strm q.num)

/-- The block releases a reduction slot: in one cycle it acts after contributions (R385). -/
def isRelease (s : State) (i : Instr) : Bool :=
  match i with
  | .copyBlock c strm num _ _ => (match copyOf s c strm num with | some q => q.fn == 4 && q.kind == 3 | none => false)
  | _ => false

/-- The rows of a cycle. -/
def deviceRows (s : State) : List Instr :=
  let l := s.cores.flatMap (fun x => coreRows x.1 x.2) ++ packageRows s
  l.filter (fun i => !isRelease s i) ++ l.filter (isRelease s)

/-- Work of the devices that is done at the start of a cycle: halts taken (R340), packets that the package addressed to
itself, freezes that end (R362), forwarding entries that expire (R175), the boot (R393), a posted mailbox request (R399), lost lock (R387). -/
def housekeep (s : State) : State :=
  let s := bootStep s
  let s := (allStrands s).foldl (fun s y => if y.2.halt then outState s (execDebugHalt y.1 s) else s) s
  let own := s.out.filter (fun p => p.dst.toNat == s.pkg)
  let s := own.foldl loopback { s with out := s.out.filter (fun p => p.dst.toNat != s.pkg) }
  let s := s.migs.foldl freezeStep s
  let s := s.cores.foldl (fun s x => x.2.jmu.fwds.foldl (fun s f => outState s (execForwardingEntryExpiry x.1 f.handle s)) s) s
  let s := if s.mboxBusy then mboxServe s s.mboxReq else s
  outState s (execTimeSyncLost s)

/-- Every satisfied tag wait of a core is granted, in the order of R216: its strand is ready in the cycle after its condition
held (R237). -/
def grantTags (s : State) (c : CoreId) (n : Nat) : State :=
  match n with
  | 0 => s
  | k + 1 => if (tagWaiters s c).isEmpty then s else grantTags (outState s (execTagWaitGrant c s)) c k

/-- Strands that run and are not ready in this cycle become ready in a later one (R103). -/
def renewSince (s : State) : State :=
  s.cores.foldl (fun s x =>
    let l := readyOf s x.1 x.2
    x.2.strands.foldl (fun s y =>
      if y.2.status = .ready ∧ y.2.readyAt ≤ s.cycle ∧ !l.any (fun z => z.1.slot == y.1) then
        updStrand s ⟨x.1, y.1⟩ (fun t => { t with since := s.cycle + 1 }) else s) s) s

/-- Words read ahead that no atomic will use: a remote atomic executes in the cycle of its read, and a strand that is no
longer about to issue reads again (R145). -/
def dropSeen (s : State) : State :=
  { s with seen := s.seen.filter (fun x => match x.id with
      | .own _ | .copy _ _ _ => true
      | .remote _ _ => false
      | .next u => match findUid s u with | some (_, t) => t.status == .ready | none => false) }

/-- A new cycle (R18, R104): time, the waits that are over, the picks; partition words apply first, so that the cycle's accesses
meet the change (R124, R200); the strands issue before the devices act (R215), and all before the rest of the agenda. Without power nothing happens (R10). -/
def newCycle (s : State) (auto : Bool) : State :=
  if !s.powered then s
  else
    let s := dropSeen (endWaits (endDivs (markGuards (advance (tickEngines s)))))
    let s := s.cores.foldl (fun s x => grantTags s x.1 64) s
    let s := (List.range 4).foldl renewAsks s
    let s := grantCards s
    let s := if auto then housekeep s else s
    let (fills, s) := fetchAhead s
    let turn := s.cores.flatMap (fun x => coreTurn s x.1 x.2) ++ pollers s
    let rows : List Act := if auto then (deviceRows s).map .ev else []
    let words : List Act := if auto then s.cores.map (fun x => .ev (.partitionWordApply x.1)) else []
    { settleGuards (renewSince s) with turn := turn, agenda := fills ++ words ++ .turn :: rows ++ s.agenda }

/-! The agenda (log 1). -/

/-- A TLB without the entry of a page; a pinned one stays (R351). -/
def dropEntry (l : List TlbEntry) (dom vpage : Nat) : List TlbEntry := l.filter (fun e => e.pin || e.dom != dom || e.vpage != vpage)

/-- The word at a place read ahead for an atomic of a unit (R145), after the stores of the issuing core's cluster that had
passed its cache (R131, R132); one whose read would meet an error is read when the atomic executes. `via` as for `amoExecute`. -/
def noteSeen (s : State) (via : Option CoreId) (id : SeenBy) (unit : Option (Nat × Nat)) (l : Loc) (wide : Bool) : State :=
  match l, unit with
  | .mem a, some u =>
    let s := match via with | some k => flushLine s k.die k.clus (a / 64) | none => s
    if s.memBad.any (fun b => b.1 == a / 64) then s
    else
      { s with seen := s.seen.filter (fun x => !(x.id == id && x.loc == l)) ++
                 [⟨id, u, l, wide, leNat (memBytes s.mem a (if wide then 8 else 4)), linePois s (a / 64) != 0⟩] }
  | _, _ => s

/-- A returning atomic that the strand issues next reads its word (R145). -/
def sampleNext (s : State) (uid : Nat) : State :=
  match findUid s uid with
  | none => s
  | some (r, t) =>
    match (if t.status = .ready ∧ t.shadow.isNone then peek s r t else .miss) with
    | .pipe _ (some i) =>
      (match amoFields i with
       | some (a, scope, wide, nr, la) =>
         let n := if wide then 8 else 4
         (match (if nr = 0 ∧ la = 0 then locate s r t (rd t.r a) n n .atomic else .error .endShadow) with
          | .ok (l, _) => if amoBlocked s r.core t l n then s else noteSeen s (some r.core) (.next uid) (amoUnit (some r.core) scope) l wide
          | .error _ => s)
       | none => s)
    | _ => s

/-- An atomic that may execute reads its word at its CAU or HAU (R145). -/
def sample (s : State) (id : SeenBy) (pa : Nat) (wide : Bool) : State :=
  match id with
  | .own n =>
    if (relayedOf s n).isSome then s else
    (match s.pend.find? (fun p => p.seq == n) with
     | some p => (match p.work with
       | .atomic _ w scope _ _ => if canLand s p then noteSeen s (some p.ref.core) id (amoUnit (some p.ref.core) scope) p.loc w else s
       | .store _ => s)
     | none =>
       (allStrands s).foldl (fun s' y => match y.2.openers.find? (fun o => o.id == n) with
         | some o => (match o.work with
           | .amo l _ _ w scope _ _ => if openerReady s y.1.core y.2 o then noteSeen s (some y.1.core) id (amoUnit (some y.1.core) scope) l w else s'
           | _ => s')
         | none => s') s)
  | .next uid => sampleNext s uid
  | .copy c strm num =>
    (match copyOf s c strm num with
     | some q => if copyAtomic q && copyMayStart s c q then noteSeen s none id (amoUnit none 3) (.mem pa) wide else s
     | none => s)
  | .remote _ _ => noteSeen s none id (amoUnit none 3) (.mem pa) wide

/-- A choice of the part that no row names. -/
def choose (s : State) (a : Act) : State :=
  match a with
  | .ev _ => s
  | .cycle auto => newCycle s auto
  | .evictL1 c ln => updCore s c (fun k => { k with l1 := adel k.l1 ln })
  | .evictCc d k ln => let cl := getClus s d k; setClus s d k { cl with cc := adel cl.cc ln }
  | .evictIcache c ln => updCore s c (fun k => { k with icache := adel k.icache ln })
  | .evictTlb c level dom vp =>
    match level with
    | 0 => updCore s c (fun k => { k with tlb := dropEntry k.tlb dom vp })
    | 1 => let cl := getClus s c.die c.clus; setClus s c.die c.clus { cl with tlb := dropEntry cl.tlb dom vp }
    | 2 => let d := getDie s c.die; setDie s c.die { d with llt := dropEntry d.llt dom vp }
    | _ => updCore s c (fun k => { k with own := dropEntry k.own dom vp })
  | .evictHome d h => let x := getDie s d; setDie s d { x with homeCache := adel x.homeCache h }
  | .evictOc g => { s with oc := adel s.oc g }
  | .badLine ln ck => { s with memBad := aset s.memBad ln ck }
  | .badWord c w ck => updCore s c (fun k => { k with spadBad := aset k.spadBad w ck })
  | .post q => mboxPost s q
  | .ready => bootReady s
  | .sample id pa wide => sample s id pa wide
  | .fabric n => { s with fab := n % 32 }
  | .badCopy c l1 ln =>
    let bad (l : List (Nat × CLine)) : List (Nat × CLine) := l.map (fun x => if x.1 = ln then (ln, { x.2 with bad := true }) else x)
    if l1 then updCore s c (fun k => { k with l1 := bad k.l1 })
    else let cl := getClus s c.die c.clus; setClus s c.die c.clus { cl with cc := bad cl.cc }
  | .cxl p cap ok => cxlFound s p cap ok
  | .cxlFail p => if s.cxl.any (fun d => d.1 == p) then { s with cxlFailed := p :: s.cxlFailed } else s
  | .boot => bootStep s
  | .pass seq => (match s.pend.find? (fun p => p.seq == seq) with
    | some p => if canPass s p then passStore s p else s
    | none => s)
  | .turn => s

/-- A polled strand executes its instruction again. -/
def repoll (s : State) (r : StrandRef) : State :=
  updStrand s r (fun t => match t.status with
    | .waiting (.answer _) => { t with status := .ready }
    | .waiting .partition => { t with status := .ready }
    | _ => t)

/-! A program placed from outside (log 14). -/

/-- The page at which a placed instruction lies, in addresses and in page-frame addresses. -/
def placedPage : Nat := 0x10000

/-- The core that runs a placed instruction: hub control core 0 for the majors that only privilege H or S may execute, else
compute core 0. -/
def placedCore (w : Nat) : CoreId := if (w / 2 ^ 24) % 64 = 0x2C ∨ (w / 2 ^ 24) % 64 = 0x2D then ⟨.hub, 0, 15, 0⟩ else computeId 0 0 0

/-- A strand of domain 0 at the page's start, its registers zero, with a full frame. -/
def placedStrand (s : State) (p : Priv) : Strand :=
  { uid := s.uid, dom := 0, priv := p, pc := BitVec.ofNat 64 placedPage, target := true, from_ := none,
    r := { Regs.zero with v := List.replicate 32 ⟨0, 0, 0⟩ }, tiles := List.replicate 8 ⟨0, false, false⟩,
    tabs := List.replicate 8 ⟨false, 0, 0, false, false, 0, .unbuilt, 0, 0⟩, status := .ready, since := s.cycle,
    readyAt := s.cycle, prio := 0, kind := 0, pat := 0, entry := BitVec.ofNat 64 placedPage, sbase := 0, sstride := 0,
    serial := false, path := 0, origin := .pattern 0 0, openers := [], shadow := none, floor := 0, step1 := false,
    skipBp := false, preq := none, halt := false, absent := [], ticket := none, noted := false, phase := none }

/-- The translation of the page for domain 0. -/
def placedEntry : TlbEntry := ⟨0, placedPage / 65536, 0, placedPage / 65536, true, 0, 0, true, true, true, placedPage⟩

/-- A program of one instruction in memory and in the instruction cache of a core, with a strand at its start that issues
next: what firmware, management and a firing would have set up. -/
def placeProgram (s : State) (l : List Byte) (c : CoreId) (p : Priv) : State :=
  let k := getCore s c
  let e := [placedEntry]
  let line := l ++ List.replicate (64 - l.length) 0#8
  let s := setCore s c { k with dom := some 0, strands := aset k.strands 0 (placedStrand s p), tlb := e, own := e,
                                icache := aset k.icache (placedPage / 64) (bytesLine line) }
  { s with mem := memStore s.mem placedPage line, boot := { s.boot with stage := 8 }, agenda := [], turn := [⟨c, 0⟩],
           uid := s.uid + 1 }

/-- What happens next. -/
def nextUp (s : State) : Up :=
  match s.agenda, s.turn with
  | .ev i :: rest, _ => .exec i { s with agenda := rest }
  | .cycle auto :: rest, [] => .state (newCycle { s with agenda := rest } auto)
  | .cycle _ :: _, r :: turn => let s := { s with turn := turn }; issueTurn (repoll s r) r s
  | .turn :: _, r :: turn => let s := { s with turn := turn }; issueTurn (repoll s r) r s
  | a :: rest, _ => .state (choose { s with agenda := rest } a)
  | [], r :: turn => let s := { s with turn := turn }; issueTurn (repoll s r) r s
  | [], [] => .state (newCycle s true)

end Sys2Proof.Machine
end

