-- ==== Sys2Proof/Machine/Step.lean ====
section
/-! DEFINITION. One step: one instruction of one strand, one event, or a new cycle. -/

namespace Sys2Proof.Machine

/-- One step of the package. -/
def step (s : State) : Host.Outcome State Fault Refusal :=
  match nextUp s with
  | .exec i s' => exec i s'
  | .state s' => .next s'
  | .stop f => .fault f

/-- The state in which the very next step fetches and runs the instruction of table bits `w` (log 14). -/
def State.withFetchWord (s : State) (nbits w : Nat) : State :=
  let c := placedCore w
  placeProgram s (bytesLE 20 (w % 2 ^ nbits)) c (if c.kind = .hub then .h else .s)

end Sys2Proof.Machine
end

