-- ==== Sys2Proof/Safety.lean ====
section
/-! DEFINITION. What a safe run is: every step answers a next state, and memory keeps its canonical form. -/

namespace Sys2Proof

/-- Every memory of the state is in canonical form: package memory, host memory, every scratchpad. -/
def Machine.State.memWf (s : Machine.State) : Bool :=
  Machine.Memory.wf s.mem && Machine.Memory.wf s.hostMem && s.cores.all (fun x => Machine.Memory.wf x.2.spad)

/-- A run of `n` steps that meets no fault and no refusal. -/
def safeRun : Nat → Machine.State → Bool
  | 0, _ => true
  | n + 1, s => match Machine.step s with
    | .next s' => safeRun n s'
    | .fault _ => false
    | .refused _ => false

end Sys2Proof
end

