-- ==== Sys2Proof/Certificates/Slice0/Obligations.lean ====
section
/-! DEFINITION. The statements for the provers. `Sys2Proof.Says` holds their vocabulary. -/

open Sys2Proof Sys2Proof.Machine

namespace Sys2Proof.Says

/-- `t` is the strand whose turn it is, outside run-ahead and single step, its open windows admit `i`, and `i` meets none of
the checks that every instruction shares (privilege, frame registers, pending destinations: items 8, 10 and 11 of R93). -/
abbrev Admits (s : State) (t : Strand) (i : Instr) : Prop :=
  getStrand s s.cur = some t ∧ t.shadow = none ∧ t.step1 = false ∧ (∀ o ∈ t.openers, o.isOpen = true) ∧
  ((need i).closes = true → t.openers = []) ∧ sharedFault t (need i) = none

/-- The strand `t` at place `r` of `s` has completed `i` with the registers `regs` and goes on at `pc`, `gap` cycles after its
issue (R101); `jumped` when control was transferred. Registers that the vector/engine pipe writes are readable after their
latency, and the pipe is occupied as R257 gives; a save that found the strand waiting inside `i` comes next (R333). Nothing else
of `s` differs. -/
def went (s : State) (r : StrandRef) (t : Strand) (i : Instr) (pc : Word) (jumped : Bool) (gap : Nat) (regs : Regs := t.r) : State :=
  setStrand (occupy s r.core i) r { t with
    r := regs, pc := pc, target := jumped, from_ := some (t.pc, i.word0), status := .ready, since := s.cycle + gap,
    readyAt := s.cycle + gap, skipBp := false, openers := t.openers.map tickOpener, lat := newLat t.r i s.cycle t.lat,
    inside := false, saveNow := t.inside && t.preq.isSome && answers i }

/-- The strand goes on with the next instruction, its registers now `r`. -/
def goesOn (s : State) (t : Strand) (i : Instr) (r : Regs) (gap : Nat := 1) : State :=
  went s s.cur t i (t.pc + BitVec.ofNat 64 i.len) false gap r

/-- An admitted `i` writes `v` with poison `p` to scalar register `d`, and nothing else but the strand's place. -/
def gives (s : State) (t : Strand) (i : Instr) (d : BitVec 5) (v : Word) (p : Bool) (gap : Nat := 1) : Prop :=
  Admits s t i → exec i s = .next (goesOn s t i (wr t.r d v p) gap)

/-- An admitted `i` raises `c` with DETAIL and DADDR, at its own address (R323). -/
def traps (s : State) (t : Strand) (i : Instr) (c : Cause) (detail daddr : Word) : Prop :=
  exec i s = .next (raiseTrap s s.cur t (trapReq s c detail daddr t.pc t.pc i.word0))

/-- Slot `k` of the domain's trarea is the one that a record of the strand `uid` takes (R325, R407): the one it has kept, else,
when no trap has waited longer, the first, in ring order after the last taken, whose STATE is not 1 and which no other trap
keeps (slots are kept by address). The area is unset for no `base`, its slots stand at
page-frame addresses from `pa` on, readable and writable by the device, and no line of memory is in error. -/
def takesSlot (s : State) (r : StrandRef) (uid dom base pa k : Nat) : Prop :=
  let d := getDom s dom
  let total := 2 ^ areaLog d.trarea
  let first := match d.lastSlot with | none => 0 | some n => n + 1
  let free (n : Nat) : Prop := bitsOf (leWord (memBytes s.mem (pa + 512 * (n % total)) 8)) 16 2 ≠ 1 ∧ ∀ x ∈ d.kept, x.2 ≠ base + 512 * (n % total)
  areaBase d.trarea = base ∧ base ≠ 0 ∧ pa % 512 = 0 ∧ s.memBad = [] ∧ Memory.wf s.mem = true ∧ k < total ∧
  (aget d.kept uid = some (base + 512 * k) ∨
    aget d.kept uid = none ∧ recBehind s dom uid = false ∧ ∃ j < total, k = (first + j) % total ∧ free (first + j) ∧
      ∀ n < j, ¬ free (first + n)) ∧
  ∀ n < total, devXlate s (recAgent r dom) (BitVec.ofNat 64 (base + 512 * n)) .load = .ok (pa + 512 * n, s) ∧
    devXlate s (recAgent r dom) (BitVec.ofNat 64 (base + 512 * n)) .store = .ok (pa + 512 * n, s)

/-- The generation that a record in slot `k` takes (R325). -/
def newGen (s : State) (pa k : Nat) : Nat := (bitsOf (leWord (memBytes s.mem (pa + 512 * k) 8)) 48 16 + 1) % 2 ^ 16

/-- Between `s` and `s'` the 512 bytes of slot `k` became the 64 doublewords `word`, and no other byte of memory changed. -/
def wroteRecord (s s' : State) (pa k : Nat) (word : Nat → Word) : Prop :=
  (∀ i < 64, leWord (memBytes s'.mem (pa + 512 * k + 8 * i) 8) = word i) ∧
  ∀ a, a < pa + 512 * k ∨ pa + 512 * k + 512 ≤ a → memRead s'.mem a = memRead s.mem a

/-- The doublewords of a trap record (R324). -/
def trapWord (t : Strand) (q : TrapReq) (sid : Word) (gen i : Nat) : Word :=
  match i with
  | 0 => BitVec.ofNat 64 (gen * 2 ^ 48 + 2 ^ 16 + privNum t.priv * 2 ^ 14 + causeCode q.cause)
  | 1 => q.iaddr
  | 2 => q.pc
  | 3 => q.word0.setWidth 64
  | 4 => q.detail
  | 5 => q.daddr
  | 6 => BitVec.ofNat 64 q.time
  | 7 => sid
  | 8 => t.r.spois.setWidth 64
  | 9 => t.r.fctl
  | i => if i < 17 then (t.r.p[i - 9]?).getD 0 else if i < 49 then rd t.r (BitVec.ofNat 5 (i - 17)) else 0

/-- The doublewords of a batch fault record (R356). -/
def faultWord (s : State) (t : Strand) (pages : List PageRec) (iaddr sid : Word) (gen i : Nat) : Word :=
  match i with
  | 0 => BitVec.ofNat 64 (gen * 2 ^ 48 + pages.length * 2 ^ 42 + 2 ^ 16 + privNum t.priv * 2 ^ 14 + causeCode (firstCause pages))
  | 1 => iaddr
  | 2 => sid
  | 3 => BitVec.ofNat 64 s.cys.now
  | i => if i < 8 then 0 else match pages[i - 8]? with
    | some p => BitVec.ofNat 64 (p.vunit % 2 ^ 40 * 2 ^ 16 + causeCode p.cause * 2 ^ 8 + (if p.w then 2 else 0) + (if p.x then 1 else 0))
    | none => 0

/-- The trap `q` of the strand `t` at `r` has its record in slot `k` (R323, R324, R325): the strand is suspended on the
handle, the record holds its registers, and the trap message is on its way to trapch, or counted when trapch is unset. -/
def trapRecorded (s s' : State) (r : StrandRef) (t : Strand) (q : TrapReq) (base pa k : Nat) : Prop :=
  let gen := newGen s pa k
  let h := BitVec.ofNat 64 (gen * 2 ^ 48 + base + 512 * k)
  let sid := strandSid s r t.dom
  let ch := (getDom s t.dom).trapch
  wroteRecord s s' pa k (trapWord t q sid gen) ∧ getStrand s' r = some { t with status := .suspended h } ∧
  (getDom s' t.dom).lastSlot = some k ∧
  (ch ≠ 0 → s'.flight = s.flight ++ [⟨s.uid, t.uid, ⟨payload4 h (BitVec.ofNat 64 (causeCode q.cause)) q.iaddr q.daddr, q.time, sid,
    ch, false, 0, false⟩, t.dom, false, none, s.uid, r.core, true, none, 0⟩]) ∧
  (ch = 0 → s'.flight = s.flight ∧ (getDom s' t.dom).lostrep = satInc (getDom s t.dom).lostrep ∧ s'.evseq = s.evseq + 1)

/-- The value of a load (R136): the bytes as a little-endian word, sign-extended or not. -/
def loaded (sx : Bool) (bs : List Byte) : Word :=
  if sx then BitVec.ofInt 64 (BitVec.ofNat (8 * bs.length) (leNat bs)).toInt else BitVec.ofNat 64 (leNat bs)

/-- Every earlier access of the running strand is done at package scope: what a release waits for (R239, R242). -/
abbrev settled (s : State) (t : Strand) : Prop := belowDone s s.cur.core t.uid s.uid t.openers 2 = true

/-- The strand reads `n` bytes at `l` now, at cache level `level`, and finds `bs` with poison `p`, leaving `s'`: nothing of its own
that must come first is outstanding there, and the home slice admits the domain (R132, R149, R388). -/
def reads (s : State) (t : Strand) (level : Nat) (l : Loc) (n : Nat) (bs : List Byte) (p : Bool) (s' : State) : Prop :=
  ownAtomic s t.uid s.uid l n = false ∧ openerOn t l n = false ∧ loadDenied s s.cur.core t.dom level l = false ∧
  readLoc s s.cur.core t.uid s.uid level l n = (bs, p, none, s') ∧ bs.length = n

/-- The low `n` bytes of a register, each with the register's poison (R134, R137). -/
def dataBytes (r : Regs) (d : BitVec 5) (n : Nat) : List (Option (Byte × Bool)) :=
  (List.range n).map (fun k => some ((rd r d).extractLsb' (8 * k) 8, rdP r d))

/-- The strand `t` has one more opener, with a window of `la` instructions (R97). -/
def opened (s : State) (t : Strand) (i : Instr) (dest : Option (Bool × Nat)) (la : BitVec 4) (w : OpenerWork) : State :=
  let o : Opener := ⟨s.uid, t.pc, dest, la.toNat, true, s.uid + 1, t.floor, w, t.floorC⟩
  let s' := went { s with uid := s.uid + 1 } s.cur t i (t.pc + BitVec.ofNat 64 i.len) false 1
  updStrand s' s.cur (fun t => { t with openers := t.openers ++ [o] })

/-- A scalar destination as an opener's pending register: s0 pends nothing (R96). -/
def pends (d : BitVec 5) : Option (Bool × Nat) := if d = 0 then none else some (false, d.toNat)

end Sys2Proof.Says

open Sys2Proof.Says

/-! Integer, division and immediate instructions. -/

/-- R106: each INT form writes to D what the table says of A and B, poisoned when a source is (R102), and nothing else: the
arithmetic, logic, shift and compare forms, the counts of every A, and the fields that `bfx` takes and `bfi` sets, bit by bit. -/
def Obligations.IntegerResults : Prop :=
  (∀ (s : State) (t : Strand) (d a b : BitVec 5),
      let x := rd t.r a
      let y := rd t.r b
      let k := y.toNat % 64
      let p := rdP t.r a || rdP t.r b
      gives s t (.add d a b) d (BitVec.ofNat 64 (x.toNat + y.toNat)) p ∧
      gives s t (.sub d a b) d (BitVec.ofInt 64 (x.toInt - y.toInt)) p ∧
      gives s t (.and d a b) d (x &&& y) p ∧
      gives s t (.or d a b) d (x ||| y) p ∧
      gives s t (.xor d a b) d (x ^^^ y) p ∧
      gives s t (.andn d a b) d (x &&& ~~~y) p ∧
      gives s t (.shl d a b) d (BitVec.ofNat 64 (x.toNat * 2 ^ k)) p ∧
      gives s t (.shr d a b) d (BitVec.ofNat 64 (x.toNat / 2 ^ k)) p ∧
      gives s t (.sar d a b) d (BitVec.ofInt 64 (x.toInt / 2 ^ k)) p ∧
      gives s t (.ror d a b) d ((x >>> k) ||| (x <<< (64 - k))) p ∧
      gives s t (.mul d a b) d (BitVec.ofInt 64 (x.toInt * y.toInt)) p 3 ∧
      gives s t (.mulh d a b) d (BitVec.ofInt 64 (x.toInt * y.toInt / 2 ^ 64)) p 3 ∧
      gives s t (.mulhn d a b) d (BitVec.ofNat 64 (x.toNat * y.toNat / 2 ^ 64)) p 3 ∧
      gives s t (.min d a b) d (BitVec.ofInt 64 (min x.toInt y.toInt)) p ∧
      gives s t (.max d a b) d (BitVec.ofInt 64 (max x.toInt y.toInt)) p ∧
      gives s t (.minn d a b) d (BitVec.ofNat 64 (min x.toNat y.toNat)) p ∧
      gives s t (.maxn d a b) d (BitVec.ofNat 64 (max x.toNat y.toNat)) p ∧
      gives s t (.slt d a b) d (if x.toInt < y.toInt then 1 else 0) p ∧
      gives s t (.sltn d a b) d (if x.toNat < y.toNat then 1 else 0) p ∧
      gives s t (.seq d a b) d (if x = y then 1 else 0) p) ∧
  (∀ (s : State) (t : Strand) (d a b : BitVec 5),
      let x := rd t.r a
      let y := rd t.r b
      let pos := y.toNat % 64
      let len := y.toNat / 256 % 128
      (∃ n : Nat, gives s t (.clz d a) d (BitVec.ofNat 64 n) (rdP t.r a) ∧ n ≤ 64 ∧
        (∀ i, 64 - n ≤ i → x.getLsbD i = false) ∧ (n < 64 → x.getLsbD (63 - n) = true)) ∧
      (∃ n : Nat, gives s t (.ctz d a) d (BitVec.ofNat 64 n) (rdP t.r a) ∧ n ≤ 64 ∧
        (∀ i, i < n → x.getLsbD i = false) ∧ (n < 64 → x.getLsbD n = true)) ∧
      gives s t (.popc d a) d (BitVec.ofNat 64 ((List.range 64).filter (fun i => x.getLsbD i)).length) (rdP t.r a) ∧
      (∃ v : Word, gives s t (.bfx d a b) d v (rdP t.r a || rdP t.r b) ∧
        ∀ i, i < 64 → v.getLsbD i = (decide (i < len) && x.getLsbD (pos + i))) ∧
      (∃ v : Word, gives s t (.bfi d a b) d v (rdP t.r d || rdP t.r a || rdP t.r b) ∧
        ∀ i, i < 64 → v.getLsbD i = if pos ≤ i ∧ i < pos + len then x.getLsbD (i - pos) else (rd t.r d).getLsbD i))

/-- R107: the four divisions with LA 0, every divisor and dividend. The next instruction issues 24 cycles later. -/
def Obligations.DivisionResults : Prop :=
  ∀ (s : State) (t : Strand) (d a b : BitVec 5),
    let x := rd t.r a
    let y := rd t.r b
    let p := rdP t.r a || rdP t.r b
    gives s t (.div d a b 0) d (if y = 0 then BitVec.ofInt 64 (-1) else if x.toInt = -2 ^ 63 ∧ y.toInt = -1 then x
      else BitVec.ofInt 64 (x.toInt.tdiv y.toInt)) p 24 ∧
    gives s t (.rem d a b 0) d (if y = 0 then x else if x.toInt = -2 ^ 63 ∧ y.toInt = -1 then 0
      else BitVec.ofInt 64 (x.toInt - y.toInt * x.toInt.tdiv y.toInt)) p 24 ∧
    gives s t (.divn d a b 0) d (if y = 0 then 0xFFFFFFFFFFFFFFFF#64 else BitVec.ofNat 64 (x.toNat / y.toNat)) p 24 ∧
    gives s t (.remn d a b 0) d (if y = 0 then x else BitVec.ofNat 64 (x.toNat % y.toNat)) p 24

/-- R108 to R111: the immediate forms of either length. `li` and `addpc` are never poisoned (R102), and `addpc` counts from
its own word 0. -/
def Obligations.ImmediateResults : Prop :=
  ∀ (s : State) (t : Strand) (d a : BitVec 5) (imm : BitVec 10) (amt : BitVec 6) (lit : BitVec 64),
    let x := rd t.r a
    let p := rdP t.r a
    let z := BitVec.ofInt 64 imm.toInt
    gives s t (.addi d a imm) d (x + z) p ∧ gives s t (.addiLiteral d a lit) d (x + lit) p ∧
    gives s t (.andi d a imm) d (x &&& z) p ∧ gives s t (.andiLiteral d a lit) d (x &&& lit) p ∧
    gives s t (.ori d a imm) d (x ||| z) p ∧ gives s t (.oriLiteral d a lit) d (x ||| lit) p ∧
    gives s t (.xori d a imm) d (x ^^^ z) p ∧ gives s t (.xoriLiteral d a lit) d (x ^^^ lit) p ∧
    gives s t (.shli d a amt) d (BitVec.ofNat 64 (x.toNat * 2 ^ amt.toNat)) p ∧
    gives s t (.shri d a amt) d (BitVec.ofNat 64 (x.toNat / 2 ^ amt.toNat)) p ∧
    gives s t (.sari d a amt) d (BitVec.ofInt 64 (x.toInt / 2 ^ amt.toNat)) p ∧
    gives s t (.li d imm) d z false ∧ gives s t (.liLiteral d lit) d lit false ∧
    gives s t (.addpc d imm) d (t.pc + z) false ∧ gives s t (.addpcLiteral d lit) d (t.pc + lit) false

/-- R19, R100: s0 reads zero and is never poisoned, and a write to it is discarded; any other register takes the value and
leaves its neighbours alone. -/
def Obligations.ZeroRegister : Prop :=
  ∀ (r : Regs) (n m : BitVec 5) (x : Word) (p : Bool),
    rd r 0 = 0 ∧ rdP r 0 = false ∧ wr r 0 x p = r ∧
    (n ≠ 0 → rd (wr r n x p) n = x ∧ rdP (wr r n x p) n = p) ∧
    (m ≠ n → rd (wr r n x p) m = rd r m ∧ rdP (wr r n x p) m = rdP r m)

/-! Branches and strand control. -/

/-- R112 to R114: where each transfer of control goes, what it links, and when the next instruction may issue (R101). R102:
`bc`, `jr` and `jal` on a poisoned register raise `poison-consumed`, naming it. -/
def Obligations.BranchResults : Prop :=
  (∀ (s : State) (t : Strand) (d a : BitVec 5) (cc : BitVec 4) (off : BitVec 24) (off15 : BitVec 15),
      let x := rd t.r a
      let taken : Bool := match cc.toNat with
        | 0 => decide (x = 0) | 1 => decide (x ≠ 0) | 2 => decide (x.toInt < 0) | 3 => decide (0 ≤ x.toInt)
        | 4 => decide (0 < x.toInt) | 5 => decide (x.toInt ≤ 0) | 6 => decide (x.toNat % 2 = 1) | _ => decide (x.toNat % 2 = 0)
      let far := t.pc + BitVec.ofInt 64 (off.toInt * 4)
      let near := t.pc + BitVec.ofInt 64 (off15.toInt * 4)
      (Admits s t (.br off) → exec (.br off) s = .next (went s s.cur t (.br off) far true 3)) ∧
      (Admits s t (.call off) →
        exec (.call off) s = .next (went s s.cur t (.call off) far true 3 (wr t.r 1 (t.pc + 4) false))) ∧
      (Admits s t (.bc a cc off15) ∧ cc.toNat < 8 ∧ rdP t.r a = false →
        exec (.bc a cc off15) s = .next (if taken then went s s.cur t (.bc a cc off15) near true 3
          else went s s.cur t (.bc a cc off15) (t.pc + 4) false 2)) ∧
      (Admits s t (.jr a) ∧ rdP t.r a = false → exec (.jr a) s = .next (went s s.cur t (.jr a) x true 3)) ∧
      (Admits s t (.jal d a) ∧ rdP t.r a = false →
        exec (.jal d a) s = .next (went s s.cur t (.jal d a) x true 3 (wr t.r d (t.pc + 4) false)))) ∧
  (∀ (s : State) (t : Strand) (d a : BitVec 5) (cc : BitVec 4) (off : BitVec 15) (i : Instr),
      i = .bc a cc off ∨ i = .jr a ∨ i = .jal d a → Admits s t i → rdP t.r a = true →
      traps s t i .poisonConsumed (BitVec.ofNat 64 a.toNat) 0)

/-- R115, R119: `nop` changes nothing; `ftrim` cuts the frame to the sizes named once no engine command of the strand names
what it gives back, which is on offer from the next cycle, and a size beyond the frame raises `operand-range`. R116, R330:
`pause` keeps the strand from issuing for 32 cycles after its own, `idle` until an event of the core, a pre-emption request or
65,536 cycles; at PAUSE_END and at IDLE_TIMEOUT the strand goes on after it with a new ready-since. -/
def Obligations.NopFtrimPauseIdle : Prop :=
  (∀ (s : State) (t : Strand) (v : BitVec 6) (a n : BitVec 4),
      let i : Instr := .ftrim v a n
      let fits := v.toNat ≤ t.r.v.length ∧ a.toNat ≤ t.tiles.length ∧ n.toNat ≤ t.tabs.length
      (Admits s t .nop → exec .nop s = .next (goesOn s t .nop t.r)) ∧
      (Admits s t i ∧ fits ∧
        engNames (getCore s s.cur.core) t.uid (rangeFrom a.toNat (t.tiles.length - a.toNat)) (rangeFrom n.toNat (t.tabs.length - n.toNat)) true = false →
        exec i s = .next (goesOn (freeRoom s s.cur.core none (t.r.v.length - v.toNat) (t.tiles.length - a.toNat) (t.tabs.length - n.toNat))
          { t with tiles := t.tiles.take a.toNat, tabs := t.tabs.take n.toNat } i { t.r with v := t.r.v.take v.toNat })) ∧
      (Admits s t i ∧ ¬ fits → traps s t i .operandRange 0 0)) ∧
  (∀ (s : State) (t : Strand) (r : StrandRef) (till : Nat),
      (Admits s t .pause → exec .pause s = .next (setStrand s s.cur { t with status := .waiting (.pause (s.cycle + 33)), inside := true })) ∧
      (Admits s t .idle → exec .idle s = .next (setStrand s s.cur { t with status := .waiting (.idle (s.cycle + 65536)), inside := true })) ∧
      (getStrand s r = some t ∧ t.shadow = none ∧ t.step1 = false ∧ t.status = .waiting (.pause till) ∧ till ≤ s.cycle →
        exec (.pauseEnd r) s = .next (went s r t .pause (t.pc + 4) false 0)) ∧
      (getStrand s r = some t ∧ t.shadow = none ∧ t.step1 = false ∧ t.status = .waiting (.idle till) ∧
          (till ≤ s.cycle ∨ t.preq.isSome = true) →
        exec (.idleTimeout r) s = .next (went s r t .idle (t.pc + 4) false 0)))

/-! Traps. -/

/-- R118, R328, R93: `trap` raises `trap-instruction` with its code, to resume after it; `brk` raises `breakpoint` at itself;
a word that is no instruction raises the decode fault of R93 that it shows, or `privileged` where that comes first: before the
lookahead misuse of an instruction that the strand's level may not execute, not before items 1 to 7. A VMEM word whose Z, TAG or
SCL must be zero raises `reserved-field` after its own first checks (R267). -/
def Obligations.TrapInstructions : Prop :=
  ∀ (s : State) (t : Strand) (code : BitVec 10) (w : BitVec 32),
    (Admits s t (.trap code) → exec (.trap code) s = .next (raiseTrap s s.cur t
      (trapReq s .trapInstruction (BitVec.ofNat 64 code.toNat) 0 t.pc (t.pc + 4) (Instr.trap code).word0))) ∧
    (Admits s t (.brk code) → traps s t (.brk code) .breakpoint (BitVec.ofNat 64 code.toNat) 0) ∧
    (∀ e c, (e, c) ∈ [(DecodeFault.illegalMajor, Cause.illegalMajor), (.badLength, .badLength), (.illegalFunction, .illegalFunction),
        (.reservedField, .reservedField)] → getStrand s s.cur = some t → t.shadow = none →
      exec (.illegalMajor w e) s = .next (raiseTrap s s.cur t (trapReq s c 0 0 t.pc t.pc w))) ∧
    (∀ n : Priv, getStrand s s.cur = some t → t.shadow = none →
      exec (.illegalMajor w (.lookaheadMisuse n)) s = .next (raiseTrap s s.cur t
        (trapReq s (if privNum t.priv < privNum n then .privileged else .lookaheadMisuse) 0 0 t.pc t.pc w))) ∧
    (∀ (w1 w2 : BitVec 32) (d a : BitVec 5) (p : BitVec 3),
      decodeWords w (w1 &&& 0xE01FFFFF#32) w2 0 = .ok (.vst d a p 0) →
      Admits s t (.vst d a p 0) → rdP t.r a = false →
      exec (.illegalMajor w (.reservedLate w1 w2)) s = .next (raiseTrap s s.cur t (trapReq s .reservedField 0 0 t.pc t.pc w)))

/-- R323, R324, R325: a trap with no opener outstanding takes its slot, writes its record (IADDR, PC, WORD0, DETAIL, DADDR,
TIME, SID, poison, fctl, predicates, registers), suspends the strand on the handle and sends the trap message; every other byte
of memory stays. A trap that waited does the same at TRAP_SLOT_GRANT, and at RECORD_WRITE_RETRY (R407). R323, R325: a trap
waits for the strand's openers, and, while trarea is unset, suspends without a record: lostrep is increased, the event is
logged once, and no memory changes. -/
def Obligations.TrapRecord : Prop :=
  (∀ (s : State) (r : StrandRef) (t : Strand) (q : TrapReq) (base pa k : Nat),
      takesSlot s r t.uid t.dom base pa k → t.openers = [] →
      trapRecorded s (raiseTrap s r t q) r { t with step1 := false, skipBp := false, inside := false, saveNow := false } q base pa k ∧
      (getStrand s r = some t → t.status = .trapping q → q.retryAt = none →
        ∃ s', exec (.trapSlotGrant r) s = .next s' ∧ trapRecorded s s' r t q base pa k) ∧
      (∀ at_, getStrand s r = some t → t.status = .trapping q → q.retryAt = some at_ → at_ ≤ s.cys.now →
        ∃ s', exec (.recordWriteRetry r) s = .next s' ∧ trapRecorded s s' r t q base pa k)) ∧
  (∀ (s : State) (r : StrandRef) (t : Strand) (q : TrapReq),
      let u : Strand := { t with step1 := false, skipBp := false, inside := false, saveNow := false }
      let d := getDom s t.dom
      -- answers that its instruction has had from other packages are used up
      let s' : State := { s with tabAns := s.tabAns.filter (fun x => x.1.2 != t.uid) }
      (t.openers ≠ [] → raiseTrap s r t q = setStrand s' r { u with
        status := .trapping q, openers := t.openers.map (fun o => { o with isOpen := false }) }) ∧
      (t.openers = [] → areaBase d.trarea = 0 → aget d.kept t.uid = none → q.counted = false → raiseTrap s r t q =
        setStrand (logEvent (setDom s' t.dom 
            { d with lostrep := satInc d.lostrep, recq := if t.uid ∈ d.recq then d.recq else d.recq ++ [t.uid] }) (strandSid s r t.dom) q.cause 0) r
          { u with status := .trapping { q with counted := true } }))

/-- R139, R141, R356: run-ahead that has collected 32 pages, issued 4,096 instructions or met a request ends: the checkpoint is
restored, the batch record of the pages is written, and the strand sleeps on its handle; the announcement goes to pagerch.
R139: a strand with no opener outstanding that meets a page fault at issue enters run-ahead: its registers are checkpointed,
the page is the first one collected, and it goes on after the instruction, whose destination is poisoned. -/
def Obligations.RunAhead : Prop :=
  (∀ (s : State) (r : StrandRef) (t : Strand) (h : Shadow) (base pa k : Nat),
      takesSlot s r t.uid t.dom base pa k → getStrand s r = some t → t.shadow = some h → h.pages.length ≤ 32 →
      32 ≤ h.pages.length ∨ 4096 ≤ h.issued ∨ t.preq.isSome = true ∨ t.halt = true →
      let gen := newGen s pa k
      let hd := BitVec.ofNat 64 (gen * 2 ^ 48 + base + 512 * k)
      let sid := strandSid s r t.dom
      let ch := (getDom s t.dom).pagerch
      ∃ s', exec (.runAheadEnd r) s = .next s' ∧
        wroteRecord s s' pa k (faultWord s t h.pages h.iaddr sid gen) ∧
        getStrand s' r = some { t with
          shadow := none, r := h.saved, pc := h.iaddr, target := false, absent := [], inside := false, openers := [], lat := [], status := .asleep hd } ∧
        (ch ≠ 0 → ∃ f, s'.flight = s.flight ++ [f] ∧ f.m.handle = ch ∧ f.m.sender = sid ∧ f.m.payload =
          payload4 hd (BitVec.ofNat 64 (h.pages.length * 2 ^ 8 + causeCode (firstCause h.pages)))
            (BitVec.ofNat 64 ((h.pages.head?.map (fun p => p.vunit)).getD 0 * 65536)) sid)) ∧
  (∀ (s : State) (t : Strand) (d a : BitVec 5) (ty : BitVec 3) (off : BitVec 7),
      let i : Instr := .ld d a ty off 0
      let va := rd t.r a + BitVec.ofInt 64 (off.toInt * 2 ^ (ty.toNat % 4))
      Admits s t i → t.openers = [] → rdP t.r a = false → va.toNat < 2 ^ 56 → va.toNat % 2 ^ (ty.toNat % 4) = 0 →
      va.toNat / 65536 ∈ t.absent →
      exec i s = .next (setStrand s s.cur { t with
        shadow := some ⟨t.r, t.pc, [⟨va.toNat / 65536, .pageNotPresent, false, false⟩], 0⟩, r := wr t.r d (Config.poisonWord t.uid s.cycle d.toNat) true,
        pc := t.pc + 4, target := false, inside := false, since := s.cycle + 1, readyAt := s.cycle + 1,
        absent := t.absent.filter (fun v => v ≠ va.toNat / 65536) }))

/-- R331: `eret` of a pending trap record of a suspended strand, with ACTION 0 or 2, closes the record (STATE 2) and resumes
the strand with the registers, poison, fctl, predicates and PC that the record holds; with ACTION 1 the strand ends. The record
of a strand that is saved is noted for its restore (R331; its form is log 30). The bits of the record that R324 and R44 mark
zero are zero (R3). That the strand goes on as from the `eret` (`from_`) is log 29. R331: `eret` of anything but a pending trap
record of the strand's trarea raises `eret-invalid` with the handle as DADDR, when the handle lies outside trarea or is not
512-aligned, and when the record there is another generation, is not pending, is a fault record, names an ACTION above 2, or
has a bit set that R324 or R44 marks zero (R3). -/
def Obligations.EretReturns : Prop :=
  (∀ (s : State) (t u : Strand) (q : StrandRef) (a : BitVec 5) (base pa k : Nat),
      let i : Instr := .eret a
      let d := getDom s t.dom
      let h := rd t.r a
      let w (n : Nat) : Word := leWord (memBytes s.mem (pa + 8 * n) 8)
      let bytes := memBytes s.mem pa 512
      Admits s t i → rdP t.r a = false → settled s t →
      areaBase d.trarea = base → base ≠ 0 → k < 2 ^ areaLog d.trarea → h.toNat % 2 ^ 48 = base + 512 * k → pa % 512 = 0 →
      s.memBad = [] → Memory.wf s.mem = true →
      (∀ acc, acc = Acc.load ∨ acc = .store →
        devXlate s (recAgent s.cur t.dom) (BitVec.ofNat 64 (base + 512 * k)) acc = .ok (pa, s)) →
      (w 0).toNat / 2 ^ 48 = h.toNat / 2 ^ 48 → (w 0).toNat / 2 ^ 16 % 4 = 1 → (w 0).toNat / 2 ^ 18 % 2 ^ 30 = 0 → (w 0).toNat / 2 ^ 7 % 2 ^ 7 = 0 →
      (w 3).toNat < 2 ^ 32 → (w 8).toNat < 2 ^ 32 → (w 9).toNat < 2 ^ 7 → (∀ n, 400 ≤ n → n < 512 → memRead s.mem (pa + n) = 0) →
      (w 49 = 0 ∨ w 49 = 1 ∨ w 49 = 2 → findSuspended s t.dom h = none → ∃ s', exec i s = .next s' ∧
        (getDom s' t.dom).resumed = d.resumed ++ [(h, bytes, some (t.pc, i.word0))] ∧ leWord (memBytes s'.mem pa 8) = w 0 + 0x10000) ∧
      (findSuspended s t.dom h = some (q, u) → q ≠ s.cur →
      ((w 49 = 0 ∨ w 49 = 2) → ∃ s' v, exec i s = .next s' ∧ getStrand s' q = some v ∧
          leWord (memBytes s'.mem pa 8) = w 0 + 0x10000 ∧
          (∀ b, b < pa ∨ pa + 8 ≤ b → memRead s'.mem b = memRead s.mem b) ∧
          v = { u with r := v.r, pc := w 2, target := true, from_ := some (t.pc, i.word0), status := .ready, since := s.cycle, readyAt := s.cycle,
                       skipBp := true, step1 := decide (w 49 = 2), phase := none } ∧
          v.r.fctl = w 9 ∧ v.r.v = u.r.v ∧ (∀ n, 1 ≤ n → n < 8 → v.r.p[n]? = some (w (9 + n))) ∧
          ∀ n : BitVec 5, n ≠ 0 → rd v.r n = w (17 + n.toNat) ∧ rdP v.r n = (w 8).getLsbD n.toNat) ∧
      (w 49 = 1 → ∃ s', exec i s = .next s' ∧ getStrand s' q = some { u with status := .ended } ∧
          leWord (memBytes s'.mem pa 8) = w 0 + 0x10000))) ∧
  (∀ (s : State) (t : Strand) (a : BitVec 5),
      let d := getDom s t.dom
      let rec_ := (rd t.r a).toNat % 2 ^ 48
      let outside := areaBase d.trarea = 0 ∨ rec_ % 512 ≠ 0 ∨ rec_ < areaBase d.trarea ∨
        areaBase d.trarea + 512 * 2 ^ areaLog d.trarea ≤ rec_
      Admits s t (.eret a) → rdP t.r a = false → settled s t →
      (outside → traps s t (.eret a) .eretInvalid 0 (rd t.r a)) ∧
      (∀ (pa : Nat), ¬ outside → devXlate s (recAgent s.cur t.dom) (BitVec.ofNat 64 rec_) .load = .ok (pa, s) → pa % 512 = 0 →
        s.memBad = [] →
        (let w (n : Nat) : Nat := (leWord (memBytes s.mem (pa + 8 * n) 8)).toNat
         w 0 / 2 ^ 48 ≠ (rd t.r a).toNat / 2 ^ 48 ∨ w 0 / 2 ^ 16 % 4 ≠ 1 ∨ w 0 / 2 ^ 18 % 2 ^ 30 ≠ 0 ∨ w 0 / 2 ^ 7 % 2 ^ 7 ≠ 0 ∨ 2 < w 49 ∨
           2 ^ 32 ≤ w 3 ∨ 2 ^ 32 ≤ w 8 ∨ 2 ^ 7 ≤ w 9 ∨ ∃ n, 400 ≤ n ∧ n < 512 ∧ memRead s.mem (pa + n) ≠ 0) →
        traps s t (.eret a) .eretInvalid 0 (rd t.r a)))

/-! CSRs. -/

/-- R320, R329: `csrr` writes to D, unpoisoned, what the CSR holds: fctl, the identity word, the firing word, the issue counter,
the pool word, each CSR of the strand's domain, and the aperture CSRs of the package. -/
def Obligations.CsrReads : Prop :=
  ∀ (s : State) (t : Strand) (r : BitVec 5) (n : Fin 4) (m : Fin 2) (k : Fin 64),
    let d := getDom s t.dom
    let reads (c : BitVec 12) (v : Word) : Prop := gives s t (.csrr r c) r v false
    reads 0x001 t.r.fctl ∧ reads 0x002 (strandSid s s.cur t.dom) ∧
    reads 0x003 (BitVec.ofNat 64 (t.prio * 2 ^ 16 + t.kind * 2 ^ 8 + t.pat)) ∧ reads 0x004 (BitVec.ofNat 64 s.cycle) ∧
    reads 0x005 (BitVec.ofNat 64 (getCore s s.cur.core).pword.toNat) ∧
    reads 0x100 d.chtab ∧ reads 0x101 d.trapch ∧ reads 0x102 d.repch ∧ reads 0x103 d.replog ∧ reads 0x104 d.pagerch ∧
    reads 0x105 d.lostrep ∧ reads 0x106 d.trarea ∧ reads 0x107 d.imgarea ∧ reads 0x108 d.roothub ∧ reads 0x109 d.tmcmp ∧
    reads 0x10A d.repseq ∧ reads (BitVec.ofNat 12 (0x120 + n.val)) d.bkpt[n] ∧ reads (BitVec.ofNat 12 (0x128 + m.val)) d.wpt[m] ∧
    reads (BitVec.ofNat 12 (0x180 + k.val)) ((aget s.bar4ap k.val).getD 0)

/-- R320, R322, R329: what `csrw`, `csrs` and `csrc` of each writable CSR leave, bits marked zero ignored, any write of lostrep
clearing it; nothing else changes but the strand's place. R321, R322: written by `csrw`, `csrs` or `csrc`, an area CSR takes a
layout of R321 (its zero bits ignored) while nothing uses the old area, and otherwise raises `operand-range` unchanged; so does
any write of a CSR that has no write level. The model's own: BASE 0 with LOG 0 unsets any area (log 31), and a new table starts
its hint at 1, a new log at entry 0 (log 31). -/
def Obligations.CsrWrites : Prop :=
  (∀ (s : State) (t : Strand) (r : BitVec 5) (c : BitVec 12) (i : Instr) (v : Word) (n : Fin 4) (m : Fin 2) (k : Fin 64),
      let d := getDom s t.dom
      let old := csrValue s ⟨s.cur, t, 4, i.word0⟩ c
      let y := rd t.r r
      let dom (x : Dom) : Prop := exec i s = .next (goesOn (setDom s t.dom x) t i t.r)
      i = .csrw r c ∧ v = y ∨ i = .csrs r c ∧ v = old ||| y ∨ i = .csrc r c ∧ v = old &&& ~~~y →
      Admits s t i → rdP t.r r = false →
      (c = 0x001 → exec i s = .next (goesOn s t i { t.r with fctl := v &&& 0x7F })) ∧
      (c = 0x101 → dom { d with trapch := v }) ∧ (c = 0x102 → dom { d with repch := v }) ∧
      (c = 0x104 → dom { d with pagerch := v }) ∧ (c = 0x105 → dom { d with lostrep := 0 }) ∧
      (c = 0x108 → dom { d with roothub := v &&& 0x1FFF }) ∧ (c = 0x109 → dom { d with tmcmp := v }) ∧
      (c = BitVec.ofNat 12 (0x120 + n.val) → dom { d with bkpt := d.bkpt.set n.val (v &&& ~~~2#64) }) ∧
      (c = BitVec.ofNat 12 (0x128 + m.val) → dom { d with wpt := d.wpt.set m.val (v &&& ~~~0x3C#64) }) ∧
      (c = BitVec.ofNat 12 (0x180 + k.val) → exec i s = .next (goesOn
        { s with bar4ap := aset s.bar4ap k.val (v &&& 0x8000FFFFC00000FF) } t i t.r))) ∧
  (∀ (s : State) (t : Strand) (r : BitVec 5) (c : BitVec 12) (i : Instr) (u : Word),
      let d := getDom s t.dom
      let old := csrValue s ⟨s.cur, t, 4, i.word0⟩ c
      let y := rd t.r r
      let v := u &&& 0x00FFFFFFFFFFF01F
      let base := v.toNat / 4096 * 4096
      let log := v.toNat % 32
      let fits (entry lo hi : Nat) : Prop := (base = 0 ∧ log = 0) ∨ (lo ≤ log ∧ log ≤ hi ∧ base % (max (entry * 2 ^ log) 4096) = 0)
      let takes (ok : Prop) (x : Dom) : Prop :=
        (ok → exec i s = .next (goesOn (setDom s t.dom x) t i t.r)) ∧ (¬ ok → traps s t i .operandRange 0 0)
      i = .csrw r c ∧ u = y ∨ i = .csrs r c ∧ u = old ||| y ∨ i = .csrc r c ∧ u = old &&& ~~~y →
      Admits s t i → rdP t.r r = false →
      (c = 0x100 → takes (fits 8 10 24 ∧ homesChannel s t.dom = false) { d with chtab := v, hint := 1 }) ∧
      (c = 0x103 → takes (fits 64 0 20) { d with replog := v, logPos := 0 }) ∧
      (c = 0x106 → takes (fits 512 0 16 ∧ base + 512 * 2 ^ log ≤ 2 ^ 48 ∧ recordPending s t.dom = false)
        { d with trarea := v, lastSlot := none }) ∧
      (c = 0x107 → takes (fits 65536 0 12 ∧ d.imgUsed = [] ∧ d.imgReserved = 0) { d with imgarea := v }) ∧
      (c ∈ [0x002#12, 0x003, 0x004, 0x005, 0x10A] → traps s t i .operandRange 0 0))

/-- R319, R93: an instruction above the strand's privilege raises `privileged` and has no other effect, whatever the
instruction, outside run-ahead and with no opener outstanding. R366, R319, R331: the level that each privileged instruction
needs: S for `eret` and the XLAT forms but `stubq`, which needs H like every PRIV form. R319, R320: a strand of privilege U
that accesses a domain or package CSR traps with `privileged`, and so does one of privilege S that writes imgarea or roothub or
touches an aperture CSR. -/
def Obligations.PrivilegeTraps : Prop :=
  (∀ (s : State) (t : Strand) (i : Instr),
      getStrand s s.cur = some t → t.shadow = none → t.openers = [] → privNum t.priv < privNum (need i).priv →
      traps s t i .privileged 0 0) ∧
  (∀ (d a b : BitVec 5),
      (∀ i ∈ [Instr.eret a, .tlbwInstall d a b, .tlbwSetMissChannel d a b, .tlbinv a b, .tlbinva a, .pgmig d a b, .ownq d a,
          .rfc d a b, .fresume d a], (need i).priv = .s) ∧
      (∀ i ∈ [Instr.stubq d a, .actw d a b, .partwAssign d a b, .partwWithdraw d a b, .partwSetWord d a b, .filtw d a b,
          .ctxsave d a b, .ctxload d a b, .preempt d a, .preemptHalt d a, .tsyncStatus d a b, .tsyncSetReference d a b,
          .tsyncSetTime d a b], (need i).priv = .h)) ∧
  (∀ (s : State) (t : Strand) (r : BitVec 5) (c : BitVec 12) (i : Instr),
      i ∈ [Instr.csrr r c, .csrw r c, .csrs r c, .csrc r c] → getStrand s s.cur = some t → t.shadow = none → t.openers = [] →
      csrWritable c = true →
      (t.priv = .u ∧ 0x100 ≤ c.toNat) ∨ (t.priv = .s ∧ 0x180 ≤ c.toNat) ∨
        (t.priv = .s ∧ (c = 0x107 ∨ c = 0x108) ∧ i ≠ .csrr r c) → traps s t i .privileged 0 0)

/-! Where accesses land. -/

/-- R122 to R127: the windows of a core's addresses, in the fault order of R133: an unmapped address, a misaligned one, an
extent that leaves its window, one beyond the backed S bytes, a neighbour that is not available; otherwise the byte of the
scratchpad. A core's own slot of the cluster window names the same bytes as its scratchpad window. That an unavailable
neighbour comes before an extent beyond its partition is log 12. R128, R133, R352, R353: a global access through an entry of
the L1 TLB: the frame's byte when the entry's rights and, for a store or an atomic, the home slice's access table admit it, and
otherwise the first denial in the order of R133. A load's place is given whatever that table says: the table is asked where the
line is read at the home slice (log 26). -/
def Obligations.AccessPlaces : Prop :=
  (∀ (s : State) (t : Strand) (c : CoreId) (slot : Nat) (off n al k : Nat) (acc : Acc) (va : Word),
      let r : StrandRef := ⟨c, slot⟩
      let own := 0xFF00000000000000 + off
      let near := 0xFF10000000000000 + k * 0x200000 + off
      let x := getCore s (computeId c.die c.clus k)
      let gone := x.failed = true ∨ x.leaving = true ∨ x.dom ≠ some t.dom ∨ x.wordCycle = some s.cycle
      let err (f : Cause) : Prop := locate s r t va n al acc = .error (.trap f 0 va)
      0 < al → watchHit s t va acc = none →
      (2 ^ 56 ≤ va.toNat → va.toNat < 0xFF00000000000000 → err .windowUnmapped) ∧
      (0xFF00000000200000 ≤ va.toNat → va.toNat < 0xFF10000000000000 → err .windowUnmapped) ∧
      (0xFF10000002000000 ≤ va.toNat → err .windowUnmapped) ∧
      (0xFF10000000000000 ≤ va.toNat → c.kind = .hub ∨ c.kind = .duiker → err .windowUnmapped) ∧
      (off < 0x200000 → va.toNat = own →
        (own % al ≠ 0 → err .misaligned) ∧
        (own % al = 0 → 0x200000 < off + n → err .windowCrossing) ∧
        (own % al = 0 → off + n ≤ 0x200000 → spadSize c (getCore s c) < off + n → err .scratchpadBeyondPartition) ∧
        (own % al = 0 → off + n ≤ 0x200000 → off + n ≤ spadSize c (getCore s c) →
          locate s r t va n al acc = .ok (.spad c off, s))) ∧
      (off < 0x200000 → k < 16 → va.toNat = near → c.kind = .compute ∨ c.kind = .markhor →
        (near % al ≠ 0 → err .misaligned) ∧
        (near % al = 0 → 0x200000 < off + n → err .windowCrossing) ∧
        (near % al = 0 → off + n ≤ 0x200000 → gone → err .neighbourUnavailable) ∧
        (near % al = 0 → off + n ≤ 0x200000 → ¬ gone → spadSize (computeId c.die c.clus k) x < off + n → err .scratchpadBeyondPartition) ∧
        (near % al = 0 → off + n ≤ 0x200000 → ¬ gone → off + n ≤ spadSize (computeId c.die c.clus k) x →
          locate s r t va n al acc = .ok (.spad (computeId c.die c.clus k) off, s)))) ∧
  (∀ (s : State) (t : Strand) (r : StrandRef) (n al : Nat) (acc : Acc) (va : Word) (e : TlbEntry),
      let vu := va.toNat / 65536
      let pa := e.frame + (va.toNat - e.vpage * 65536)
      let reads := acc = .load ∨ acc = .atomic
      let writes := acc = .store ∨ acc = .atomic
      let err (f : Cause) : Prop := locate s r t va n al acc = .error (.trap f 0 va)
      let page (c : Cause) : Prop := locate s r t va n al acc = .error (.page c va (acc != .load) false)
      let home := accessBits s 0 ((homeOf pa).1 * 16 + (homeOf pa).2) t.dom
      let denied := (acc = .store ∧ home.getLsbD 1 = false) ∨ (acc = .atomic ∧ home.getLsbD 2 = false)
      0 < al → va.toNat + n ≤ 2 ^ 56 → 0 < n → va.toNat % al = 0 → watchHit s t va acc = none → vu ∉ t.absent →
      (getCore s r.core).tlb.find? (tlbHit t.dom vu) = some e →
      (e.loc = 2 → page .pageNotPresent) ∧
      (e.loc ≠ 2 → reads → privNum t.priv < e.priv ∨ e.r = false → err .permissionRead) ∧
      (e.loc ≠ 2 → writes → (reads → e.r = true) → privNum t.priv < e.priv ∨ e.w = false → (acc = .atomic → e.priv ≤ privNum t.priv) →
        err .permissionWrite) ∧
      (e.priv ≤ privNum t.priv → (reads → e.r = true) → (writes → e.w = true) →
        (e.loc = 1 → page .pageNotLocal) ∧
        (e.loc = 0 → frameExists s pa = true → denied → err .accessTableDenied) ∧
        (e.loc = 0 → frameExists s pa = true → ¬ denied → locate s r t va n al acc = .ok (.mem pa, s))))

/-! Loads and stores. -/

/-- R136, R247, R134: `ld` with LA 0 and `ldacq` write to D the bytes read at their place, sign- or zero-extended, with their
poison; `ldacq`, once the strand's earlier reads are done, then acquires at its scope. -/
def Obligations.LoadResults : Prop :=
  ∀ (s s1 s2 : State) (t : Strand) (d a : BitVec 5) (ty : BitVec 3) (off : BitVec 7) (off6 : BitVec 6) (size scope : BitVec 2)
    (l : Loc) (bs : List Byte) (p : Bool),
    let n : Nat := [1, 2, 4, 8, 1, 2, 4][ty.toNat]!
    let va := rd t.r a + BitVec.ofInt 64 (off.toInt * n)
    let m : Nat := 2 ^ size.toNat
    let vq := rd t.r a + BitVec.ofInt 64 (off6.toInt * m)
    (Admits s t (.ld d a ty off 0) → ty.toNat < 7 → rdP t.r a = false → locate s s.cur t va n n .load = .ok (l, s1) →
      reads s1 t 0 l n bs p s2 →
      exec (.ld d a ty off 0) s = .next (goesOn s2 t (.ld d a ty off 0) (wr t.r d (loaded (decide (ty.toNat ≤ 3)) bs) p))) ∧
    (Admits s t (.ldacq d a size scope off6) → readsDone s t = true → rdP t.r a = false →
      locate s s.cur t vq m m .load = .ok (l, s1) → reads s1 t (min scope.toNat 2) l m bs p s2 →
      exec (.ldacq d a size scope off6) s = .next (goesOn (acquire s2 s.cur.core scope.toNat) t (.ldacq d a size scope off6)
        (wr t.r d (loaded true bs) p)))

/-- R130 to R132, R134: what a read of bytes within one 64-byte block finds: scratchpad bytes with the poison of their words; a
line of the L1; else a line of the cluster cache filled since the core's last acquire that covers it; else the home slice,
whose line the two caches then hold. A cached copy whose check value does not match is poisoned, and the read meets
`check-value-mismatch` (R389); a withdrawn device of the capacity tier answers poisoned (R392). With no posted write of the
strand outstanding there. The stores of the cluster that have passed its cache on that line reach the home slice before the
line is read there; otherwise the package's memory is as before. R132: a strand's load of bytes that its latest posted store
covers returns that store's bytes, whatever lies below, from the moment of its issue, when no cache has seen it yet. -/
def Obligations.ReadPath : Prop :=
  (∀ (s : State) (c k : CoreId) (uid limit o n a : Nat) (x : CLine),
      let bytes (x : CLine) : List Byte := ((lineBytes x.data).drop (a % 64)).take n
      let find (l : Loc) : List Byte × Bool × Option Cause × State := readLoc s c uid limit 0 l n
      let l1 := aget (getCore s c).l1 (a / 64)
      let cc := aget (getClus s c.die c.clus).cc (a / 64)
      let stamp := max (getCore s c).acq ((aget (getCore s c).regAcq (a / 64)).getD 0)
      0 < n → (∀ p ∈ s.pend, p.uid ≠ uid) →
      (o % 64 + n ≤ 64 → (getCore s k).spadBad = [] →
        find (.spad k o) = (memBytes (getCore s k).spad o n,
          (rangeFrom o n).any (fun b => setHas (getCore s k).spadPois (b / 8)), none, s)) ∧
      (a % 64 + n ≤ 64 → c.kind = .hub ∨ c.kind = .duiker → s.memBad = [] →
        find (.mem a) = (memBytes s.mem a n, setHas s.memPois (a / 64) || tierDead s (64 * (a / 64)), none, s)) ∧
      (a % 64 + n ≤ 64 → c.kind = .compute ∨ c.kind = .markhor →
        (l1 = some x → x.bad = false → find (.mem a) = (bytes x, x.pois, none, s)) ∧
        (l1 = some x → x.bad = true → ∃ s', find (.mem a) = (bytes x, true, some .checkValueMismatch, s') ∧ s'.mem = s.mem) ∧
        (l1 = none → cc = some x → x.bad = false → stamp ≤ x.fill → ∃ s', find (.mem a) = (bytes x, x.pois, none, s') ∧ s'.mem = s.mem) ∧
        (l1 = none → (cc = none ∨ ∃ x, cc = some x ∧ x.fill < stamp) → s.memBad = [] →
          (∀ p ∈ s.pend, p.passed ≠ 0 → ∃ bs, p.work = .store bs) →
          ∃ s' y, find (.mem a) = (memBytes s'.mem a n, setHas s'.memPois (a / 64) || tierDead s (64 * (a / 64)), none, s') ∧
            s'.pend = s.pend.filter (fun p => (passedOn s c.die c.clus (a / 64)).all (fun q => q.seq != p.seq)) ∧
            (passedOn s c.die c.clus (a / 64) = [] → s'.mem = s.mem) ∧
            lineBytes y.data = memBytes s'.mem (a / 64 * 64) 64 ∧ y.fill = s.cycle ∧
            aget (getCore s' c).l1 (a / 64) = some y ∧ aget (getClus s' c.die c.clus).cc (a / 64) = some y))) ∧
  (∀ (s : State) (c : CoreId) (uid limit n : Nat) (l : Loc) (p : PWrite) (ps : List PWrite) (bs : List (Byte × Bool)),
      s.pend = ps ++ [p] → p.uid = uid → p.passed = 0 → p.seq < limit → p.loc = l → p.work = .store (bs.map some) → bs.length = n → 0 < n →
      blockOff l + n ≤ 64 → (readLoc s c uid limit 0 l n).1 = bs.map (fun b => b.1))

/-- R137, R248, R132: `st` and `strel` post their bytes at their place and go on; a `strel` is held until every earlier access
of the strand is done at the point of its scope, a plain store only behind the strand's last releases. R137, R134: at
STORE_ARRIVAL a posted store that may land writes exactly its bytes: every other byte of package memory, of host memory and of
every scratchpad reads as before, and the store is outstanding no more. That a store lands in one step is log 10. -/
def Obligations.StoreResults : Prop :=
  (∀ (s s1 : State) (t : Strand) (d a : BitVec 5) (ty : BitVec 3) (off : BitVec 7) (off6 : BitVec 6) (size scope : BitVec 2) (l : Loc),
      let n : Nat := [1, 2, 4, 8][ty.toNat % 4]!
      let va := rd t.r a + BitVec.ofInt 64 (off.toInt * n)
      let m : Nat := 2 ^ size.toNat
      let vq := rd t.r a + BitVec.ofInt 64 (off6.toInt * m)
      let post (s1 : State) (i : Instr) (va : Word) (n floor floorC : Nat) : Prop := exec i s = .next (goesOn
        { s1 with uid := s1.uid + 2,
                  pend := s1.pend ++ [⟨s1.uid + 1, s1.uid, s.cur, t.uid, floor, t.pc, va, l, .store (dataBytes t.r d n), floorC, 0⟩] } t i t.r)
      rdP t.r a = false → outstanding s1 t.uid < 32 →
      (Admits s t (.st d a ty off) → locate s s.cur t va n n .store = .ok (l, s1) → blockOff l + n ≤ 64 → 
        post s1 (.st d a ty off) va n t.floor t.floorC) ∧
      (Admits s t (.strel d a size scope off6) → locate s s.cur t vq m m .store = .ok (l, s1) → blockOff l + m ≤ 64 →
        (if scope.toNat ≤ 1 then post s1 (.strel d a size scope off6) vq m t.floor s1.uid
          else post s1 (.strel d a size scope off6) vq m s1.uid t.floorC))) ∧
  (∀ (s : State) (p : PWrite) (bs : List (Option (Byte × Bool))) (seq : Nat),
      s.memWf = true → s.pend.find? (fun q => q.seq == seq) = some p → p.work = .store bs → canLand s p = true →
      (∃ x ∈ bs, x ≠ none) → blockOff p.loc + bs.length ≤ 64 → s.memBad = [] → (∀ a, p.loc = .mem a → tierDead s a = false) →
      let new (a b : Nat) (old : Byte) : Byte := if b < a then old else match bs[b - a]? with | some (some x) => x.1 | _ => old
      ∃ s', exec (.storeArrival seq) s = .next s' ∧ s'.pend = s.pend.filter (fun q => q.seq ≠ seq) ∧ s'.hostMem = s.hostMem ∧
        (∀ a, p.loc = .mem a → (∀ b, memRead s'.mem b = new a b (memRead s.mem b)) ∧
          ∀ k, (getCore s' k).spad = (getCore s k).spad) ∧
        (∀ c o, p.loc = .spad c o → s'.mem = s.mem ∧ (∀ b, memRead (getCore s' c).spad b = new o b (memRead (getCore s c).spad b)) ∧
          ∀ k, k ≠ c → (getCore s' k).spad = (getCore s k).spad))

/-- R97, R99: `ld` and the divisions with a window: the instruction goes on with one opener more and its destination pending,
fewer than eight being outstanding; at LOOKAHEAD_OPENER_COMPLETE the destination is written and the opener is gone. R99, R135:
LOOKAHEAD_OPENER_COMPLETE of a division or a load of a ready or waiting strand writes its destination, s0 never, and takes the
opener away; a division does so once 24 cycles have passed since its issue (R107). -/
def Obligations.OpenerResults : Prop :=
  (∀ (s s1 : State) (t : Strand) (d a b : BitVec 5) (ty : BitVec 3) (off : BitVec 7) (la : BitVec 4) (l : Loc),
      let n : Nat := [1, 2, 4, 8, 1, 2, 4][ty.toNat]!
      let va := rd t.r a + BitVec.ofInt 64 (off.toInt * n)
      let x := rd t.r a
      let y := rd t.r b
      let p := rdP t.r a || rdP t.r b
      la ≠ 0 → t.openers.length < 8 → (∀ q ∈ t.openers, q.id < s.uid) →
      (Admits s t (.ld d a ty off la) → ty.toNat < 7 → rdP t.r a = false → locate s s.cur t va n n .load = .ok (l, s1) →
        loadDenied s1 s.cur.core t.dom 0 l = false →
        exec (.ld d a ty off la) s = .next (opened s1 t (.ld d a ty off la) (pends d) la (.ld l va n (decide (ty.toNat ≤ 3))))) ∧
      (∀ i v, (i, v) ∈ [(Instr.div d a b la, if y = 0 then BitVec.ofInt 64 (-1) else BitVec.ofInt 64 (x.toInt.tdiv y.toInt)),
          (.rem d a b la, if y = 0 then x else BitVec.ofInt 64 (x.toInt - y.toInt * x.toInt.tdiv y.toInt)),
          (.divn d a b la, if y = 0 then 0xFFFFFFFFFFFFFFFF#64 else BitVec.ofNat 64 (x.toNat / y.toNat)),
          (.remn d a b la, if y = 0 then x else BitVec.ofNat 64 (x.toNat % y.toNat))] →
        Admits s t i → exec i s = .next (opened s t i (pends d) la (.div v p (s.cycle + 24))))) ∧
  (∀ (s s2 : State) (r : StrandRef) (t : Strand) (o : Opener) (d : BitVec 5) (id : Nat) (v : Word) (p : Bool) (l : Loc) (va : Word)
      (n due : Nat) (sx : Bool) (bs : List Byte),
      getStrand s r = some t → t.openers.find? (fun o => o.id == id) = some o → o.dest = pends d → (∀ q, t.status ≠ .trapping q) →
      relayedOf s id = none →
      (o.work = .div v p due → (s.cycle < due → exec (.lookaheadOpenerComplete r id) s = .next s) ∧ (due ≤ s.cycle → exec (.lookaheadOpenerComplete r id) s = .next (setStrand s r { t with
        r := wr t.r d v p, openers := t.openers.filter (fun q => q.id ≠ id) }))) ∧
      (o.work = .ld l va n sx → openerReady s r.core t o = true → readLoc s r.core t.uid o.seq 0 l n = (bs, p, none, s2) → bs.length = n →
        exec (.lookaheadOpenerComplete r id) s = .next (setStrand s2 r { t with
          r := wr t.r d (loaded sx bs) p, openers := t.openers.filter (fun q => q.id ≠ id) })))

/-! Fences and atomics. -/

/-- R138: a prefetch changes no register and, but for stores of its cluster that have passed the cluster cache and may reach
home at any time (R131), no memory, no poison and no posted write; `pref.l1` through an L1 TLB entry that lets the strand read
a local page, at a home slice that admits it, leaves the line in the L1; one outside the global window, or that no TLB
translates, changes nothing but the strand's place. R239 to R241, R245: the fences of a strand whose earlier reads are done. An
acquire fence drops what its scope says, at cluster scope with what the cluster's cores had acquired at wider scope (R242, log
25); a release fence holds the strand's later writes behind its earlier accesses; one of both kinds does both; a fence.sc takes
a ticket of the scope's sequencer once its earlier accesses are done at the point of its scope, and completes when it is
granted. The root hub's silence for 100 µs ends it with `remote-timeout`. -/
def Obligations.PrefetchAndFenceResults : Prop :=
  (∀ (s : State) (t : Strand) (a : BitVec 5) (ty : BitVec 3) (off : BitVec 7),
      let va := rd t.r a + BitVec.ofInt 64 (off.toInt * 8)
      let line (e : TlbEntry) : Nat := (e.frame + (va.toNat - e.vpage * 65536)) / 64
      Admits s t (.pref a ty off) → rdP t.r a = false →
      (∃ s', exec (.pref a ty off) s = .next s' ∧ (∀ e, ty = 0 → va.toNat < 2 ^ 56 → s.cur.core.kind = .compute → s.memBad = [] →
          (getCore s s.cur.core).tlb.find? (tlbHit t.dom (va.toNat / 65536)) = some e → e.loc = 0 → e.r = true →
          e.priv ≤ privNum t.priv → frameExists s (paOf e va) = true → homeAdmits s (paOf e va) t.dom .load = true →
          (aget (getCore s' s.cur.core).l1 (line e)).isSome = true) ∧
        ((∀ p ∈ s.pend, p.passed = 0) → s'.mem = s.mem ∧ s'.memPois = s.memPois ∧ s'.pend = s.pend) ∧
        ∃ u, getStrand s' s.cur = some u ∧ u.r = t.r ∧ u.pc = t.pc + 4 ∧ u.status = .ready) ∧
      (2 ^ 56 ≤ va.toNat ∨ tlbLookup s (strandAgent s.cur t) (va.toNat / 65536) = none →
        exec (.pref a ty off) s = .next (goesOn s t (.pref a ty off) t.r))) ∧
  (∀ (s : State) (t : Strand) (scope : BitVec 2) (q : Ticket),
      let n := scope.toNat
      let c := s.cur.core
      let near := clusStamps s c
      let dropsL1 : Core → Core := fun k => if n = 0 then k else if n = 1 then { k with l1 := [], acq := near.1, regAcq := near.2 }
        else { k with l1 := [], acq := s.cycle, regAcq := [], icache := [] }
      let hub := c.kind = .hub ∨ c.kind = .duiker
      let acquired (s : State) : State := if hub then (if 2 ≤ n then updCore s c (fun k => { k with icache := [] }) else s)
        else if n = 0 then s else updCore s c dropsL1
      let held : Strand := if n ≤ 1 then { t with floorC := s.uid } else { t with floor := s.uid }
      (Admits s t (.fence 0 scope) → readsDone s t = true → exec (.fence 0 scope) s = .next (goesOn (acquired s) t (.fence 0 scope) t.r)) ∧
      (Admits s t (.fence 1 scope) → exec (.fence 1 scope) s = .next (goesOn s held (.fence 1 scope) t.r)) ∧
      (Admits s t (.fence 2 scope) → readsDone s t = true → exec (.fence 2 scope) s = .next (goesOn (acquired s) held (.fence 2 scope) t.r)) ∧
      (Admits s t (.fence 3 scope) → readsDone s t = true → belowDone s c t.uid s.uid t.openers n = true →
        (t.ticket = some true →
          exec (.fence 3 scope) s = .next (goesOn (acquired s) { held with ticket := none } (.fence 3 scope) t.r)) ∧
        (t.ticket = none → (n = 3 → (getDom s t.dom).roothub.getLsbD 12 = true) → (∀ p ∈ s.tickets, p.ref ≠ s.cur) →
          exec (.fence 3 scope) s = .next (setStrand
            { s with tickets := s.tickets ++ [⟨n, sequencerOf c n, s.cur, s.cys.now, s.cycle⟩] } s.cur
            { t with status := .waiting (.ticket n s.cys.now), inside := true })) ∧
        (t.ticket = some false → exec (.fence 3 scope) s = .next (raiseTrap s s.cur { t with ticket := none }
          (trapReq s .remoteTimeout 0 0 t.pc t.pc (Instr.fence 3 scope).word0)))) ∧
      (getStrand s q.ref = some t → s.tickets.find? (fun p => p.ref == q.ref) = some q →
        let rest := { s with tickets := s.tickets.filter (fun p => p.ref ≠ q.ref) }
        ((∀ p ∈ s.tickets, p.inst = q.inst → ticketBefore s p q = false) →
          exec (.fenceTicketGrant q.ref) s = .next (setStrand rest q.ref { t with ticket := some true })) ∧
        (q.scope = 3 → q.time + 100000 ≤ s.cys.now →
          exec (.fenceTicketTimeout q.ref) s = .next (setStrand rest q.ref { t with ticket := some false }))))

namespace Sys2Proof.Says

/-- The word that atomic operation `fn` leaves where `o` stood (R147), on words of `w` bits; `c64` is the whole of C. -/
def atomicWord (fn w : Nat) (o b c : BitVec w) (c64 : Word) : BitVec w :=
  match fn with
  | 0 => o + b
  | 1 => if b.toInt < o.toInt then b else o
  | 2 => if b.toNat < o.toNat then b else o
  | 3 => if o.toInt < b.toInt then b else o
  | 4 => if o.toNat < b.toNat then b else o
  | 5 => o &&& b
  | 6 => o ||| b
  | 7 => o ^^^ b
  | 8 => b
  | 9 => if o = b then c else o
  | 10 => BitVec.ofNat w (fadd fmtF32 .rne o.toNat b.toNat).1
  | 11 => BitVec.ofNat w (fminmax fmtF32 false o.toNat b.toNat)
  | 12 => BitVec.ofNat w (fminmax fmtF32 true o.toNat b.toNat)
  | 13 => (o &&& ~~~c) ||| (b &&& c)
  | 14 => match (List.range w).find? (fun i => (b &&& ~~~o).getLsbD i) with | some i => o ||| (1#w <<< i) | none => o
  | _ => if ((List.range w).filter (fun i => (o ||| b).getLsbD i)).length ≤ c64.toNat then o ||| b else o

/-- What a returning atomic writes to D (R147). -/
def atomicReturn (fn w : Nat) (o b : BitVec w) : Word :=
  if fn = 14 then (match (List.range w).find? (fun i => (b &&& ~~~o).getLsbD i) with
    | some i => BitVec.ofNat 64 i | none => BitVec.ofInt 64 (-1))
  else if fn ∈ [2, 4, 10, 11, 12] then o.setWidth 64 else o.signExtend 64

/-- The AMO forms, by FN (R147). -/
def amoForms (d a b c : BitVec 5) (scope : BitVec 2) (size nr : BitVec 1) (la : BitVec 4) : List Instr :=
  [.amoAdd d a b c scope size nr la, .amoMin d a b c scope size nr la, .amoMinn d a b c scope size nr la,
   .amoMax d a b c scope size nr la, .amoMaxn d a b c scope size nr la, .amoAnd d a b c scope size nr la,
   .amoOr d a b c scope size nr la, .amoXor d a b c scope size nr la, .amoExch d a b c scope size nr la,
   .amoCas d a b c scope size nr la, .amoFadd d a b c scope size nr la, .amoFmin d a b c scope size nr la,
   .amoFmax d a b c scope size nr la, .amoIns d a b c scope size nr la, .amoFfcs d a b c scope size nr la,
   .amoPset d a b c scope size nr la]

/-- Between `s` and `s'` the `n` bytes at `l` became the little-endian bytes of `v`; every other byte of package memory, of host
memory and of every scratchpad reads as before. -/
def wroteWord (s s' : State) (l : Loc) (n v : Nat) : Prop :=
  s'.hostMem = s.hostMem ∧
  (match l with
   | .mem a => memBytes s'.mem a n = leBytes n v ∧ (∀ b, b < a ∨ a + n ≤ b → memRead s'.mem b = memRead s.mem b) ∧
     ∀ k, (getCore s' k).spad = (getCore s k).spad
   | .spad c o => memBytes (getCore s' c).spad o n = leBytes n v ∧ s'.mem = s.mem ∧
     (∀ b, b < o ∨ o + n ≤ b → memRead (getCore s' c).spad b = memRead (getCore s c).spad b) ∧
     ∀ k, k ≠ c → (getCore s' k).spad = (getCore s k).spad)

/-- The `n` bytes at a place, as they stand. -/
def wordThere (s : State) (l : Loc) (n : Nat) : Nat :=
  match l with | .mem a => leNat (memBytes s.mem a n) | .spad c o => leNat (memBytes (getCore s c).spad o n)

/-- The state in which an atomic of the core `c` on `l` finds its home: the stores of its cluster that have passed the cluster cache
on that line are there first (R131). -/
def flushed (s : State) (c : CoreId) (l : Loc) : State := match l with | .mem a => flushLine s c.die c.clus (a / 64) | .spad _ _ => s

/-- A word at the place has no poison and no error. -/
def sound (s : State) (l : Loc) : Prop :=
  s.memBad = [] ∧ match l with
    | .mem a => setHas s.memPois (a / 64) = false ∧ tierDead s a = false
    | .spad c o => (getCore s c).spadBad = [] ∧ setHas (getCore s c).spadPois (o / 8) = false

end Sys2Proof.Says

/-- R147: a returning atomic with LA 0, none of whose operands is poisoned and that no earlier access of the strand holds back:
D takes the old word as the operation says, and the word becomes the new one; no other byte of memory changes. R147, R149: an
atomic that returns nothing is posted, and one with a window becomes an opener; both invalidate the line in the L1 of a core
that has one. ATOMIC_EXECUTE applies a posted one, LOOKAHEAD_OPENER_COMPLETE an opener, with the same effect. That an atomic
acts in one step is log 11. -/
def Obligations.AtomicResults : Prop :=
  (∀ (s s1 : State) (t : Strand) (d a b c : BitVec 5) (scope : BitVec 2) (size : BitVec 1) (fn : Fin 16) (l : Loc),
      let i := (amoForms d a b c scope size 0 0)[fn.val]?.getD .nop
      let n : Nat := if size = 1 then 8 else 4
      let w := 8 * n
      let va := rd t.r a
      let s0 := flushed s1 s.cur.core l
      let o : BitVec w := BitVec.ofNat w (wordThere s0 l n)
      let cut (x : Word) : BitVec w := x.setWidth w
      Admits s t i → amoBlocked s1 s.cur.core t l n = false → (∀ x ∈ s.seen, x.id ≠ .next t.uid) → s0.memWf = true →
      rdP t.r a = false → rdP t.r b = false → rdP t.r c = false → (fn.val ∈ [10, 11, 12] → size = 0) →
      (s.cur.core.kind = .hub ∨ s.cur.core.kind = .duiker → 2 ≤ scope.toNat ∨ 2 ^ 56 ≤ va.toNat) →
      locate s s.cur t va n n .atomic = .ok (l, s1) → blockOff l % n = 0 → sound s0 l →
      ∃ s' u, exec i s = .next s' ∧
        wroteWord s0 s' l n (atomicWord fn.val w o (cut (rd t.r b)) (cut (rd t.r c)) (rd t.r c)).toNat ∧
        getStrand s' s.cur = some u ∧ u.r = wr t.r d (atomicReturn fn.val w o (cut (rd t.r b))) false ∧
        u.pc = t.pc + 12 ∧ u.status = .ready ∧ u.openers = t.openers.map tickOpener ∧ s'.pend = s0.pend) ∧
  (∀ (s s1 : State) (t : Strand) (d a b c : BitVec 5) (scope : BitVec 2) (size : BitVec 1) (la : BitVec 4) (fn : Fin 16) (l : Loc)
      (p : PWrite) (opn : Opener) (r : StrandRef) (x y : Word) (wide : Bool),
      let i := (amoForms 0 a b c scope size 1 0)[fn.val]?.getD .nop
      let j := (amoForms d a b c scope size 0 la)[fn.val]?.getD .nop
      let n : Nat := if size = 1 then 8 else 4
      let m : Nat := if wide then 8 else 4
      let va := rd t.r a
      let clean := rdP t.r a = false ∧ rdP t.r b = false ∧ rdP t.r c = false ∧ (fn.val ∈ [10, 11, 12] → size = 0) ∧
        (s.cur.core.kind = .hub ∨ s.cur.core.kind = .duiker → 2 ≤ scope.toNat ∨ 2 ^ 56 ≤ va.toNat)
      let w := 8 * m
      let o (s : State) : BitVec w := BitVec.ofNat w (wordThere s l m)
      let cut (x : Word) : BitVec w := x.setWidth w
      let new (s : State) : Nat := (atomicWord fn.val w (o s) (cut x) (cut y) y).toNat
      (Admits s t i → clean → locate s s.cur t va n n .atomic = .ok (l, s1) → outstanding s1 t.uid < 32 →
        let s2 := dropL1 s1 s.cur.core l
        exec i s = .next (goesOn { s2 with uid := s2.uid + 1, pend := s2.pend ++ [⟨s2.uid, s2.uid, s.cur, t.uid, t.floor, t.pc, va, l,
          .atomic fn.val (decide (size = 1)) scope.toNat (rd t.r b) (rd t.r c), t.floorC, 0⟩] } t i t.r)) ∧
      (Admits s t j → clean → locate s s.cur t va n n .atomic = .ok (l, s1) → la ≠ 0 → t.openers.length < 8 →
        (∀ q ∈ t.openers, q.id < s.uid) → exec j s = .next (opened (dropL1 s1 s.cur.core l) t j (pends d) la
          (.amo l va fn.val (decide (size = 1)) scope.toNat (rd t.r b) (rd t.r c)))) ∧
      (let s0 := flushed { s with pend := s.pend.filter (fun q => q.seq != p.seq) } p.ref.core l;
        s0.memWf = true → s.pend.find? (fun q => q.seq == p.seq) = some p → p.loc = l → canLand s p = true → blockOff l % m = 0 →
        sound s0 l → relayedOf s p.seq = none → (∀ z ∈ s.seen, z.id ≠ .own p.seq) → p.work = .atomic fn.val wide scope.toNat x y →
        ∃ s', exec (.atomicExecute p.seq) s = .next s' ∧ wroteWord s0 s' l m (new s0) ∧ s'.pend = s0.pend) ∧
      (let s0 := flushed s r.core l;
        s0.memWf = true → getStrand s r = some t → t.openers.find? (fun q => q.id == opn.id) = some opn → opn.dest = pends d →
        (∀ q, t.status ≠ .trapping q) → openerReady s r.core t opn = true → blockOff l % m = 0 → sound s0 l →
        relayedOf s opn.id = none → (∀ z ∈ s.seen, z.id ≠ .own opn.id) → opn.work = .amo l va fn.val wide scope.toNat x y →
        ∃ s' u, exec (.lookaheadOpenerComplete r opn.id) s = .next s' ∧ wroteWord s0 s' l m (new s0) ∧ getStrand s' r = some u ∧
          u.r = wr t.r d (atomicReturn fn.val w (o s0) (cut x)) false ∧ u.openers = t.openers.filter (fun q => q.id ≠ opn.id)))

/-! Vectors. -/

namespace Sys2Proof.Says

/-- Element `e` of vector register `n`, `w` bits wide (R33, R252). -/
def elem (t : Strand) (n : BitVec 5) (w e : Nat) : Nat := elemOf (vreg t.r n).bits w e

/-- The segment of element `e` of vector register `n` is poisoned (R339). -/
def pois (t : Strand) (n : BitVec 5) (w e : Nat) : Bool := (vreg t.r n).pois.getLsbD (w * e / 64)

/-- The governing predicate's bit `e` (R253). -/
def active (t : Strand) (p : BitVec 3) (e : Nat) : Bool := (preg t.r p.toNat).getLsbD e

/-- Tag code of a vector register (R33). -/
def tagOf (t : Strand) (n : BitVec 5) : Nat := (vreg t.r n).tag.toNat

/-- `x` is a register rewritten from `old` element by element (R253, R255): where `act` holds, element `e` is `val e` cut to `w`
bits; elsewhere it is zero under zeroing and keeps its value under merging. A segment is poisoned when an active element of it
takes poison, or when it was poisoned and under merging keeps an element. -/
def rewritten (old x : VReg) (w : Nat) (tag : BitVec 5) (z : Bool) (act : Nat → Bool) (val : Nat → Nat) (pz : Nat → Bool) : Prop :=
  x.tag = tag ∧
  (∀ e < 512 / w, elemOf x.bits w e = if act e then val e % 2 ^ w else if z then 0 else elemOf old.bits w e) ∧
  ∀ k < 8, x.pois.getLsbD k = true ↔ (∃ e < 512 / w, w * e / 64 = k ∧ act e = true ∧ pz e = true) ∨
    (z = false ∧ old.pois.getLsbD k = true ∧ ∃ e < 512 / w, w * e / 64 = k ∧ act e = false)

/-- The flags `g` are those that some active element raises (R45). -/
def raises (g : Flags) (n : Nat) (act : Nat → Bool) (fl : Nat → Flags) : Prop :=
  ∀ k < 5, g.getLsbD k = true ↔ ∃ e < n, act e = true ∧ (fl e).getLsbD k = true

/-- An admitted `i` rewrites vector register `d` element by element under predicate `p`, ORs the flags of its active elements into
fctl, and changes nothing else. -/
def vgives (s : State) (t : Strand) (i : Instr) (d : BitVec 5) (p : BitVec 3) (z : BitVec 1) (w : Nat) (tag : BitVec 5)
    (val : Nat → Nat) (fl : Nat → Flags) (pz : Nat → Bool) : Prop :=
  Admits s t i → ∃ x g, exec i s = .next (goesOn s t i { t.r with v := t.r.v.set d.toNat x, fctl := t.r.fctl ||| g.setWidth 64 }) ∧
    rewritten (vreg t.r d) x w tag (decide (z = 1)) (active t p) val pz ∧ raises g (512 / w) (active t p) fl

/-- An integer element as its tag reads it (R258). -/
def ival (tag w x : Nat) : Int := if tag ∈ [1, 3, 5, 7] then (BitVec.ofNat w x).toInt else Int.ofNat (x % 2 ^ w)

/-- An integer cut to `w` bits. -/
def cut (w : Nat) (x : Int) : Nat := (BitVec.ofInt w x).toNat

end Sys2Proof.Says

/-- R258: the integer forms on registers of one integer tag: every element is the exact result modulo its width, a shift uses the
amount modulo the width and copies the sign of signed tags, `vmin` and `vmax` compare as the tag reads, the most negative
element is its own absolute value; no flag is raised. -/
def Obligations.VectorIntegerResults : Prop :=
  ∀ (s : State) (t : Strand) (d a b : BitVec 5) (p : BitVec 3) (z : BitVec 1),
    let g := tagOf t a
    let w := [8, 8, 16, 16, 32, 32, 64][g - 1]!
    let x (e : Nat) : Int := ival g w (elem t a w e)
    let y (e : Nat) : Int := ival g w (elem t b w e)
    let c (e : Nat) : Int := ival g w (elem t d w e)
    let k (e : Nat) : Nat := elem t b w e % w
    let gives1 (i : Instr) (v : Nat → Int) : Prop :=
      vgives s t i d p z w (vreg t.r a).tag (fun e => cut w (v e)) (fun _ => 0) (fun e => pois t a w e)
    let gives2 (i : Instr) (v : Nat → Int) : Prop :=
      vgives s t i d p z w (vreg t.r a).tag (fun e => cut w (v e)) (fun _ => 0) (fun e => pois t a w e || pois t b w e)
    1 ≤ g ∧ g ≤ 7 → tagOf t b = g →
    gives2 (.vadd d a b p z) (fun e => x e + y e) ∧ gives2 (.vsub d a b p z) (fun e => x e - y e) ∧
    gives2 (.vmul d a b p z) (fun e => x e * y e) ∧ gives2 (.vmin d a b p z) (fun e => min (x e) (y e)) ∧
    gives2 (.vmax d a b p z) (fun e => max (x e) (y e)) ∧ gives2 (.vshl d a b p z) (fun e => x e * 2 ^ k e) ∧
    gives2 (.vshr d a b p z) (fun e => x e / 2 ^ k e) ∧ gives1 (.vneg d a p z) (fun e => -x e) ∧
    (g % 2 = 1 → gives1 (.vabs d a p z) (fun e => if x e < 0 then -x e else x e)) ∧
    (tagOf t d = g → vgives s t (.vfma d a b p z) d p z w (vreg t.r a).tag (fun e => cut w (x e * y e + c e)) (fun _ => 0)
      (fun e => pois t a w e || pois t b w e || pois t d w e))

/-- R258, R45, R46: the float forms on registers of one of the tags f16, bf16 and f32: each active element is the operation's
result of its elements in the mode of fctl, and fctl gains the flags that the active elements raise.
Undecided cases of `vexp2` are free (log 6); the flag of 0 × ∞ with a NaN addend is log 24. -/
def Obligations.VectorFloatResults : Prop :=
  ∀ (s : State) (t : Strand) (d a b : BitVec 5) (p : BitVec 3) (z : BitVec 1),
    let g := tagOf t a
    let f := if g = 10 then fmtF16 else if g = 11 then fmtBf16 else fmtF32
    let w := if g = 12 then 32 else 16
    let m := rmOf t.r
    let x (e : Nat) : Nat := elem t a w e
    let y (e : Nat) : Nat := elem t b w e
    let gives1 (i : Instr) (v : Nat → Nat × Flags) : Prop :=
      vgives s t i d p z w (vreg t.r a).tag (fun e => (v e).1) (fun e => (v e).2) (fun e => pois t a w e)
    let gives2 (i : Instr) (v : Nat → Nat × Flags) : Prop :=
      vgives s t i d p z w (vreg t.r a).tag (fun e => (v e).1) (fun e => (v e).2) (fun e => pois t a w e || pois t b w e)
    10 ≤ g ∧ g ≤ 12 → tagOf t b = g →
    gives2 (.vadd d a b p z) (fun e => fadd f m (x e) (y e)) ∧ gives2 (.vsub d a b p z) (fun e => fsub f m (x e) (y e)) ∧
    gives2 (.vmul d a b p z) (fun e => fmul f m (x e) (y e)) ∧ gives2 (.vdiv d a b p z) (fun e => fdiv f m (x e) (y e)) ∧
    gives2 (.vmin d a b p z) (fun e => (fminmax f false (x e) (y e), 0)) ∧
    gives2 (.vmax d a b p z) (fun e => (fminmax f true (x e) (y e), 0)) ∧
    gives1 (.vabs d a p z) (fun e => (if fdec f (x e) = .nan then fnan f else x e % 2 ^ (w - 1), 0)) ∧
    gives1 (.vneg d a p z) (fun e => (if fdec f (x e) = .nan then fnan f else (x e + 2 ^ (w - 1)) % 2 ^ w, 0)) ∧
    gives1 (.vrcp d a p z) (fun e => fdiv f m (f.bias * 2 ^ f.mw) (x e)) ∧ gives1 (.vrsq d a p z) (fun e => frsq f m (x e)) ∧
    gives1 (.vexp2 d a p z) (fun e => fexp2 g f m (x e)) ∧
    (tagOf t d = g → vgives s t (.vfma d a b p z) d p z w (vreg t.r a).tag (fun e => (ffma f m (x e) (y e) (elem t d w e)).1)
      (fun e => (ffma f m (x e) (y e) (elem t d w e)).2) (fun e => pois t a w e || pois t b w e || pois t d w e))

/-- R258, R260 to R262, R52: the bitwise forms by bytes or elements of the common tag, `vsel`, `vperm`, `vbcast`, and `vdot` lane by
lane. -/
def Obligations.VectorMoveResults : Prop :=
  ∀ (s : State) (t : Strand) (d a b code : BitVec 5) (p : BitVec 3) (z : BitVec 1),
    let tag : BitVec 5 := if (vreg t.r a).tag = (vreg t.r b).tag then (vreg t.r a).tag else 0
    let w := unitWidth tag.toNat
    let wa := tagWidth (tagOf t a)
    let both (e : Nat) : Bool := pois t a w e || pois t b w e
    let idx (e : Nat) : Nat := elem t b wa e % (512 / wa)
    let lanes (q : BitVec 5) (n : Nat) (e j : Nat) : Nat := elem t q n (32 / n * e + j)
    vgives s t (.vand d a b p z) d p z w tag (fun e => elem t a w e &&& elem t b w e) (fun _ => 0) both ∧
    vgives s t (.vor d a b p z) d p z w tag (fun e => elem t a w e ||| elem t b w e) (fun _ => 0) both ∧
    vgives s t (.vxor d a b p z) d p z w tag (fun e => elem t a w e ^^^ elem t b w e) (fun _ => 0) both ∧
    ((vreg t.r a).tag = (vreg t.r b).tag → Admits s t (.vsel d a b p) → ∃ x,
      exec (.vsel d a b p) s = .next (goesOn s t (.vsel d a b p) { t.r with v := t.r.v.set d.toNat x }) ∧
      rewritten (vreg t.r d) x w tag true (fun _ => true) (fun e => if active t p e then elem t a w e else elem t b w e)
        (fun e => if active t p e then pois t a w e else pois t b w e)) ∧
    (tagOf t a ≤ 12 ∨ tagOf t a = 14 → 1 ≤ tagOf t b ∧ tagOf t b ≤ 7 → tagWidth (tagOf t b) = wa →
      vgives s t (.vperm d a b p z) d p z wa (vreg t.r a).tag (fun e => elem t a wa (idx e)) (fun _ => 0)
        (fun e => pois t a wa (idx e) || pois t b wa e)) ∧
    ((1 ≤ code.toNat ∧ code.toNat ≤ 12) ∨ code = 14 →
      vgives s t (.vbcast d a code p z) d p z (tagWidth code.toNat) code (fun _ => (rd t.r a).toNat) (fun _ => 0)
        (fun _ => rdP t.r a)) ∧
    (tagOf t a = 1 → tagOf t b = 1 → tagOf t d = 5 → vgives s t (.vdot d a b p z) d p z 32 5
      (fun e => cut 32 (ival 5 32 (elem t d 32 e) + ((List.range 4).map (fun j => ival 1 8 (lanes a 8 e j) * ival 1 8 (lanes b 8 e j))).sum))
      (fun _ => 0) (fun e => pois t a 32 e || pois t b 32 e || pois t d 32 e)) ∧
    (tagOf t a = 11 → tagOf t b = 11 → tagOf t d = 12 → vgives s t (.vdot d a b p z) d p z 32 12
      (fun e => (dotLane 11 (vreg t.r a).bits (vreg t.r b).bits (elem t d 32 e) e).1)
      (fun e => (dotLane 11 (vreg t.r a).bits (vreg t.r b).bits (elem t d 32 e) e).2)
      (fun e => pois t a 32 e || pois t b 32 e || pois t d 32 e))

/-- R259, R268, R253: the compares write to predicate D, bit by bit, what they find of active elements, zero or the old bit
elsewhere; the predicate forms; p0 is never changed. A NaN compares false. -/
def Obligations.PredicateResults : Prop :=
  ∀ (s : State) (t : Strand) (d a b : BitVec 5) (p : BitVec 3) (z : BitVec 1),
    let g := tagOf t a
    let w := tagWidth g
    let n := 512 / w
    let x (e : Nat) : Int := ival g w (elem t a w e)
    let y (e : Nat) : Int := ival g w (elem t b w e)
    let f := tagFmt g
    let fx (e : Nat) : FVal := fdec f (elem t a w e)
    let fy (e : Nat) : FVal := fdec f (elem t b w e)
    let P (k : BitVec 5) : Word := preg t.r k.toNat
    let sets (i : Instr) (v : Word) : Prop := Admits s t i → exec i s = .next (goesOn s t i (wrP t.r d.toNat v))
    let cmp (i : Instr) (c : Nat → Bool) : Prop := ∃ v : Word, sets i v ∧ ∀ e < 64, v.getLsbD e =
      (if n ≤ e then false else if active t p e then c e else if z = 1 then false else (P d).getLsbD e)
    let clean := ∀ e < n, active t p e = true → pois t a w e = false ∧ pois t b w e = false
    (1 ≤ g → g ≤ 7 → tagOf t b = g → clean →
      cmp (.vceq d a b p z) (fun e => decide (x e = y e)) ∧ cmp (.vclt d a b p z) (fun e => decide (x e < y e)) ∧
      cmp (.vcle d a b p z) (fun e => decide (x e ≤ y e))) ∧
    (10 ≤ g → g ≤ 12 → tagOf t b = g → clean →
      cmp (.vceq d a b p z) (fun e => fcmpEq (fx e) (fy e)) ∧ cmp (.vclt d a b p z) (fun e => fcmpLt (fx e) (fy e)) ∧
      cmp (.vcle d a b p z) (fun e => fcmpLt (fx e) (fy e) || fcmpEq (fx e) (fy e))) ∧
    sets (.pand d a b) (P a &&& P b) ∧ sets (.por d a b) (P a ||| P b) ∧ sets (.pnot d a) (~~~(P a)) ∧
    (rdP t.r a = false → sets (.pset d a) (rd t.r a)) ∧
    (Admits s t (.pset d a) → rdP t.r a = true → traps s t (.pset d a) .poisonConsumed (BitVec.ofNat 64 a.toNat) 0) ∧
    gives s t (.pcnt d a) d (BitVec.ofNat 64 ((List.range 64).filter (fun i => (P a).getLsbD i)).length) false ∧
    gives s t (.pfirst d a) d (match (List.range 64).find? (fun i => (P a).getLsbD i) with
      | some i => BitVec.ofNat 64 i | none => BitVec.ofInt 64 (-1)) false ∧
    (∀ v, wrP t.r 0 v = t.r)

namespace Sys2Proof.Says

/-- The tree of R51 over `2 ^ k` lanes: lane i with lane i + half, then again on the halves. -/
def tree (f : Nat → Nat → Nat × Flags) : Nat → (Nat → Nat) → Nat × Flags
  | 0, l => (l 0, 0)
  | k + 1, l =>
    let half := 2 ^ k
    let step (i : Nat) : Nat × Flags := f (l i) (l (i + half))
    let r := tree f k (fun i => (step i).1)
    (r.1, (List.range half).foldl (fun g i => g ||| (step i).2) r.2)

end Sys2Proof.Says

/-- R51, R263: a reduction combines the lanes by the tree of R51, an inactive lane counting as the identity of its form (a
sum's identity for floats is −0), into element 0; the rest of D is zero, poisoned in segment 0 when an active lane is. R264:
`vins` replaces one element, `vext` reads one, sign-extended for signed tags; an element number beyond the register raises
`operand-range`, a poisoned one `poison-consumed`. -/
def Obligations.ReductionAndElementResults : Prop :=
  (∀ (s : State) (t : Strand) (d a : BitVec 5) (p : BitVec 3),
      let g := tagOf t a
      let w := tagWidth g
      let k := Nat.log2 (512 / w)
      let f := tagFmt g
      let red (i : Instr) (ident : Nat) (h : Nat → Nat → Nat × Flags) : Prop :=
        let r := tree h k (fun e => if active t p e then elem t a w e else ident)
        let pz := (List.range (512 / w)).any (fun e => active t p e && pois t a w e)
        Admits s t i → exec i s = .next (goesOn s t i { t.r with
          v := t.r.v.set d.toNat ⟨BitVec.ofNat 512 (r.1 % 2 ^ w), (vreg t.r a).tag, if pz then 1 else 0⟩,
          fctl := t.r.fctl ||| r.2.setWidth 64 })
      let iv (x : Nat) : Int := ival g w x
      let least : Int := if g % 2 = 1 then -2 ^ (w - 1) else 0
      let most : Int := if g % 2 = 1 then 2 ^ (w - 1) - 1 else 2 ^ w - 1
      (1 ≤ g → g ≤ 7 →
        red (.vredadd d a p) 0 (fun x y => (cut w (iv x + iv y), 0)) ∧
        red (.vredmax d a p) (cut w least) (fun x y => (cut w (max (iv x) (iv y)), 0)) ∧
        red (.vredmin d a p) (cut w most) (fun x y => (cut w (min (iv x) (iv y)), 0))) ∧
      (10 ≤ g → g ≤ 12 →
        red (.vredadd d a p) (2 ^ (w - 1)) (fadd f .rne) ∧
        red (.vredmax d a p) (finfEnc f true) (fun x y => (fminmax f true x y, 0)) ∧
        red (.vredmin d a p) (finfEnc f false) (fun x y => (fminmax f false x y, 0)))) ∧
  (∀ (s : State) (t : Strand) (d a b : BitVec 5),
      let e := (rd t.r b).toNat
      let wd := tagWidth (tagOf t d)
      let wa := tagWidth (tagOf t a)
      let wide (g : Nat) : Prop := (1 ≤ g ∧ g ≤ 12) ∨ g = 14
      let x := elem t a wa e
      (Admits s t (.vins d a b) → rdP t.r b = false → wide (tagOf t d) →
        (e < 512 / wd → ∃ v, exec (.vins d a b) s = .next (goesOn s t (.vins d a b) { t.r with v := t.r.v.set d.toNat v }) ∧
          v.tag = (vreg t.r d).tag ∧
          (∀ i < 512 / wd, elemOf v.bits wd i = if i = e then (rd t.r a).toNat % 2 ^ wd else elem t d wd i) ∧
          ∀ k < 8, v.pois.getLsbD k = (if k = wd * e / 64 then rdP t.r a || (decide (wd < 64) && (vreg t.r d).pois.getLsbD k)
            else (vreg t.r d).pois.getLsbD k)) ∧
        (512 / wd ≤ e → traps s t (.vins d a b) .operandRange 0 0)) ∧
      (rdP t.r b = false → wide (tagOf t a) →
        (e < 512 / wa → gives s t (.vext d a b) d
          (if tagOf t a ∈ [1, 3, 5, 7] then BitVec.ofInt 64 (BitVec.ofNat wa x).toInt else BitVec.ofNat 64 x) (pois t a wa e)) ∧
        (Admits s t (.vext d a b) → 512 / wa ≤ e → traps s t (.vext d a b) .operandRange 0 0)) ∧
      (∀ i ∈ [Instr.vins d a b, .vext d a b], Admits s t i → rdP t.r b = true →
        traps s t i .poisonConsumed (BitVec.ofNat 64 b.toNat) 0))

/-- R133, R136, R137, R247, R248: a load or a store with a poisoned base raises `poison-consumed`, and one whose place meets a
fault raises it with the data address; neither changes memory or a register. R254, R258, R259: a form of the VALU whose source
tag it does not accept raises `format-unsupported`, before unequal tags raise `format-mismatch`; nothing is written. A compare
of a poisoned active element raises `poison-consumed`. -/
def Obligations.OperandTraps : Prop :=
  (∀ (s : State) (t : Strand) (d a : BitVec 5) (ty : BitVec 3) (off : BitVec 7) (off6 : BitVec 6) (size scope : BitVec 2) (la : BitVec 4)
      (i : Instr) (n : Nat) (o : Int) (acc : Acc) (c : Cause) (x : Word),
      let va := rd t.r a + BitVec.ofInt 64 o
      (i = .ld d a ty off la ∧ n = [1, 2, 4, 8][ty.toNat % 4]! ∧ o = off.toInt * n ∧ acc = .load) ∨
      (i = .st d a ty off ∧ n = [1, 2, 4, 8][ty.toNat % 4]! ∧ o = off.toInt * n ∧ acc = .store) ∨
      (i = .ldacq d a size scope off6 ∧ n = 2 ^ size.toNat ∧ o = off6.toInt * n ∧ acc = .load ∧ readsDone s t = true) ∨
      (i = .strel d a size scope off6 ∧ n = 2 ^ size.toNat ∧ o = off6.toInt * n ∧ acc = .store) →
      Admits s t i →
      (rdP t.r a = true → traps s t i .poisonConsumed (BitVec.ofNat 64 a.toNat) 0) ∧
      (rdP t.r a = false → locate s s.cur t va n n acc = .error (.trap c x va) → traps s t i c x va)) ∧
  (∀ (s : State) (t : Strand) (d a b : BitVec 5) (p : BitVec 3) (z : BitVec 1) (i : Instr),
      let num (g : Nat) : Prop := (1 ≤ g ∧ g ≤ 7) ∨ (10 ≤ g ∧ g ≤ 12)
      let w := tagWidth (tagOf t a)
      Admits s t i →
      (i ∈ [Instr.vadd d a b p z, .vsub d a b p z, .vmul d a b p z, .vmin d a b p z, .vmax d a b p z, .vceq d a b p z,
          .vclt d a b p z, .vcle d a b p z] →
        (¬ num (tagOf t a) ∨ ¬ num (tagOf t b) → traps s t i .formatUnsupported 0 0) ∧
        (num (tagOf t a) → num (tagOf t b) → tagOf t a ≠ tagOf t b → traps s t i .formatMismatch 0 0)) ∧
      (i ∈ [Instr.vceq d a b p z, .vclt d a b p z, .vcle d a b p z] → num (tagOf t a) → tagOf t a = tagOf t b →
        (∃ e < 512 / w, active t p e = true ∧ pois t a w e = true) → traps s t i .poisonConsumed (BitVec.ofNat 64 (32 + a.toNat)) 0))

/-! Conversions. -/

/-- R271, R274, R277: `vcvt` of one slice: when the source is the narrower side, every element of D comes from the slice's
element of A; otherwise the slice of D comes from the elements of A and the rest of D stays. Each is converted in the
instruction's own mode, with its flags. `vtag` changes the tag alone. R278 to R280: `vwid` multiplies each narrow element by
its block's scale into f32 lanes; `vscl` writes the scales of the slice's blocks from their active lanes and keeps the other
scales; `vnar` divides each active lane by its block's scale into the slice, a void block reading zero with its scale made NaN. -/
def Obligations.ConversionResults : Prop :=
  (∀ (s : State) (t : Strand) (d a : BitVec 5) (p : BitVec 3) (z : BitVec 1) (tag sl : BitVec 5) (rm : BitVec 2) (sat : BitVec 1),
      let i : Instr := .vcvt d a p z tag rm sl sat
      let src := tagOf t a
      let dst := tag.toNat
      let ws := tagWidth src
      let wd := tagWidth dst
      let k := 512 / max ws wd
      let conv (x : Nat) : Nat × Flags := convert src dst x (rmodeOf rm.toNat) (decide (sat = 1))
      let act (j : Nat) : Bool := active t p (if max ws wd < 8 then j * max ws wd / 8 else j)
      let from_ (j : Nat) : Nat := if ws < wd then sl.toNat * k + j else j
      let at_ (e : Nat) : Option Nat := if ws < wd then some e else if sl.toNat * k ≤ e ∧ e < sl.toNat * k + k then some (e - sl.toNat * k) else none
      (1 ≤ src ∧ src ≤ 16 → 1 ≤ dst ∧ dst ≤ 16 → sl.toNat < max ws wd / min ws wd → Admits s t i →
        ∃ x g, exec i s = .next (goesOn s t i { t.r with v := t.r.v.set d.toNat x, fctl := t.r.fctl ||| g.setWidth 64 }) ∧
          x.tag = tag ∧
          (∀ e < 512 / wd, elemOf x.bits wd e = match at_ e with
            | some j => if act j then (conv (elem t a ws (from_ j))).1 % 2 ^ wd else if z = 1 then 0 else elem t d wd e
            | none => elem t d wd e) ∧
          raises g k act (fun j => (conv (elem t a ws (from_ j))).2)) ∧
      (Admits s t (.vtag d a tag) → exec (.vtag d a tag) s = .next (goesOn s t (.vtag d a tag)
        { t.r with v := t.r.v.set d.toNat { vreg t.r a with tag := tag } }))) ∧
  (∀ (s : State) (t : Strand) (d a b : BitVec 5) (p : BitVec 3) (z : BitVec 1) (tag sl ef : BitVec 5) (bs : BitVec 2),
      let len := 8 * 2 ^ bs.toNat
      let base := 16 * sl.toNat
      let scale (j : Nat) : FVal := elemVal (tagOf t b) (elem t b (tagWidth (tagOf t b)) j)
      let sp (j : Nat) : Bool := pois t b (tagWidth (tagOf t b)) j
      let ga := tagOf t a
      let wa := tagWidth ga
      let wide (j : Nat) : Nat × Flags :=
        let m := fmulX (elemVal ga (elem t a wa (base + j))) (scale ((base + j) / len))
        let r := fround fmtF32 .rne m.1
        (r.1, m.2 ||| r.2)
      let lane (j : Nat) : Nat := if j < 16 then elem t a 32 j else elem t (a + 1) 32 (j - 16)
      let first := base / len
      let w := tagWidth tag.toNat
      let lv (j : Nat) : FVal := fdec fmtF32 (elem t a 32 j)
      let bad (v : FVal) : Prop := v = .nan ∨ (∃ n, v = .inf n) ∨ ∃ n e, v = .fin n 0 e
      let void (q : Nat) : Prop := ∃ j < 16, (base + j) / len = q ∧ active t p j = true ∧ (bad (scale q) ∨ lv j = .nan)
      bs ≠ 3 →
      (ga ∈ [8, 9, 13, 15] → tagOf t b ∈ [9, 11, 14] → sl.toNat < 32 / wa →
        vgives s t (.vwid d a b p z sl bs) d p z 32 12 (fun j => (wide j).1) (fun j => (wide j).2)
          (fun j => pois t a wa (base + j) || sp ((base + j) / len))) ∧
      (ga = 12 → (bs = 2 → tagOf t (a + 1) = 12 ∧ sl.toNat % 2 = 0) → ef = 8 ∨ ef = 13 → tag = 14 ∨ tag = 9 →
        sl.toNat < 32 / tagWidth ef.toNat → Admits s t (.vscl d a p tag sl bs ef) →
        ∃ (x : VReg) (g : Flags), exec (.vscl d a p tag sl bs ef) s = .next (goesOn s t (.vscl d a p tag sl bs ef)
            { t.r with v := t.r.v.set d.toNat x, fctl := t.r.fctl ||| g.setWidth 64 }) ∧ x.tag = tag ∧
          ∀ j < 64, elemOf x.bits 8 j = if first ≤ j ∧ j < first + (if bs = 0 then 2 else 1) then
            (blockScale (tag == 14) ef.toNat (((rangeFrom ((j - first) * len) len).filter (active t p)).map lane)).1 % 256
            else elem t d 8 j) ∧
      (ga = 12 → tag = 8 ∨ tag = 13 → tagOf t b ∈ [9, 11, 14] → sl.toNat < 32 / w → d ≠ b → b.toNat < t.r.v.length →
        d.toNat < t.r.v.length → Admits s t (.vnar d a b p z tag sl bs) →
        ∃ s' u, exec (.vnar d a b p z tag sl bs) s = .next s' ∧ getStrand s' s.cur = some u ∧ tagOf u d = tag.toNat ∧
          (∀ e < 512 / w, (void (e / len) → elem u d w e = 0) ∧
            (¬ void (e / len) → e < base ∨ base + 16 ≤ e → elem u d w e = elem t d w e) ∧
            (¬ void (e / len) → base ≤ e → e < base + 16 → elem u d w e =
              if active t p (e - base) then (fdivV (tagFmt tag.toNat) .rne (lv (e - base)) (scale (e / len))).1 % 2 ^ w
              else if z = 1 then 0 else elem t d w e)) ∧
          (∀ q < 512 / tagWidth (tagOf t b),
            (void q → elem u b (tagWidth (tagOf t b)) q = if tagOf t b = 14 then 0xFF else if tagOf t b = 9 then 0x7E else 0x7FC0) ∧
            (¬ void q → elem u b (tagWidth (tagOf t b)) q = elem t b (tagWidth (tagOf t b)) q))))

/-! Vector memory. -/

namespace Sys2Proof.Says

/-- The active elements of a register of `w`-bit units with the addresses `f` gives them, in order. -/
def actives (t : Strand) (p : BitVec 3) (w : Nat) (f : Nat → Word) : List (Nat × Word) :=
  ((List.range (512 / w)).filter (active t p)).map (fun e => (e, f e))

/-- The writes `new` cover exactly the bytes of the active elements `l`, `eb` bytes each at their places, with the bits and the
poison that `v` gives them (R265, R266). -/
def storesElements (new : List PWrite) (l : List (Nat × Loc × Word)) (eb : Nat) (v : VReg) : Prop :=
  let byte (e j : Nat) : Byte × Bool := (BitVec.ofNat 8 (elemOf v.bits (8 * eb) e / 256 ^ j), v.pois.getLsbD (8 * eb * e / 64))
  (∀ y ∈ l, ∀ j < eb, ∃ q ∈ new, ∃ bs o, q.work = .store bs ∧ locAdd q.loc o = locAdd y.2.1 j ∧ bs[o]? = some (some (byte y.1 j))) ∧
  ∀ q ∈ new, ∃ bs, q.work = .store bs ∧ ∀ o x, bs[o]? = some (some x) →
    ∃ y ∈ l, ∃ j < eb, locAdd q.loc o = locAdd y.2.1 j ∧ x = byte y.1 j

/-- The address of element `e` of `vld` and `vst` (R265). -/
def inSequence (t : Strand) (a : BitVec 5) (off : BitVec 32) (w e : Nat) : Word :=
  rd t.r a + BitVec.ofInt 64 off.toInt + BitVec.ofNat 64 (e * (w / 8))

/-- The address of lane `e` of `vgath` and `vscat` (R266): the index is natural for n32, signed for i32 and i64. -/
def byIndex (t : Strand) (a b : BitVec 5) (off : BitVec 32) (scl : BitVec 2) (w e : Nat) : Word :=
  rd t.r a + BitVec.ofInt 64 off.toInt + ((if tagOf t b = 6 then BitVec.ofNat 64 (elem t b w e)
    else BitVec.ofInt 64 (BitVec.ofNat w (elem t b w e)).toInt) <<< scl.toNat)

/-- The index register fits the data tag, and no active lane's index is poisoned (R266, R267). -/
def indexed (t : Strand) (b : BitVec 5) (p : BitVec 3) (data : Nat) : Prop :=
  (data ∈ [5, 6, 12] ∧ tagOf t b ∈ [5, 6] ∨ data = 7 ∧ tagOf t b = 7) ∧
  ∀ e < 512 / tagWidth data, active t p e = true → pois t b (tagWidth data) e = false

end Sys2Proof.Says

/-- R265 to R267: `vld` and `vgath` with LA 0 write to D, with its new tag, the active elements read at their places, the
others by R253; with a window they open one whose pending destination is vD. R265, R134: the elements that a vector load reads
in scratchpads: each listed element takes the bytes at its place, every other element stays as it lay below; the register's
poison gains the segments with a listed element from a poisoned word. -/
def Obligations.VectorLoadResults : Prop :=
  (∀ (s s1 s2 : State) (t : Strand) (d a b : BitVec 5) (p : BitVec 3) (z : BitVec 1) (tag : BitVec 5) (scl : BitVec 2) (off : BitVec 32)
      (la : BitVec 4) (l : List (Nat × Loc × Word)) (v : VReg) (i : Instr),
      let w := unitWidth tag.toNat
      let x : Ctx := ⟨s.cur, t, i.len, i.word0⟩
      let els := (List.range (512 / w)).map (fun e => (l.find? (fun y => y.1 == e)).map (fun y => y.2))
      let below := vldBase (vreg t.r d) w tag (preg t.r p.toNat) (decide (z = 1))
      (i = .vld d a p z tag off la ∧ locateVec s s.cur t (actives t p w (inSequence t a off w)) (w / 8) .load = .ok (l, s1) ∨
        i = .vgath d a b p z tag scl off la ∧ indexed t b p tag.toNat ∧
          locateLanes s x (actives t p w (byIndex t a b off scl w)) (w / 8) .load = .ok (l, s1)) →
      Admits s t i → rdP t.r a = false →
      (∀ y ∈ l, loadDenied s1 s.cur.core t.dom 0 y.2.1 = false) →
      (la = 0 → (∀ y ∈ l, ownAtomic s1 t.uid s1.uid y.2.1 (w / 8) = false ∧ openerOn t y.2.1 (w / 8) = false) →
        vldRead s1 s.cur.core t.uid s1.uid (w / 8) 0 els below = (v, [], s2) →
        exec i s = .next (goesOn s2 t i { t.r with v := t.r.v.set d.toNat v })) ∧
      (la ≠ 0 → t.openers.length < 8 → (∀ q ∈ t.openers, q.id < s.uid) →
        exec i s = .next (opened s1 t i (some (true, d.toNat)) la (.vld els (w / 8) tag below)))) ∧
  (∀ (s : State) (c : CoreId) (uid limit eb : Nat) (els : List (Option (Loc × Word))) (below : VReg),
      eb ∈ [1, 2, 4, 8] → els.length = 64 / eb → (∀ q ∈ s.pend, q.uid ≠ uid) →
      (∀ l va, some (l, va) ∈ els → ∃ k o, l = .spad k o ∧ o % eb = 0 ∧ (getCore s k).spadBad = []) →
      ∃ v, vldRead s c uid limit eb 0 els below = (v, [], s) ∧ v.tag = below.tag ∧
        (∀ e < 64 / eb, elemOf v.bits (8 * eb) e = match els[e]? with
          | some (some (.spad k o, _)) => leNat (memBytes (getCore s k).spad o eb)
          | _ => elemOf below.bits (8 * eb) e) ∧
        ∀ g < 8, v.pois.getLsbD g = true ↔ below.pois.getLsbD g = true ∨ ∃ e k o va, els[e]? = some (some (.spad k o, va)) ∧
          e * eb / 8 = g ∧ setHas (getCore s k).spadPois (o / 8) = true)

/-- R265 to R267: `vst` and `vscat` post exactly the bytes of the active elements of vD as one store, and change no memory at
issue. -/
def Obligations.VectorStoreResults : Prop :=
  ∀ (s s1 : State) (t : Strand) (d a b : BitVec 5) (p : BitVec 3) (scl : BitVec 2) (off : BitVec 32) (l : List (Nat × Loc × Word))
    (i : Instr),
    let w := unitWidth (tagOf t d)
    let x : Ctx := ⟨s.cur, t, i.len, i.word0⟩
    (i = .vst d a p off ∧ locateVec s s.cur t (actives t p w (inSequence t a off w)) (w / 8) .store = .ok (l, s1) ∨
      i = .vscat d a b p scl off ∧ indexed t b p (tagOf t d) ∧
        locateLanes s x (actives t p w (byIndex t a b off scl w)) (w / 8) .store = .ok (l, s1)) →
    Admits s t i → rdP t.r a = false → outstanding s1 t.uid < 32 → (∀ y ∈ l, blockOff y.2.1 % (w / 8) = 0) →
    ∃ s' new u, exec i s = .next s' ∧ s'.mem = s.mem ∧ s'.pend = s.pend ++ new ∧
      (∀ q ∈ new, q.uid = t.uid ∧ q.grp = s1.uid ∧ q.floor = t.floor ∧ q.floorC = t.floorC ∧ q.passed = 0 ∧ q.ref = s.cur) ∧ storesElements new l (w / 8) (vreg t.r d) ∧
      getStrand s' s.cur = some u ∧ u.r = t.r ∧ u.pc = t.pc + BitVec.ofNat 64 i.len ∧ u.status = .ready

/-! Channels and messages. -/

namespace Sys2Proof.Says

/-- The strand at `s.cur` of `s'` is `t` after it has completed `i`, its registers now `r`. -/
def movedOn (s s' : State) (t : Strand) (i : Instr) (r : Regs) : Prop :=
  ∃ u, getStrand s' s.cur = some u ∧ u.r = r ∧ u.pc = t.pc + BitVec.ofNat 64 i.len ∧ u.status = .ready ∧ u.uid = t.uid ∧ u.dom = t.dom ∧
    u.priv = t.priv ∧ u.tiles = t.tiles ∧ u.tabs = t.tabs ∧ u.openers = t.openers.map tickOpener

/-- The handle is well formed and the strand may manage its channel (R180). -/
def mayManage (t : Strand) (h : Word) : Prop := h ≠ 0 ∧ h.toNat % 2 ^ 16 = 0 ∧ (h.toNat / 2 ^ 16 % 2 ^ 8 = t.dom ∨ t.priv = .h)

/-- The table agent of the strand's core reads `e` as the entry of handle `h`, leaving `s'` (R157, R158). -/
def entryOf (s : State) (t : Strand) (h e : Word) (s' : State) : Prop :=
  tabRead s (tableAgent s.cur.core (hDom h)) (hDom h) (hIdx h) t.uid = .ok (e, s')

/-- `e` is a live entry of the handle's generation whose home is core `c` of this package, where the channel is `q` (R157). -/
def liveAt (s : State) (h e : Word) (c : CoreId) (q : Chan) : Prop :=
  bitsOf e 46 2 = 1 ∧ bitsOf e 48 16 = bitsOf h 48 16 ∧ bitsOf e 30 12 = s.pkg ∧ entHome e = some c ∧ findChan s c h = some q

/-- The structure of eight doublewords at an address, as the strand's loads read it (R180). -/
def structAt (s : State) (t : Strand) (i : Instr) (va : Word) (l : List Word) (s' : State) : Prop :=
  descLoad s ⟨s.cur, t, i.len, i.word0⟩ va 8 = .ok (l, s') ∧ l.length = 8

end Sys2Proof.Says

/-- R181, R180, R173, R156: a send posts one message with its Cysyn time, the sender's identity, the handle and the payload, behind
the strand's earlier writes, and goes on; a seventeenth waits; a handle that is null or has low bits raises `operand-range`, an
operand of `sendc` beyond 32 bits `payload-range`. -/
def Obligations.SendResults : Prop :=
  ∀ (s : State) (t : Strand) (a b : BitVec 5),
    let h := rd t.r a
    let v := rd t.r b
    let body : BitVec 256 := if b = 0 then 0 else rd t.r (b + 3) ++ rd t.r (b + 2) ++ rd t.r (b + 1) ++ v
    let posts (i : Instr) (p : BitVec 256) (sc : Bool) : Prop := exec i s = .next (goesOn { s with uid := s.uid + 1, flight := s.flight ++
      [⟨s.uid, t.uid, ⟨p, s.cys.now, strandSid s s.cur t.dom, h, sc, 0, false⟩, t.dom, false, none, s.uid, s.cur.core, false, none, 0⟩] } t i t.r)
    let full := 16 ≤ (s.flight.filter (fun f => f.uid == t.uid && f.at_.isNone)).length
    let formed := h ≠ 0 ∧ h.toNat % 2 ^ 16 = 0
    let clean := rdP t.r a = false ∧ rdP t.r b = false
    (Admits s t (.send a b) → b.toNat ≤ 28 → clean → (b ≠ 0 → ∀ k ∈ [1#5, 2, 3], rdP t.r (b + k) = false) →
      (¬ formed → traps s t (.send a b) .operandRange 0 0) ∧ (formed → ¬ full → posts (.send a b) body false) ∧
      (formed → full → exec (.send a b) s = .next (setStrand s s.cur { t with status := .waiting .sends, inside := false }))) ∧
    (Admits s t (.sendc a b) → clean →
      (¬ formed → traps s t (.sendc a b) .operandRange 0 0) ∧
      (formed → v.toInt < -2 ^ 31 ∨ 2 ^ 31 ≤ v.toInt → traps s t (.sendc a b) .payloadRange 0 0) ∧
      (formed → -2 ^ 31 ≤ v.toInt → v.toInt < 2 ^ 31 → ¬ full → posts (.sendc a b) (v.setWidth 256) true))

/-- R182, R183, R184, R187: `chnew` on the strand's own core claims the first free entry and gives its handle, `chfree` deletes the
channel with its patterns and reports its messages, `chbind` replaces the bound regions, `chstat` gives the status word. That a free
entry is channel-destroyed before its generation is looked at is log 49. -/
def Obligations.ChannelResults : Prop :=
  ∀ (s s1 s2 s3 : State) (t : Strand) (d a b : BitVec 5) (l : List Word) (k : Nat) (e : Word) (c : CoreId) (q : Chan),
    let g (n : Nat) : Word := (l[n]?).getD 0
    let w := g 0
    let own := s.cur.core
    let dm := getDom s1 t.dom
    let total := 2 ^ areaLog dm.chtab
    let agent := tableAgent own t.dom
    let slots := bitsOf w 24 8
    let count := w.getLsbD 2
    let gen := (bitsOf e 48 16 + 1) % 2 ^ 16
    let ent := mkEntry gen 1 count false (bitsOf w 0 2) s.pkg own (privNum t.priv)
    let hn := BitVec.ofNat 64 (gen * 2 ^ 48 + k * 2 ^ 24 + t.dom * 2 ^ 16)
    let n0 := (BitVec.ofNat 32 (bitsOf (g 3) 0 32)).toInt
    let h := rd t.r a
    let pairs := [(g 0, g 1), (g 2, g 3), (g 4, g 5), (g 6, g 7)].filter (fun p => p.2 ≠ 0)
    let fits := ∀ p ∈ pairs, p.1.toNat % 64 = 0 ∧ p.2.toNat % 64 = 0 ∧ p.1.toNat + p.2.toNat ≤ 2 ^ 56
    let apart := pairs.Pairwise (fun p r => p.1.toNat + p.2.toNat ≤ r.1.toNat ∨ r.1.toNat + r.2.toNat ≤ p.1.toNat)
    let npat := ((getCore s1 c).jmu.pats.filter (fun p => p.chans.contains h)).length
    let managed (i : Instr) : Prop := Admits s t i ∧ rdP t.r a = false ∧ mayManage t h
    (Admits s t (.chnew d a) → rdP t.r a = false → t.phase = none → structAt s t (.chnew d a) h l s1 → chdescOk l = true → w.getLsbD 4 = false →
      w.getLsbD 3 = false →
      (quotaFull s1 own slots = true → exec (.chnew d a) s = .next (goesOn (tabDrop s1 t.uid) t (.chnew d a) (wr t.r d 0x803B false))) ∧
      (quotaFull s1 own slots = false → areaBase dm.chtab ≠ 0 → freeEntry s1 agent t.dom t.uid dm.hint total total = .ok (some (k, e), s2) →
        tabWrite s2 agent t.dom k t.uid e ent true = .ok (true, s3) → findChan s3 own hn = none →
        ∃ s' x, exec (.chnew d a) s = .next s' ∧ movedOn s s' t (.chnew d a) (wr t.r d hn false) ∧ findChan s' own hn = some x ∧
          (getDom s' t.dom).hint = (k + 1) % total ∧ s'.mem = s3.mem ∧
          x = { x with handle := hn, count := count, relay := false, scope := bitsOf w 0 2, slots := slots, ringlog := bitsOf w 16 5,
                       ring := g 2, held := [], nring := 0, counter := if count then n0 else 0, reload := bitsOf (g 3) 32 32,
                       arrivals := 0, cpriv := t.priv, regions := [], spilled := false, retry := none } ∧
          (x.present.isSome = true ↔ count = true ∧ n0 ≤ 0))) ∧
    (managed (.chfree a) → entryOf s t h e s1 → liveAt s1 h e c q → q.nring = 0 →
      tabWrite s1 (tableAgent own (hDom h)) (hDom h) (hIdx h) t.uid e (e &&& 0xFFFF3FFFFFFFFFFF) false =
        .ok (true, s2) →
      let gone := updCore s2 c (fun x => { x with jmu := { x.jmu with
        pats := x.jmu.pats.filter (fun p => !p.chans.contains h), chans := x.jmu.chans.filter (fun x => x.handle ≠ h) } })
      exec (.chfree a) s = .next (goesOn (tabDrop (q.held.foldl (fun s m => reportHeld s m .channelDestroyed) gone) t.uid) t (.chfree a) t.r)) ∧
    (managed (.chbind a b) → rdP t.r b = false → structAt s t (.chbind a b) (rd t.r b) l s1 → entryOf s1 t h e s2 → liveAt s2 h e c q →
      (fits → apart → exec (.chbind a b) s = .next (goesOn (updChan (tabDrop s2 t.uid) c h (fun x => { x with regions := pairs }))
        t (.chbind a b) t.r)) ∧
      (¬ fits → traps s t (.chbind a b) .operandRange 0 0) ∧ (fits → ¬ apart → traps s t (.chbind a b) .regionBindConflict 0 0)) ∧
    (managed (.chstat d a) → entryOf s t h e s1 → liveAt s1 h e c q → q.scope < 4 → q.regions.length ≤ 4 → npat ≤ 8 → q.held.length ≤ 2048 →
      ∃ v : Word, exec (.chstat d a) s = .next (goesOn (tabDrop s1 t.uid) t (.chstat d a) (wr t.r d v false)) ∧ bitsOf v 62 2 = 1 ∧
        v.getLsbD 61 = q.count ∧ v.getLsbD 60 = q.relay ∧ bitsOf v 58 2 = q.scope ∧ bitsOf v 55 3 = q.regions.length ∧
        bitsOf v 51 4 = npat ∧ bitsOf v 44 7 = 0 ∧ bitsOf v 32 12 = (if q.count then 0 else q.held.length) ∧
        v.setWidth 32 = if q.count then BitVec.ofInt 32 q.counter else BitVec.ofNat 32 (q.held.length + q.nring)) ∧
    (∀ i ∈ [Instr.chfree a, .patdel a b, .chstat d a], managed i → rdP t.r b = false → entryOf s t h e s1 →
      (bitsOf e 46 2 = 0 → traps s t i .channelDestroyed 0 0) ∧
      (bitsOf e 46 2 ≠ 0 → bitsOf e 48 16 ≠ bitsOf h 48 16 → traps s t i .channelHandleStale 0 0) ∧
      (bitsOf e 46 2 = 2 → bitsOf e 48 16 = bitsOf h 48 16 → traps s t i .channelMoved 0 0))

/-- R185, R186, R188: `patadd` installs the pattern in the lowest free entry of its channels' home and gives its index, or a refusal
word with nothing installed; `patdel` frees an entry; `chmove` takes the whole group, with its messages, counters, bindings and
patterns, to the new home and leaves forwarding entries for 1 ms; one with a pattern of PRIV H goes to no compute core (R9: that
D is then a refusal word is log 71). -/
def Obligations.PatternResults : Prop :=
  ∀ (s s1 s2 : State) (t : Strand) (d a b : BitVec 5) (l es : List Word) (k : Nat) (e : Word) (c z : CoreId) (q : Chan),
    let p := patDesc l
    let g (n : Nat) : Word := (l[n]?).getD 0
    let e0 := es.head?.getD 0
    let j := (getCore s2 c).jmu
    let i : Instr := .patadd d a
    let refused (v : Cause) (s2 : State) : Prop :=
      exec i s = .next (goesOn (tabDrop s2 t.uid) t i (wr t.r d (BitVec.ofNat 64 (0x8000 + causeCode v)) false))
    let h := rd t.r a
    let managed (i : Instr) : Prop := Admits s t i ∧ rdP t.r a = false ∧ rdP t.r b = false ∧ mayManage t h
    let free (k : Nat) : Prop := ∀ r ∈ j.pats, r.idx ≠ k
    let room := ∀ h ∈ p.chans, (j.pats.filter (fun r => r.chans.contains h)).length < 8
    let pool := poolOf c (getCore s2 c).pword
    let group := groupOf (getCore s1 c).jmu [h] 256
    let kept (x : Chan) := (x.handle, x.count, x.counter, x.reload, x.regions, x.ring, x.head, x.nring, x.held.map (fun m => (m.payload, m.stime, m.sender)))
    (Admits s t i → rdP t.r a = false → structAt s t i h l s1 →
      (patFieldsOk t.dom l = false → refused .patternInvalid s1) ∧
      (patFieldsOk t.dom l = true → patEntries s1 ⟨s.cur, t, i.len, i.word0⟩ p.chans = .ok (es, none, s2) →
        (∀ x ∈ es, x.getLsbD 44 = false) →
        ((∃ x ∈ es, bitsOf x 16 26 ≠ bitsOf e0 16 26) → refused .patternHomeMismatch s2) ∧
        ((∀ x ∈ es, bitsOf x 16 26 = bitsOf e0 16 26) → bitsOf e0 30 12 = s.pkg → entHome e0 = some c →
          (privNum t.priv < p.priv ∨ p.priv = 2 ∧ c.kind = .compute → refused .privileged s2) ∧
          (p.priv ≤ privNum t.priv → (p.priv = 2 → c.kind ≠ .compute) → (∀ h ∈ p.chans, (findChan s2 c h).isSome = true) →
            ((∀ k < jmuPats c, ¬ free k) ∨ ¬ room → refused .patternTableFull s2) ∧
            (k < jmuPats c → free k → (∀ n < k, ¬ free n) → room →
              (pool.1 < p.v ∨ pool.2.1 < p.a ∨ pool.2.2 < p.t → refused .frameUnadmittable s2) ∧
              (p.v ≤ pool.1 → p.a ≤ pool.2.1 → p.t ≤ pool.2.2 →
                exec i s = .next (goesOn (tabDrop (updCore { s2 with uid := s2.uid + 1 } c (fun x => { x with jmu := { x.jmu with pats := x.jmu.pats ++ [
                  { idx := k, prio := p.prio, serial := p.serial, priv := privOf p.priv, v := p.v, a := p.a, t := p.t, body := g 1,
                    sbase := (g 2).extractLsb' 0 32, sstride := (g 2).extractLsb' 32 32, chans := p.chans, live := false, key := s2.uid }] } })) t.uid)
                  t i (wr t.r d (BitVec.ofNat 64 k) false)))))))) ∧
    (managed (.patdel a b) → entryOf s t h e s1 → liveAt s1 h e c q →
      let n := (rd t.r b).toNat
      let named := n ≤ 255 ∧ ∃ r ∈ (getCore s1 c).jmu.pats, r.idx = n ∧ r.chans.head? = some h
      (named → exec (.patdel a b) s = .next (goesOn (updCore (tabDrop s1 t.uid) c (fun x => { x with jmu :=
        { x.jmu with pats := x.jmu.pats.filter (fun r => r.idx ≠ n) } })) t (.patdel a b) t.r)) ∧
      (¬ named → traps s t (.patdel a b) .patternInvalid 0 0)) ∧
    (managed (.chmove d a b) → moveOf s t.uid = none → homeSel s (hDom h) (rd t.r b) = .here z → (z.kind = .markhor → 1 ≤ privNum t.priv) →
      (z.kind = .hub ∨ z.kind = .duiker → t.priv = .h) → entryOf s t h e s1 → liveAt s1 h e c q →
      (z = c → exec (.chmove d a b) s = .next (goesOn (tabDrop s1 t.uid) t (.chmove d a b) (wr t.r d 0 false))) ∧
      (z ≠ c → movePriv s1 c z group = true →
        exec (.chmove d a b) s = .next (goesOn (tabDrop s1 t.uid) t (.chmove d a b) (wr t.r d (BitVec.ofNat 64 (0x8000 + causeCode .privileged)) false))) ∧
      (z ≠ c → movePriv s1 c z group = false → moveRoom s1 c z group = none →
        moveStart s1 ⟨s.cur, t, 4, (Instr.chmove d a b).word0⟩ c z none group = .ok (none, s2) →
        exec (.chmove d a b) s = .next (goesOn (tabDrop s2 t.uid) t (.chmove d a b) (wr t.r d 0 false)) ∧
          (∀ x ∈ (getCore s2 c).jmu.chans, x.handle ∉ group) ∧
          (∀ h ∈ group, ∃ f ∈ (getCore s2 c).jmu.fwds, f.handle = h ∧ f.home = z ∧ f.pkg = none ∧ f.until_ = s.cys.now + 1000000) ∧
          (getCore s2 z).jmu.chans.map kept = ((getCore s1 z).jmu.chans ++ (getCore s1 c).jmu.chans.filter (fun x => group.contains x.handle)).map kept ∧
          (getCore s2 z).jmu.pats.length = (getCore s1 z).jmu.pats.length + (groupPats (getCore s1 c).jmu group).length))

namespace Sys2Proof.Says

/-- The message `f` is the next of its sender for its channel, and its sender's earlier accesses are done (R174, R176). -/
def nextInOrder (s : State) (f : Flight) : Prop :=
  s.flight.find? (fun g => g.id == f.id) = some f ∧
  (∀ g ∈ s.flight.takeWhile (fun g => g.id ≠ f.id), g.uid = f.uid → g.m.handle ≠ f.m.handle) ∧
  belowDone s f.src f.uid f.floor (ownOpeners s f.uid) 2 = true

/-- Channel `h` at core `c` is `q`, and the other channels there are those of `s` (compared by everything they hold). -/
def chanNow (s s' : State) (c : CoreId) (h : Word) (q : Chan) : Prop :=
  findChan s' c h = some q ∧
  (getCore s' c).jmu.chans.filter (fun x => x.handle ≠ h) = (getCore s c).jmu.chans.filter (fun x => x.handle ≠ h)

/-- Saturation to a signed 32-bit counter (R163). -/
def saturated (x : Int) : Int := if x < -2 ^ 31 then -2 ^ 31 else if 2 ^ 31 - 1 < x then 2 ^ 31 - 1 else x

/-- A COUNT channel after an accepted `sendc` of operand `v` with sequence `n` (R163). -/
def counted (q : Chan) (m : Msg) (n : Nat) : Chan :=
  let x := saturated (q.counter - (m.payload.setWidth 32).toInt)
  { q with counter := x, arrivals := min (q.arrivals + 1) (2 ^ 32 - 1), lastTime := m.stime, lastSender := m.sender,
           present := if 0 < x then none else some (q.present.getD n) }

end Sys2Proof.Says

/-- R155, R160, R163, R165, R175, R177, R178, R181: a message at its home takes the next arrival sequence and goes to a slot of its
FIFO channel or to its counter, one arrival of a JMU in a cycle; one of the wrong kind, or of a pair of domains that the filter denies, is reported to its
sender's domain under the handle that its first send named, and placed nowhere; a relay forwards to its target; ring records are
taken from the head in order; an expired forwarding entry is dropped; an accepted host write posts a message of KIND 2. The model's own:
a `sendc` record applied from a ring takes a new sequence (log 68), and messages of the device pass no filter (log 69). -/
def Obligations.ArrivalResults : Prop :=
  ∀ (s s1 : State) (f : Flight) (c : CoreId) (q : Chan) (h : Word) (l : List Byte) (off : Nat) (data : BitVec 512),
    let m := f.m
    let j := (getCore s c).jmu
    let d := getDom s f.dom
    let popped (x : Chan) : Chan := { x with head := (x.head + 1) % 2 ^ x.ringlog, nring := x.nring - 1, retry := none }
    let rec_ : Msg := { recordMsg l with handle := h }
    let dom := off / 4096 % 256
    let arrives (p : State → Prop) : Prop := ∃ s', exec (.messageArrival f.id) s = .next s' ∧ p s' ∧ s'.mem = s.mem
    let rest := s.flight.filter (fun g => g.id ≠ f.id)
    let fails (e : Cause) : Prop := areaBase d.replog = 0 → d.repch ≠ 0 → arrives (fun s' =>
      s'.flight = rest ++ [⟨s.uid, 0, ⟨payload4 (BitVec.ofNat 64 (d.repseq.toNat % 2 ^ 32 * 2 ^ 32 + causeCode e)) (f.named.getD m.handle)
        (BitVec.ofNat 64 s.cys.now) 0, m.stime, m.sender, d.repch, false, 0, false⟩, f.dom, true, none, 0, duikerId, true, none, 0⟩] ∧
      (getDom s' f.dom).repseq = d.repseq + 1 ∧ (getCore s' c).jmu.chans = j.chans)
    (nextInOrder s f → f.passed = true ∨ f.rep = true ∨ hDom m.handle = f.dom → f.at_ = some c → findChan s c m.handle = some q →
      j.acceptAt ≤ s.cycle →
      (m.sc = false → q.count = false → q.spilled = false → q.relay = true → q.nring = 0 →
        arrives (fun s' => s'.flight = rest ++ [⟨s.uid, 0, { m with handle := q.target, seq := 0 }, f.dom, f.rep, none, 0, c, true,
          some q.handle, 0⟩] ∧ chanNow s s' c m.handle q)) ∧
      (m.sc ≠ q.count → f.rep = false → fails .payloadRange) ∧
      (m.sc = false → q.count = false → q.spilled = false → q.relay = false → q.nring = 0 → slotFree c j q = true →
        arrives (fun s' => s'.flight = rest ∧ chanNow s s' c m.handle { q with held := q.held ++ [{ m with seq := j.seq }] } ∧
          (getCore s' c).jmu.seq = j.seq + 1)) ∧
      (m.sc = true → q.count = true → q.spilled = false → q.nring = 0 →
        arrives (fun s' => s'.flight = rest ∧ chanNow s s' c m.handle (counted q m j.seq) ∧ (getCore s' c).jmu.seq = j.seq + 1))) ∧
    (nextInOrder s f → f.at_ = some c ∨ (getCore s f.src).sendAt ≤ s.cycle → f.passed = false → f.rep = false → hDom m.handle ≠ f.dom → aget s.filter (f.dom, hDom m.handle) = none →
      fails .crossTenantFiltered) ∧
    (findChan s c h = some q → q.handle = h → q.spilled = false → 0 < q.nring →
      devRead s (ringAgent c q) (q.ring + BitVec.ofNat 64 (64 * (q.head % 2 ^ q.ringlog))) 64 = .ok (l, false, s1) →
      (q.count = false → q.relay = true → q.retry = none → ∃ s' g, exec (.spilledRecordApply c h) s = .next s' ∧ chanNow s1 s' c h (popped q) ∧
        s'.flight = s1.flight ++ [g] ∧ g.m = { rec_ with handle := q.target, seq := 0 } ∧ g.named = some h) ∧
      (q.count = false → q.relay = false → slotFree c j q = true →
        (q.retry = none → ∃ s', exec (.ringRefill c h) s = .next s' ∧ chanNow s1 s' c h (popped { q with held := q.held ++ [rec_] })) ∧
        (∀ n, q.retry = some n → n ≤ s.cys.now →
          ∃ s', exec (.ringReadRetry c h) s = .next s' ∧ chanNow s1 s' c h (popped { q with held := q.held ++ [rec_] }))) ∧
      (q.count = true → q.retry = none →
        ∃ s', exec (.spilledRecordApply c h) s = .next s' ∧ chanNow s1 s' c h (popped (counted q rec_ (getCore s1 c).jmu.seq)))) ∧
    (∃ s', exec (.forwardingEntryExpiry c h) s = .next s' ∧ (getCore s' c).jmu.chans = j.chans ∧
      (getCore s' c).jmu.fwds = j.fwds.filter (fun f => decide (f.handle ≠ h ∨ s.cys.now < f.until_))) ∧
    (off % 64 = 0 → data.extractLsb' 320 192 = 0 → (accessBits s 6 0 dom).getLsbD 3 = true →
      exec (.hostChannelSend off 64 data) s = .next { s with uid := s.uid + 1, flight := s.flight ++
        [⟨s.uid, 0, ⟨data.extractLsb' 64 256, s.cys.now, sidOf s.pkg 0 0 0 0 dom 2, data.extractLsb' 0 64, false, 0, false⟩, dom, false, none,
          0, duikerId, false, none, 0⟩] })

namespace Sys2Proof.Says

/-- Every channel of the pattern has a present message, and it may fire again; `n` is the least sequence of those messages
(R170). -/
def mayFire (j : Jmu) (p : Pat) (n : Nat) : Prop :=
  let heads := p.chans.map (fun h => (j.chans.find? (fun q => q.handle == h)).bind headSeq)
  (p.serial = true → p.live = false) ∧ (∀ x ∈ heads, x ≠ none) ∧ some n ∈ heads ∧ ∀ m, some m ∈ heads → n ≤ m

/-- `p` is the pattern that R170 chooses: candidate of the highest PRIO, then of the least sequence, then of the lowest index. -/
def wins (j : Jmu) (p : Pat) : Prop :=
  p ∈ j.pats ∧ (∀ r ∈ j.pats, r.prio ≤ 7 ∧ (r.idx = p.idx → r = p)) ∧ ∃ n, mayFire j p n ∧
    ∀ r ∈ j.pats, r ≠ p → ∀ m, mayFire j r m → r.prio < p.prio ∨ r.prio = p.prio ∧ (n < m ∨ n = m ∧ p.idx < r.idx)

/-- The firing that a core admits next (R15). -/
def firesFirst (k : Core) (f : Firing) : Prop :=
  f ∈ k.jmu.queue ∧ ∀ g ∈ k.jmu.queue, g ≠ f → g.prio ≤ 7 ∧ f.prio ≤ 7 ∧ (g.prio < f.prio ∨
    g.prio = f.prio ∧ (f.dtime < g.dtime ∨ f.dtime = g.dtime ∧ f.ord < g.ord))

/-- A core may admit (a compute core only with a domain), and `slot` is its lowest free slot, with room for a frame of `v`, `a` and
`t` (R11, R15, R199); what a strand gave up in this cycle is on offer from the next (R17, R119). -/
def hasRoom (s : State) (c : CoreId) (slot v a t : Nat) : Prop :=
  let k := getCore s c
  let pool := poolOf c k.pword
  let used := poolUsed k
  let held := k.freed.filter (fun f => f.cycle == s.cycle)
  let sum (g : Freed → Nat) : Nat := (held.map g).sum
  k.leaving = false ∧ k.failed = false ∧ k.pendWord = none ∧ k.wordCycle ≠ some s.cycle ∧ slot < 64 ∧ aget k.strands slot = none ∧ (∀ f ∈ held, f.slot ≠ some slot) ∧
  (c.kind = .compute → k.dom ≠ none) ∧ (∀ n < slot, aget k.strands n ≠ none ∨ ∃ f ∈ held, f.slot = some n) ∧
  used.1 + sum Freed.v + v ≤ pool.1 ∧ used.2.1 + sum Freed.a + a ≤ pool.2.1 ∧ used.2.2 + sum Freed.t + t ≤ pool.2.2

/-- A new strand's frame (R16, R19, R20): its first registers, poisoned where `bad` says, p0 all ones and the other predicates 0, fctl 0, vector
registers tagged raw, tiles tagged i32 with the sticky bit clear, table slots without a record. -/
def newFrame (u : Strand) (body sp sid fire time t14 t15 : Word) (pay : List Word) (bad : Nat → Bool) (v a t : Nat) : Prop :=
  u.status = .ready ∧ u.pc = body ∧ u.target = true ∧ u.openers = [] ∧ u.shadow = none ∧
  (∀ n : BitVec 5, rd u.r n = (([0, body, sp, sid, 0, 0, 0, 0, 0, 0, 0, 0, fire, time, t14, t15] ++ pay)[n.toNat]?).getD 0 ∧ rdP u.r n = bad n.toNat) ∧
  preg u.r 0 = ~~~(0#64) ∧ (∀ n < 7, preg u.r (n + 1) = 0) ∧ u.r.fctl = 0 ∧
  u.r.v.length = v ∧ (∀ x ∈ u.r.v, x.tag = 0 ∧ x.pois = 0) ∧ u.tiles.length = a ∧ (∀ x ∈ u.tiles, x.f32 = false ∧ x.sticky = false) ∧
  u.tabs.length = t ∧ ∀ x ∈ u.tabs, x.recd = false ∧ x.st = .unbuilt

end Sys2Proof.Says

/-- R170 to R172, R9, R14 to R17, R19 to R21, R117: a decision takes the winner's head messages, or consumes its counters, and appends
one firing, the core's next decision no earlier than two cycles later; the next firing that fits is admitted with the registers that R19 and R20 give it; `done` ends the strand, and
STRAND_RELEASE frees its slot, so that the SERIAL pattern that it served may fire again, a launch item counts and the room is on offer from the next cycle. A message
delivered poisoned poisons the registers that it fills (R381).
That a strand takes the lowest free slot is log 14. -/
def Obligations.FiringResults : Prop :=
  ∀ (s : State) (t : Strand) (c : CoreId) (p : Pat) (ms : List Msg) (binds : List (Nat × List (Word × Word))) (f : Firing) (slot k : Nat)
    (jb : Job) (r : StrandRef) (gen index base : Nat),
    let x := getCore s c
    let j := x.jmu
    let ch0 := p.chans.head?.getD 0
    let dom := hDom ch0
    let stack (sb ss : BitVec 32) : Word := 0xFF00000000000000#64 + sb.setWidth 64 + BitVec.ofNat 64 (slot + 1) * ss.setWidth 64
    let fire (prio kind idx : Nat) : Word := BitVec.ofNat 64 (prio * 2 ^ 16 + kind * 2 ^ 8 + idx)
    let m0 := ms.head?.getD ⟨0, 0, 0, 0, false, 0, false⟩
    let damaged (ms : List Msg) (n : Nat) : Bool := if n < 14 then false else if n < 16 then (ms.head?.map Msg.pois).getD false
      else ((ms[(n - 16) / 4]?).map Msg.pois).getD false
    (wins j p → p.chans.Nodup → j.queue.length < 64 → j.decideAt ≤ s.cycle →
      ∃ (s' : State) (ms : List Msg) (bs : List (Nat × List (Word × Word))), exec (.matchDecision c) s = .next s' ∧ s'.mem = s.mem ∧
        (getCore s' c).jmu.queue = j.queue ++ [⟨.pattern p ms bs, p.prio, s.cys.now, s.uid⟩] ∧
        (getCore s' c).jmu.pats = j.pats.map (fun q => if q.idx = p.idx then { q with live := q.serial } else q) ∧
        (getCore s' c).jmu.decideAt = s.cycle + 2 ∧ ms.length = p.chans.length ∧
        ∀ (k : Nat) (h : Word) (q : Chan), p.chans[k]? = some h → findChan s c h = some q → ∃ q', findChan s' c h = some q' ∧
          (q.count = false → ms[k]? = q.held.head? ∧ q' = { q with held := q.held.tail }) ∧
          (q.count = true → let n := saturated (q.counter + q.reload)
            (ms[k]?).map Msg.payload = some (payload4 (BitVec.ofInt 64 n) (BitVec.ofNat 64 q.arrivals) 0 0) ∧
            q' = { q with counter := n, arrivals := 0, present := q'.present } ∧ (q'.present.isSome = true ↔ n ≤ 0))) ∧
    (firesFirst x f → f.what = .pattern p ms binds → p.v ≤ 32 → 1 ≤ ms.length → ms.length ≤ 4 → hasRoom s c slot p.v p.a p.t →
      let kind := if ch0 = (getDom s dom).trapch then 2 else 0
      let level : Priv := match c.kind with | .compute => p.priv | .markhor => .s | _ => .h
      ∃ s' u, exec (.admission c) s = .next s' ∧ s'.mem = s.mem ∧ (getCore s' c).jmu.queue = j.queue.filter (fun g => g ≠ f) ∧
        getStrand s' ⟨c, slot⟩ = some u ∧ u.dom = dom ∧ u.priv = level ∧ u.prio = p.prio ∧ u.kind = kind ∧
        newFrame u p.body (stack p.sbase p.sstride) (strandSid s ⟨c, slot⟩ dom) (fire p.prio kind p.idx) (BitVec.ofNat 64 f.dtime)
          (BitVec.ofNat 64 m0.stime) m0.sender (ms.flatMap (fun m => (List.range 4).map (fun i => m.payload.extractLsb' (64 * i) 64))) (damaged ms) p.v p.a p.t) ∧
    (firesFirst x f → f.what = .item k gen index base → aget s.jobs k = some jb → jb.v ≤ 32 → hasRoom s c slot jb.v jb.a jb.t →
      ∃ s' u, exec (.admission c) s = .next s' ∧ s'.mem = s.mem ∧ getStrand s' ⟨c, slot⟩ = some u ∧ u.dom = jb.dom ∧ u.priv = jb.priv ∧
        newFrame u jb.body (stack jb.sbase jb.sstride) (strandSid s ⟨c, slot⟩ jb.dom) (fire jb.prio 1 0) (BitVec.ofNat 64 s.cys.now)
          (BitVec.ofNat 64 jb.issued) jb.issuer [BitVec.ofNat 64 index, jb.args + BitVec.ofNat 64 (index * jb.astride),
            BitVec.ofNat 64 (s.pkg * 2 ^ 51 + jb.gen * 2 ^ 32 + jb.dom * 2 ^ 24 + k), BitVec.ofNat 64 base] (fun _ => false) jb.v jb.a jb.t) ∧
    (Admits s t .done → t.openers = [] → exec .done s = .next (setStrand s s.cur { t with status := .ended })) ∧
    (getStrand s r = some t → t.status = .ended → (∀ y, t.preq ≠ some (y, .preempt)) →
      engNames (getCore s r.core) t.uid (List.range t.tiles.length) (List.range t.tabs.length) true = false →
      ∃ s', exec (.strandRelease r) s = .next s' ∧ s'.mem = s.mem ∧ getStrand s' r = none ∧
        ⟨s.cycle, some r.slot, t.r.v.length, t.tiles.length, t.tabs.length⟩ ∈ (getCore s' r.core).freed ∧
        (∀ n k, t.origin = .pattern n k → t.serial = true → ∀ y ∈ s'.cores, ∀ q ∈ y.2.jmu.pats, q.key = k → q.serial = true →
          q.live = false) ∧
        (∀ n, t.origin = .item k gen n → aget s.jobs k = some jb → jb.gen = gen →
          aget s'.jobs k = some { jb with ending := jb.ending ++ [⟨t.uid, r.core, s.uid⟩] }))

/-! Launches. -/

/-- R203, R205 to R208: `spawn` and `gang` of a good card take the next free entry, hold a job of the card's fields and give its handle;
with no entry free the strand waits with the card; a card that breaks a rule gets the refusal word and starts nothing; `jstat` reads
the job, for a job of another package a status word of that package's (its content is free, log 16), `jcancel` withdraws what has not
started, `tnow` gives the Cysyn time. -/
def Obligations.LaunchResults : Prop :=
  ∀ (s s1 s2 : State) (t : Strand) (d a : BitVec 5) (l : List Word) (ids : List Nat) (k : Nat) (j : Job) (e : Cause) (grp : Bool),
    let h := rd t.r a
    let i : Instr := if grp then .gang d a else .spawn d a
    let x : Ctx := ⟨s.cur, t, 4, i.word0⟩
    let w (n : Nat) : Word := (l[n]?).getD 0
    let sid := strandSid s s.cur t.dom
    let refused (c : Cause) (s2 : State) : Prop := exec i s = .next (goesOn s2 t i (wr t.r d (BitVec.ofNat 64 (2 ^ 63 + causeCode c)) false))
    let gen := match aget s2.jobs k with | none => 1 | some o => if o.gen = 65535 then 1 else o.gen + 1
    let loads := (grp = false → ids = []) ∧ (grp = true → halfLoads s1 x (w 12) (bitsOf (w 13) 0 13) = .ok (ids, s2) ∧ mlistOk ids = true) ∧ (grp = false → s2 = s1)
    let good := launchRefusal s2 x grp l = none ∧ freeJob s2 = some k ∧ bitsOf (w 5) 0 40 ≠ 0
    let mine (i : Instr) : Prop := Admits s t i ∧ rdP t.r a = false ∧ bitsOf h 63 1 = 0 ∧ bitsOf h 48 3 = 0 ∧ bitsOf h 12 12 = 0 ∧
      (bitsOf h 24 8 = t.dom ∨ t.priv = .h) ∧ bitsOf h 51 12 = s.pkg ∧ k = bitsOf h 0 12
    let here := aget s.jobs k = some j ∧ j.gen = bitsOf h 32 16 ∧ j.dom = bitsOf h 24 8
    let state := if j.st = .held then 1 else if j.st = .complete then 4 else if j.gang = none ∧ j.undealt = [] then 3 else 2
    let n := rangeCount j.undealt + ((chunksOf s k j.gen).map (fun q => rangeCount q.2.items)).sum
    (Admits s t i → rdP t.r a = false →
      (h.toNat % 64 ≠ 0 → refused .launchCardInvalid s) ∧
      (h.toNat % 64 = 0 → (grp = false → settled s t) → descLoad s x h 32 = .ok (l, s1) →
        (cardOk s1 grp l = false → refused .launchCardInvalid s1) ∧
        (cardOk s1 grp l = true → grp = true → halfLoads s1 x (w 12) (bitsOf (w 13) 0 13) = .ok (ids, s2) → mlistOk ids = false →
          refused .launchCardInvalid s2) ∧
        (cardOk s1 grp l = true → loads → launchRefusal s2 x grp l = some e → refused e s2) ∧
        (cardOk s1 grp l = true → loads → launchRefusal s2 x grp l = none → freeJob s2 = none →
          exec i s = .next (setStrand s s.cur { t with status := .waiting (.job grp d a l ids), inside := false })) ∧
        (cardOk s1 grp l = true → loads → good →
          ∃ s' y, exec i s = .next s' ∧ s'.mem = s2.mem ∧ movedOn s s' t i (wr t.r d
              (BitVec.ofNat 64 (s.pkg * 2 ^ 51 + gen * 2 ^ 32 + t.dom * 2 ^ 24 + k)) false) ∧ s'.lastJob = k ∧ aget s'.jobs k = some y ∧
            y = { y with gen := gen, dom := t.dom, st := .held, prio := bitsOf (w 0) 0 3, v := bitsOf (w 0) 8 6, a := bitsOf (w 0) 14 4,
                         t := bitsOf (w 0) 18 4, body := w 1, args := w 3, astride := bitsOf (w 4) 0 32, count := bitsOf (w 5) 0 40,
                         donech := w 8, undealt := [(0, bitsOf (w 5) 0 40)], ended := 0, never := 0, outstanding := 0, cause := .none,
                         issuer := sid, issued := s.cys.now, cancelled := false } ∧
            y.gang = (if grp then some (ids.map (fun p => ⟨p, false, false, 0, 0⟩)) else none)))) ∧
    (mine (.jstat d a) →
      (here → exec (.jstat d a) s = .next (goesOn s t (.jstat d a) (wr t.r d
        (BitVec.ofNat 64 (state * 2 ^ 61 + causeCode j.cause * 2 ^ 54 + j.ended % 2 ^ 40)) false))) ∧
      (¬ (∃ j, aget s.jobs k = some j ∧ j.gen = bitsOf h 32 16 ∧ j.dom = bitsOf h 24 8) →
        exec (.jstat d a) s = .next (goesOn s t (.jstat d a) (wr t.r d 0 false)))) ∧
    (∀ i ∈ [Instr.jstat d a, .jcancel d a], Admits s t i → rdP t.r a = false →
      (¬ (bitsOf h 63 1 = 0 ∧ bitsOf h 48 3 = 0 ∧ bitsOf h 12 12 = 0) → traps s t i .operandRange 0 0) ∧
      (bitsOf h 63 1 = 0 → bitsOf h 48 3 = 0 → bitsOf h 12 12 = 0 → bitsOf h 24 8 ≠ t.dom → t.priv ≠ .h →
        traps s t i .accessTableDenied 0 0) ∧
      (bitsOf h 63 1 = 0 → bitsOf h 48 3 = 0 → bitsOf h 12 12 = 0 → bitsOf h 24 8 = t.dom → bitsOf h 51 12 ≠ s.pkg →
        ∃ (s' : State) (v : Word), exec i s = .next s' ∧ s'.mem = s.mem ∧ movedOn s s' t i (wr t.r d v false) ∧
          (i = .jstat d a → bitsOf v 61 3 ≤ 4 ∧ bitsOf v 40 14 = 0 ∧ (bitsOf v 61 3 = 0 → v = 0)) ∧
          (i = .jcancel d a → v.toNat ≤ 2 ^ 32))) ∧
    (mine (.jcancel d a) → here → j.gang = none → j.st ≠ .complete → j.parent = none →
      ∃ s' y, exec (.jcancel d a) s = .next s' ∧ s'.mem = s.mem ∧ movedOn s s' t (.jcancel d a) (wr t.r d (BitVec.ofNat 64 n) false) ∧
        aget s'.jobs k = some y ∧ y.undealt = [] ∧ y.never = j.never + n ∧ (n ≠ 0 → y.cause = .jobCancelled) ∧ chunksOf s' k j.gen = []) ∧
    gives s t (.tnow d) d (BitVec.ofNat 64 s.cys.now) false

/-- R191 to R194, R196, R197: a held job starts once its AFTER value is reached and its START is past, with two rounds of chunks, dealt
by its dealer, else by the lowest cluster's die; a core asks while it holds fewer than two chunks, the dealer serves the oldest
request, one in a cycle, and a chunk is a 2N-th of what is left, at least one item; a core offers one item at a time, of the job of highest PRIO; an item that has
ended counts once its accesses, and those of its cluster that it may have read, are done (R242), and the last one completes the job and sends its completion; a gang member that never answered is counted out. -/
def Obligations.LaunchEvents : Prop :=
  ∀ (s : State) (k uid pkg : Nat) (j : Job) (c : CoreId) (q : Chunk) (pre post : List Chunk) (lo hi : Nat)
    (t : List (Nat × Nat)) (m : Member) (dl : Nat) (rest : List (Nat × Nat × CoreId)) (e : Ending),
    let cs := coreSet s j.dom j.clmask j.cmask
    let r := rangeCount j.undealt
    let n := cs.length
    let size := min r (max 1 ((r + (2 * n - 1)) / (2 * n)))
    let x := getCore s c
    let ms := j.gang.getD []
    let done := { j with ending := j.ending.filter (fun u => u.uid ≠ uid), ended := j.ended + 1, outstanding := j.outstanding - 1 }
    aget s.jobs k = some j →
    (j.st = .held → j.gang = none → cs ≠ [] → j.start ≤ s.cys.now →
      (∀ y kk v, j.after = some (y, kk, v) → v ≤ (tlOf (getCore s y) kk).value) →
      exec (.jobStart k) s = .next (jobEmpty (jobCheck ((cs ++ cs).foldl (fun s c => dealTo s k c)
        (setJob s k { j with st := .dealing, dealer := j.dealer.or (cs.head?.map (fun c => c.die)) })) k) k)) ∧
    (askStands s (k, j.gen, c) = true ↔ j.st = .dealing ∧ j.gang = none ∧ j.undealt ≠ [] ∧ c ∈ cs ∧
      (x.launchq.filter (fun q => q.job == k && q.gen == j.gen)).length < 2) ∧
    (j.dealer = some dl → (getDie s dl).asks.filter (askStands s) = (k, j.gen, c) :: rest → (getDie s dl).dealAt ≤ s.cycle → 0 < r →
      ∃ s' items left, exec (.chunkDeal k c) s = .next s' ∧ takeItems j.undealt size = (items, left) ∧
        aget s'.jobs k = some { j with undealt := left } ∧ getDie s' dl = { getDie s dl with asks := rest, dealAt := s.cycle + 1 } ∧
        (getCore s' c).launchq = x.launchq ++ [⟨k, j.gen, (items.head?.map (fun p => p.1)).getD 0, items⟩]) ∧
    (x.launchq = pre ++ q :: post → q.job = k → q.items = (lo, hi) :: t → x.jmu.queue.length < 64 → x.leaving = false → x.pendWord = none →
      (∀ f ∈ x.jmu.queue, ∀ a b c d, f.what ≠ .item a b c d) → j.prio ≤ 7 →
      (∀ a ∈ pre ++ post, ∀ i, aget s.jobs a.job = some i → i.prio ≤ 7 ∧ (i.prio < j.prio ∨ i.prio = j.prio ∧
        (j.issued < i.issued ∨ j.issued = i.issued ∧ (k < a.job ∨ k = a.job ∧ a ∈ post ∧ a ∉ pre)))) →
      let items := if lo + 1 < hi then (lo + 1, hi) :: t else t
      ∃ s', exec (.launchItemOffer c) s = .next s' ∧
        (getCore s' c).jmu.queue = x.jmu.queue ++ [⟨.item k q.gen lo q.base, j.prio, s.cys.now, s.uid⟩] ∧
        (getCore s' c).launchq = x.launchq.filterMap (fun a => if a = q then (if items = [] then none else some { a with items := items }) else some a) ∧
        aget s'.jobs k = some { j with outstanding := j.outstanding + 1 }) ∧
    (s.jobs.findSome? (fun j => (j.2.ending.find? (fun e => e.uid == uid)).map (fun e => (j.1, j.2, e))) = some (k, j, e) →
      (belowDone s e.core uid e.floor [] 2 = false → exec (.itemEnd uid) s = .next s) ∧
      (belowDone s e.core uid e.floor [] 2 = true → exec (.itemEnd uid) s = .next (jobCheck (setJob s k done) k)) ∧
      (belowDone s e.core uid e.floor [] 2 = true → j.st = .dealing → j.gang = none → j.undealt = [] → j.outstanding = 1 → chunksOf s k j.gen = [] → j.parent = none → j.donech ≠ 0 →
        j.cause ≠ .gangLate →
        ∃ s', exec (.itemEnd uid) s = .next s' ∧ aget s'.jobs k = some { done with st := .complete } ∧ s'.flight = s.flight ++
          [⟨s.uid, 0, ⟨payload4 (BitVec.ofNat 64 (s.pkg * 2 ^ 51 + j.gen * 2 ^ 32 + j.dom * 2 ^ 24 + k)) (BitVec.ofNat 64 ((j.ended + 1) % 2 ^ 40))
            (BitVec.ofNat 64 (j.never % 2 ^ 40)) (BitVec.ofNat 64 (causeCode j.cause)), s.cys.now, j.issuer, j.donech, false, 0, false⟩, j.dom, false,
            none, 0, dealerPlace j, false, none, 0⟩])) ∧
    (j.st = .dealing → j.gang = some ms → ms.find? (fun m => m.pkg == pkg) = some m → m.acked = false → m.done = false →
      (wordAt j.card 11).toNat ≤ s.cys.now → m.sent + 100000 ≤ s.cys.now → (∃ y ∈ ms, y.pkg ≠ pkg ∧ y.done = false) →
      ∃ s', exec (.gangMemberUnreachable k pkg) s = .next s' ∧ aget s'.jobs k = some { j with
          gang := some (ms.map (fun m => if m.pkg = pkg then { m with done := true } else m)), ended := (ms.map (fun m => m.ended)).sum } ∧
        (j.donech ≠ 0 → ∃ f, s'.flight = s.flight ++ [f] ∧ f.m.handle = j.donech ∧ f.m.payload =
          payload4 (BitVec.ofNat 64 (pkg * 2 ^ 51)) 0 (BitVec.ofNat 64 (j.count % 2 ^ 40)) (BitVec.ofNat 64 (causeCode .gangMemberUnreachable))))

/-! Timelines and tags. -/

/-- R236, R237, R216, R222: `tlwait` waits until its timeline has the value, and acquires; `tlread` reads value or error status;
`waitany` takes the lowest ready tag of its mask, `waitall` all of them, at once or, for the waiter of highest priority, then of
the longest wait, at TAG_WAIT_GRANT, a satisfied waiter's tags being no newcomer's; `tagfirst`, `tagclr` and `tagrd` read and clear the ready tags. -/
def Obligations.WaitResults : Prop :=
  ∀ (s : State) (t : Strand) (d a b k : BitVec 5) (r : StrandRef) (m : Word) (since : Nat) (any : Bool) (f : Nat),
    let core := s.cur.core
    let x := getCore s core
    let tl := tlOf x k.toNat
    let n := (rd t.r b).toNat
    let mask := rd t.r a
    let lowest (w : Word) (f : Nat) : Prop := f < 64 ∧ w.getLsbD f = true ∧ ∀ j < f, w.getLsbD j = false
    let take (s : State) (c : CoreId) (w : Word) : State := acquire (updCore s c (fun x => { x with tagR := x.tagR &&& ~~~w })) c 2
    let errWord : Word := if tl.err then BitVec.ofNat 64 (2 ^ 63 + tl.first % 2 ^ 63) else 0
    let known := x.tagR ||| x.tagA
    let wanted := ∃ z ∈ x.strands, ∃ v d' a' m' w, z.2.status = .waiting (.tags v d' a' m' w) ∧
      (if v = true then x.tagR &&& m' ≠ 0 else x.tagR &&& m' = m') ∧ m' &&& mask ≠ 0
    let y := getCore s r.core
    let ready (any : Bool) (m : Word) : Prop := if any then y.tagR &&& m ≠ 0 else y.tagR &&& m = m
    (Admits s t (.tlwait k b) → rdP t.r b = false →
      (tl.posted < n → traps s t (.tlwait k b) .timelineInvalid 0 0) ∧
      (n ≤ tl.posted → tl.value < n →
        exec (.tlwait k b) s = .next (setStrand s s.cur { t with status := .waiting (.timeline k.toNat n), inside := true })) ∧
      (n ≤ tl.posted → n ≤ tl.value → exec (.tlwait k b) s = .next (goesOn (acquire s core 2) t (.tlwait k b) t.r))) ∧
    (k.toNat < 6 → gives s t (.tlread d k 0) d (BitVec.ofNat 64 tl.value) false ∧ gives s t (.tlread d k 1) d errWord false ∧
      (Admits s t (.tlread d k 2) → exec (.tlread d k 2) s = .next (goesOn (setCore s core { x with
        tls := x.tls.setIfInBounds k.toNat { tl with err := false, first := 0 } }) t (.tlread d k 2) (wr t.r d errWord false)))) ∧
    (Admits s t (.waitany d a) → rdP t.r a = false →
      (known &&& mask = 0 → traps s t (.waitany d a) .operandRange 0 0) ∧
      (known &&& mask ≠ 0 → x.tagR &&& mask = 0 ∨ wanted →
        exec (.waitany d a) s = .next (setStrand s s.cur { t with status := .waiting (.tags true d a mask s.cycle), inside := true })) ∧
      (lowest (x.tagR &&& mask) f → ¬ wanted →
        exec (.waitany d a) s = .next (goesOn (take s core (BitVec.ofNat 64 (2 ^ f))) t (.waitany d a) (wr t.r d (BitVec.ofNat 64 f) false)))) ∧
    (Admits s t (.waitall a) → rdP t.r a = false →
      (mask = 0 ∨ known &&& mask ≠ mask → traps s t (.waitall a) .operandRange 0 0) ∧
      (mask ≠ 0 → known &&& mask = mask → x.tagR &&& mask ≠ mask ∨ wanted →
        exec (.waitall a) s = .next (setStrand s s.cur { t with status := .waiting (.tags false 0 a mask s.cycle), inside := true })) ∧
      (mask ≠ 0 → x.tagR &&& mask = mask → ¬ wanted → exec (.waitall a) s = .next (goesOn (take s core mask) t (.waitall a) t.r))) ∧
    (rdP t.r a = false → (lowest (x.tagR &&& mask) f → gives s t (.tagfirst d a) d (BitVec.ofNat 64 f) false) ∧
      (x.tagR &&& mask = 0 → gives s t (.tagfirst d a) d (BitVec.ofInt 64 (-1)) false)) ∧
    (Admits s t (.tagclr a) → rdP t.r a = false →
      exec (.tagclr a) s = .next (goesOn (updCore s core (fun x => { x with tagR := x.tagR &&& ~~~mask })) t (.tagclr a) t.r)) ∧
    gives s t (.tagrd d 0) d x.tagR false ∧ gives s t (.tagrd d 1) d x.tagA false ∧
    (getStrand s r = some t → t.shadow = none → t.step1 = false → t.status = .waiting (.tags any d a m since) → ready any m → m ≠ 0 →
      (∀ z ∈ y.strands, z.1 ≠ r.slot → ∀ any' d' a' m' w, z.2.status = .waiting (.tags any' d' a' m' w) → ready any' m' →
        z.2.prio ≤ 255 ∧ t.prio ≤ 255 ∧ (z.2.prio < t.prio ∨ z.2.prio = t.prio ∧ (since < w ∨ since = w ∧ r.slot < z.1))) →
      (y.strands.map (fun z => z.1)).Nodup →
      (any = true → lowest (y.tagR &&& m) f → exec (.tagWaitGrant r.core) s = .next (went (take s r.core (BitVec.ofNat 64 (2 ^ f))) r t
        (.waitany d a) (t.pc + 4) false 0 (wr t.r d (BitVec.ofNat 64 f) false))) ∧
      (any = false → exec (.tagWaitGrant r.core) s = .next (went (take s r.core m) r t (.waitall a) (t.pc + 4) false 0)))

/-! The dense tile engine. -/

namespace Sys2Proof.Says

/-- The engine command `q` is posted (R283, R306): it has the next number of timeline `tl`, its number goes to `d`, and nothing in
memory changes. -/
def enqueued (s : State) (t : Strand) (i : Instr) (d : BitVec 5) (kudu : Bool) (a b c e : Word) (scl : BitVec 1024) : Prop :=
  let core := s.cur.core
  let queue (x : Core) : List EngCmd := if kudu then x.kuduq else x.dteq
  let tl : Nat := if kudu then 5 else 4
  let n := (tlOf (getCore s core) tl).posted + 1
  ((queue (getCore s core)).length < 16 → ∃ s' q, exec i s = .next s' ∧ movedOn s s' t i (wr t.r d (BitVec.ofNat 64 n) false) ∧
    queue (getCore s' core) = queue (getCore s core) ++ [q] ∧ (tlOf (getCore s' core) tl).posted = n ∧ s'.mem = s.mem ∧
    (getCore s' core).spad = (getCore s core).spad ∧ q.w0 = i.word0 ∧ q.a = a ∧ q.b = b ∧ q.c = c ∧ q.e = e ∧ q.scl = scl ∧ q.num = n ∧
    q.step = 0 ∧ q.who = ⟨t.uid, strandSid s s.cur t.dom, t.dom, t.priv, t.pc, s.uid⟩) ∧
  (16 ≤ (queue (getCore s core)).length →
    exec i s = .next (setStrand s s.cur { t with status := .waiting (.queue (if kudu then 5 else 4)), inside := false }))

/-- A fault that names a tile or a table (R327). -/
def tileFault (s : State) (t : Strand) (i : Instr) (c : Cause) (n : Nat) : Prop := traps s t i c (BitVec.ofNat 64 (n % 8 * 256)) 0

/-- The operand of an engine command lies where R287 allows it. -/
def operandFits (s : State) (t : Strand) (i : Instr) (va : Word) (len al : Nat) (ok : Bool) : Prop :=
  ∀ e, engCheck s ⟨s.cur, t, i.len, i.word0⟩ e va len al ok = .ok ()

end Sys2Proof.Says

/-- R283 to R289, R292 to R295: a good `tmma`, `tzero`, `tst` or `tscl` is numbered on tl4 and queued, its number written to Q; a pair,
a tile format, a shape or an operand outside the rules raises its fault; `tget` reads a row of a tile and `tset` writes one or
all of them once no command names the tile. -/
def Obligations.TileResults : Prop :=
  ∀ (s : State) (t : Strand) (d a b c e fa fb q : BitVec 5) (sc sat col bc : BitVec 1),
    let k := getCore s s.cur.core
    let free (n : BitVec 5) : Prop := tileBusy k.kuduq true t.uid [n.toNat] = none
    let fmt := futureTag k t.uid d.toNat (tileOf t d.toNat)
    let f8 (f : BitVec 5) : Prop := f = 8 ∨ f = 9
    let want (m : Nat) : Prop := (m = 12 ∧ ((f8 fa ∧ f8 fb) ∨ (fa = 13 ∧ fb = 13) ∨ (fa = 11 ∧ fb = 11 ∧ sc = 0))) ∨ (m = 5 ∧ fa = 1 ∧ fb = 1 ∧ sc = 0)
    let shape := rd t.r c
    let n := bitsOf shape 0 13
    let as_ := bitsOf shape 16 24
    let bs := bitsOf shape 40 24
    let i : Instr := .tmma d a b c e fa fb sc q
    let size := tagWidth fa.toNat / 8
    let st := (rd t.r c).toNat
    let clean (l : List (BitVec 5)) : Prop := ∀ r ∈ l, rdP t.r r = false
    let sound (r : BitVec 5) : Prop := r.toNat ≤ 30 ∧ r.toNat + 1 < t.r.v.length ∧ (vreg t.r r).pois = 0 ∧ (vreg t.r (r + 1)).pois = 0
    let both (r : BitVec 5) : BitVec 1024 := (vreg t.r (r + 1)).bits ++ (vreg t.r r).bits
    let idle (n : BitVec 5) : Prop := free n ∧ tileBusy k.dteq false t.uid [n.toNat] = none
    let row := (rd t.r b).toNat
    let old := tileOf t a.toNat
    let dst := tileOf t d.toNat
    let rowElem (m : Nat) : Nat := (both a).toNat / 2 ^ (32 * m) % 2 ^ 32
    (Admits s t i → clean [a, b, c, e] → free d →
      ((∀ m, ¬ want m) → tileFault s t i .tileKindUnsupported d.toNat) ∧
      (∀ m, want m → (fmt ≠ m → tileFault s t i .accumulatorFormat d.toNat) ∧
        (fmt = m → n % 32 ≠ 0 ∨ n < 32 ∨ 4096 < n ∨ bitsOf shape 13 3 ≠ 0 → tileFault s t i .tileShape d.toNat) ∧
        (fmt = m → n % 32 = 0 → 32 ≤ n → n ≤ 4096 → bitsOf shape 13 3 = 0 →
          ((rd t.r a).toNat < 2 ^ 56 → tileFault s t i .tileOperandRange d.toNat) ∧
          (operandFits s t i (rd t.r a) (31 * as_ + n * tagWidth fa.toNat / 8) 16 (decide (as_ % 16 = 0)) →
            operandFits s t i (rd t.r b) (31 * bs + n * tagWidth fb.toNat / 8) 16 (decide (bs % 16 = 0)) →
            (sc = 1 → operandFits s t i (rd t.r e) (2 * n) 1 true) →
            enqueued s t i q false (rd t.r a) (rd t.r b) shape (rd t.r e) 0)))) ∧
    (Admits s t (.tzero d fa q) → free d →
      (fa ≠ 12 → fa ≠ 5 → tileFault s t (.tzero d fa q) .accumulatorFormat d.toNat) ∧
      (fa = 12 ∨ fa = 5 → enqueued s t (.tzero d fa q) q false 0 0 0 0 0)) ∧
    (Admits s t (.tst d a c fa sat q) → clean [a, c] → free d →
      let ok := if fmt = 12 then fa ∈ [12#5, 10, 11, 8, 9] else fa ∈ [5#5, 6, 3, 4, 1, 2]
      (¬ ok → tileFault s t (.tst d a c fa sat q) .tileKindUnsupported d.toNat) ∧
      (ok → 2 ^ 24 ≤ st → tileFault s t (.tst d a c fa sat q) .tileOperandRange d.toNat) ∧
      (ok → st < 2 ^ 24 → operandFits s t (.tst d a c fa sat q) (rd t.r a) (31 * st + 32 * size) size (decide (st % size = 0)) →
        enqueued s t (.tst d a c fa sat q) q false (rd t.r a) 0 (rd t.r c) 0 0)) ∧
    (Admits s t (.tscl d a col q) → sound a → free d → tagOf t a = 12 → tagOf t (a + 1) = 12 →
      (fmt ≠ 12 → tileFault s t (.tscl d a col q) .accumulatorFormat d.toNat) ∧
      (fmt = 12 → enqueued s t (.tscl d a col q) q false 0 0 0 0 (both a))) ∧
    (Admits s t (.tget d a b) → rdP t.r b = false → d.toNat ≤ 30 → d.toNat + 1 < t.r.v.length → idle a →
      (32 ≤ row → traps s t (.tget d a b) .operandRange 0 0) ∧
      (row < 32 → ∃ x y, exec (.tget d a b) s = .next (goesOn s t (.tget d a b)
          { t.r with v := (t.r.v.set d.toNat x).set (d.toNat + 1) y }) ∧
        x.tag = (if old.f32 then 12 else 5) ∧ y.tag = x.tag ∧ x.pois = 0 ∧ y.pois = 0 ∧
        ∀ m < 16, elemOf x.bits 32 m = tileElem old.bits row m ∧ elemOf y.bits 32 m = tileElem old.bits row (16 + m))) ∧
    (Admits s t (.tset d a b bc) → rdP t.r b = false → sound a → idle d → tagOf t a = tagOf t (a + 1) → tagOf t a = 5 ∨ tagOf t a = 12 →
      (bc = 0 → tagOf t a ≠ (if dst.f32 then 12 else 5) → traps s t (.tset d a b bc) .formatMismatch 0 0) ∧
      (bc = 1 → row ≠ 0 → traps s t (.tset d a b bc) .operandRange 0 0) ∧
      (bc = 1 → row = 0 → ∃ x, exec (.tset d a b bc) s = .next (goesOn s { t with tiles := t.tiles.set d.toNat x } (.tset d a b bc) t.r) ∧
        x.f32 = decide (tagOf t a = 12) ∧ x.sticky = false ∧ ∀ m < 32, ∀ n < 32, tileElem x.bits m n = rowElem n) ∧
      (bc = 0 → tagOf t a = (if dst.f32 then 12 else 5) → row < 32 →
        ∃ x, exec (.tset d a b bc) s = .next (goesOn s { t with tiles := t.tiles.set d.toNat x } (.tset d a b bc) t.r) ∧
          x.f32 = dst.f32 ∧ x.sticky = dst.sticky ∧
          ∀ m < 32, ∀ n < 32, tileElem x.bits m n = if m = row then rowElem n else tileElem dst.bits m n))

/-- R282, R289 to R294, R296, R53, R403, R404: a DTE step performs the next step of the first command that has one: `tmma` accumulates one chunk of 32 into
every element, `tzero` clears the tile, `tst` writes eight rows to their scratchpad and nowhere else, `tscl` multiplies by row or
column; a step that meets a fault ends its command with the error status; the head command completes on tl4 after its steps. A step
takes the cycles of its kind, or one for every 64 neighbour bytes, bubbles apart, and the next waits for it; a strand whose save
waits begins no other (R297). The model's own: a step's writes stand at its beginning, with `left` cycles after (log 34), it reads
and writes at once (log 37), and a faulted command leaves the queue at once (log 42). -/
def Obligations.TileSteps : Prop :=
  ∀ (s : State) (c : CoreId) (q : EngCmd) (pre post : List EngCmd) (r : StrandRef) (u : Strand) (ra rb : List (List Byte)) (sb : List Byte)
    (owner : CoreId) (place : Nat → Nat) (e : Cause),
    let k := getCore s c
    let n := engD q
    let t := tileOf u n
    let fa := engFa q
    let fb := engFb q
    let sc := q.w1.getLsbD 11
    let kk := bitsOf q.c 0 13
    let as_ := bitsOf q.c 16 24
    let bs := bitsOf q.c 40 24
    let at_ (base : Word) (o : Nat) : Word := base + BitVec.ofNat 64 o
    let rowsA := (List.range 32).map (fun i => at_ q.a (i * as_ + q.step * (32 * tagWidth fa / 8)))
    let rowsB := (List.range 32).map (fun j => at_ q.b (j * bs + q.step * (32 * tagWidth fb / 8)))
    let rowsE := (List.range 32).map (fun i => at_ q.e (i * (kk / 32) + q.step)) ++
      (List.range 32).map (fun j => at_ q.e (kk + j * (kk / 32) + q.step))
    let byte (l : List (List Byte)) (i e w : Nat) : Nat := (leNat ((l[i]?).getD []) / 2 ^ (w * e)) % 2 ^ w
    let signed (l : List (List Byte)) (i e : Nat) : Int := (BitVec.ofNat 8 (byte l i e 8)).toInt
    let scale (i : Nat) : FVal := if sc then fdecE8m0 ((sb[i]?).getD 0).toNat else .fin false 1 0
    let value (f : Nat) (l : List (List Byte)) (i e : Nat) (z : FVal) : FVal := (fmulX (elemVal f (byte l i e (tagWidth f))) z).1
    let chunk (i j : Nat) : List FVal := (List.range 32).map (fun e => (fmulX (value fa ra i e (scale i)) (value fb rb j e (scale (32 + j)))).1)
    let far (va : Word) (n : Nat) : Nat := match windowOf c va with | .spad o _ _ => if o = c then 0 else n | _ => 0
    let kind : Nat := if engFn q = 0 then (if fa = 13 then 4 else if fa = 11 then 16 else 8) else if engFn q = 3 then 8 else 4
    let afar : Nat := if engFn q = 0 then far q.a (32 * (32 * tagWidth fa / 8)) + far q.b (32 * (32 * tagWidth fb / 8)) + (if sc then far q.e 64 else 0) else 0
    let after : EngCmd := { q with step := q.step + 1, left := max kind ((afar + 63) / 64) }
    let progress := k.bubble ≤ s.cycle % 16
    let stepped (x : Tile) : Prop := ∃ s', exec (.dteStep c) s = .next s' ∧ (getCore s' c).dteq = pre ++ after :: post ∧
      getStrand s' r = some { u with tiles := u.tiles.set n x } ∧ s'.mem = s.mem ∧ (getCore s' c).spad = k.spad
    let reads (l : List Word) (m : Nat) (bs : List (List Byte)) : Prop := engRows s c q.who.dom m l = .ok (bs, s)
    let exact (i j : Nat) : Int := (BitVec.ofNat 32 (tileElem t.bits i j)).toInt + ((List.range 32).map (fun e => signed ra i e * signed rb j e)).sum
    let size := tagWidth fa / 8
    let out (i j : Nat) : Nat := if t.f32 then (toFloat fa .rne (q.w1.getLsbD 11) (fdec fmtF32 (tileElem t.bits i j))).1
      else (satInt fa (BitVec.ofNat 32 (tileElem t.bits i j)).toInt).1
    (k.dteq = pre ++ q :: post → (∀ x ∈ pre, dteSteps x ≤ x.step) → q.step < dteSteps q → (∀ x ∈ pre ++ post, x.num ≠ q.num) →
      engStrand s c q.who.uid = some (r, u) → released s c q.who = true →
      (¬ progress ∨ u.stopping = true ∨ (∃ x ∈ k.dteq, x.left ≠ 0) → exec (.dteStep c) s = .next s) ∧
      (progress → u.stopping = false → (∀ x ∈ k.dteq, x.left = 0) →
      (engFn q = 0 → fa ≠ 1 → reads rowsA (32 * tagWidth fa / 8) ra → reads rowsB (32 * tagWidth fb / 8) rb →
        (sc = true → reads rowsE 1 (sb.map (fun b => [b]))) →
        ∃ x : Tile, stepped x ∧ x.f32 = t.f32 ∧ x.sticky = t.sticky ∧ ∀ i < 32, ∀ j < 32, tileElem x.bits i j =
          (fround fmtF32 .rne (fsumX .rne [fdec fmtF32 (tileElem t.bits i j), (fsumX .rne (chunk i j)).1]).1).1 % 2 ^ 32) ∧
      (engFn q = 0 → fa = 1 → fb = 1 → sc = false → reads rowsA 32 ra → reads rowsB 32 rb →
        ∃ x : Tile, stepped x ∧ x.f32 = t.f32 ∧
          (∀ i < 32, ∀ j < 32, (BitVec.ofNat 32 (tileElem x.bits i j)).toInt = max (-2 ^ 31) (min (exact i j) (2 ^ 31 - 1))) ∧
          (x.sticky = true ↔ t.sticky = true ∨ ∃ i < 32, ∃ j < 32, exact i j < -2 ^ 31 ∨ 2 ^ 31 ≤ exact i j)) ∧
      (engFn q = 1 → stepped ⟨0, decide (fa = 12), false⟩) ∧
      (engFn q = 3 → ∃ x : Tile, stepped x ∧ x.f32 = t.f32 ∧ x.sticky = t.sticky ∧ ∀ i < 32, ∀ j < 32, tileElem x.bits i j =
        (fmul fmtF32 .rne (tileElem t.bits i j) (q.scl.toNat / 2 ^ (32 * (if q.w1.getLsbD 10 then j else i)) % 2 ^ 32)).1 % 2 ^ 32) ∧
      (engFn q = 2 → q.step < 4 → size ∈ [1, 2, 4] → s.memWf = true → (getCore s owner).spadBad = [] →
        (∀ i, 8 * q.step ≤ i → i < 8 * q.step + 8 → engPlace s c q.who.dom (at_ q.a (i * q.c.toNat)) (32 * size) = .ok (owner, place i)) →
        (∀ i j, 8 * q.step ≤ i → i < j → j < 8 * q.step + 8 → place i + 32 * size ≤ place j) →
        ∃ s', exec (.dteStep c) s = .next s' ∧ (getCore s' c).dteq = pre ++ after :: post ∧ s'.mem = s.mem ∧
          (∀ i, 8 * q.step ≤ i → i < 8 * q.step + 8 → ∀ j < 32,
            memBytes (getCore s' owner).spad (place i + j * size) size = leBytes size (out i j)) ∧
          (∀ b, (∀ i, 8 * q.step ≤ i → i < 8 * q.step + 8 → b < place i ∨ place i + 32 * size ≤ b) →
            memRead (getCore s' owner).spad b = memRead (getCore s owner).spad b) ∧
          ∀ o, o ≠ owner → (getCore s' o).spad = (getCore s o).spad) ∧
      (engFn q = 0 → engRows s c q.who.dom (32 * tagWidth fa / 8) rowsA = .error (e, s) →
        ∃ s', exec (.dteStep c) s = .next s' ∧ (getCore s' c).dteq = pre ++ post ∧ (getCore s' c).spad = k.spad ∧
          ∃ v, getStrand s' r = some v ∧ v.tiles = u.tiles ∧ v.r = u.r))) ∧
    (k.dteq = q :: post → dteSteps q ≤ q.step → q.left = 0 → (∀ x ∈ post, x.num ≠ q.num) → (tlOf k 4).value + 1 = q.num →
      (∀ a ∈ (tlOf k 4).ahead, q.num + 1 < a.1) →
      ∃ s', exec (.dteComplete c) s = .next s' ∧ (getCore s' c).dteq = post ∧ (tlOf (getCore s' c) 4).value = q.num ∧
        (tlOf (getCore s' c) 4).err = (tlOf k 4).err ∧ s'.mem = s.mem)

/-! The lookup engine. -/

/-- R302, R305, R306, R308 to R311, R314, R315: a good `lbld`, `lmm`, `linv` or `lrbld` is numbered on tl5 and queued, its number written to
Q; a source that is not the core's own, a table that is unbuilt or of another mode, a stale table under the trap policy and a
tile of the wrong format raise their faults; `lstat` reads the record and its validity, or the source address. -/
def Obligations.LookupResults : Prop :=
  ∀ (s : State) (t : Strand) (d a b c fmt q : BitVec 5) (mode pol sel : BitVec 1) (nt : BitVec 3),
    let core := s.cur.core
    let k := getCore s core
    let va := rd t.r a
    let str := (rd t.r b).toNat
    let i : Instr := .lbld d a b fmt mode pol q
    let j : Instr := .lmm d a b c fmt nt q
    let st := (rd t.r c).toNat
    let view (n : Nat) : TabView := futureTab k t.uid n (tabOf t n)
    let tabs := rangeFrom b.toNat (nt.toNat + 1)
    let first := view b.toNat
    let groups := (nt.toNat + 1) * (if first.mode then (if first.bf then 16 else 32) else if first.bf then 4 else 8)
    let bytes := if fmt = 17 then groups / 2 else if fmt = 15 then 2 * groups else groups
    let fits := b.toNat + nt.toNat < 8 ∧ b.toNat + nt.toNat < t.tabs.length
    let alike := ∀ n ∈ tabs, (view n).mode = first.mode ∧ (view n).bf = first.bf ∧ ((view n).mode = true ↔ fmt ≠ 18)
    let fresh := ∀ n ∈ tabs, (view n).named = true ∨ (view n).pol = true ∨ (view n).st = .valid
    let x := tabOf t b.toNat
    let cause := match x.st with | .unbuilt => 0 | .valid => 0 | .written => 1 | .restored => 2 | .cleared => 3 | .failed => 4
    let own := 0xFF00000000000000 ≤ va.toNat ∧ va.toNat < 0xFF00000000200000
    let off := va.toNat - 0xFF00000000000000
    let len := 31 * str + (if mode = 1 then 128 else 32)
    let inside := off + len ≤ 0x200000
    (Admits s t i → rdP t.r a = false → rdP t.r b = false →
      (fmt ≠ 1 → fmt ≠ 11 → traps s t i .formatUnsupported 0 0) ∧
      (fmt = 1 ∨ fmt = 11 → 2 ^ 24 ≤ str → tileFault s t i .tileShape d.toNat) ∧
      (fmt = 1 ∨ fmt = 11 → str < 2 ^ 24 →
        (va.toNat < 2 ^ 56 → tileFault s t i .tableSourceNotLocal d.toNat) ∧
        (core.kind = .compute → 0xFF10000000000000 ≤ va.toNat → va.toNat < 0xFF10000002000000 → tileFault s t i .tableSourceNotLocal d.toNat) ∧
        (windowOf core va = .unmapped → traps s t i .windowUnmapped 0 va) ∧
        (own → va.toNat % 16 ≠ 0 ∨ str % 16 ≠ 0 → traps s t i .misaligned 0 va) ∧
        (own → va.toNat % 16 = 0 → str % 16 = 0 → ¬ inside → traps s t i .windowCrossing 0 va) ∧
        (own → va.toNat % 16 = 0 → str % 16 = 0 → inside → spadSize core k < off + len → traps s t i .scratchpadBeyondPartition 0 va) ∧
        (own → va.toNat % 16 = 0 → str % 16 = 0 → inside → off + len ≤ spadSize core k → enqueued s t i q true va (rd t.r b) 0 0 0))) ∧
    (Admits s t j → rdP t.r a = false → rdP t.r c = false → t.tiles.length ≤ d.toNat + 3 → traps s t j .frameRegister 0 0) ∧
    (Admits s t j → rdP t.r a = false → rdP t.r c = false → d.toNat + 3 < t.tiles.length →
      (¬ fits → tileFault s t j .tableFrame b.toNat) ∧
      (∀ m, fits → tileBusy k.dteq false t.uid (rangeFrom d.toNat 4) = some m → tileFault s t j .accumulatorFrame m) ∧
      (fits → tileBusy k.dteq false t.uid (rangeFrom d.toNat 4) = none → fmt ∉ [15#5, 16, 17, 18] → traps s t j .formatUnsupported 0 0) ∧
      (fits → tileBusy k.dteq false t.uid (rangeFrom d.toNat 4) = none → fmt ∈ [15#5, 16, 17, 18] →
        (∀ n, n ∈ tabs → (view n).recd = false → (∀ m ∈ tabs, m < n → (view m).recd = true) → tileFault s t j .tableNotBuilt n) ∧
        ((∀ n ∈ tabs, (view n).recd = true) →
          (alike → ∀ m, d.toNat ≤ m → m < d.toNat + 4 → (tileOf t m).f32 ≠ first.bf →
            (∀ y, d.toNat ≤ y → y < m → (tileOf t y).f32 = first.bf) → tileFault s t j .accumulatorFormat m) ∧
          (alike → (∀ m, d.toNat ≤ m → m < d.toNat + 4 → (tileOf t m).f32 = first.bf) →
            (∀ n, n ∈ tabs → (view n).named = false → (view n).pol = false → (view n).st ≠ .valid →
              (∀ m ∈ tabs, m < n → (view m).named = true ∨ (view m).pol = true ∨ (view m).st = .valid) →
              tileFault s t j (if (view n).st = .restored then .tableStaleRestored else .tableStaleWritten) n) ∧
            (fresh → 2 ^ 24 ≤ st → tileFault s t j .tileShape d.toNat) ∧
            (fresh → st < 2 ^ 24 → va.toNat < 2 ^ 56 → tileFault s t j .tileOperandRange d.toNat) ∧
            (fresh → st < 2 ^ 24 → operandFits s t j va (127 * st + bytes) 8 (decide (st % 8 = 0)) →
              enqueued s t j q true va 0 (rd t.r c) 0 0)) ∧
          (¬ alike → ∃ n ∈ tabs, tileFault s t j .tableModeMismatch n)))) ∧
    (Admits s t (.linv d q) → enqueued s t (.linv d q) q true 0 0 0 0 0) ∧
    (Admits s t (.lrbld d q) →
      ((view d.toNat).recd = true → enqueued s t (.lrbld d q) q true 0 0 0 0 0) ∧
      ((view d.toNat).recd = false → tileFault s t (.lrbld d q) .tableNotBuilt d.toNat)) ∧
    ((∀ y ∈ k.kuduq, y.who.uid = t.uid → b.toNat ∉ engTabs y) →
      (x.recd = false → gives s t (.lstat d b 0) d 0 false ∧ gives s t (.lstat d b 1) d 0 false) ∧
      (x.recd = true → gives s t (.lstat d b 1) d x.src false) ∧
      (x.recd = true → x.stride.toNat < 2 ^ 24 → x.rebuilds < 2 ^ 16 → ∃ v : Word, gives s t (.lstat d b 0) d v false ∧
        (v.getLsbD 63 = true ↔ x.st = .valid) ∧ bitsOf v 60 3 = cause ∧ v.getLsbD 59 = true ∧ v.getLsbD 58 = x.pol ∧ v.getLsbD 57 = x.mode ∧
        bitsOf v 52 5 = x.afmt.toNat ∧ bitsOf v 24 24 = x.stride.toNat ∧ bitsOf v 16 8 = 0 ∧ bitsOf v 0 16 = x.rebuilds)) ∧
    (Admits s t (.lstat d b sel) → (∃ y ∈ k.kuduq, y.who.uid = t.uid ∧ b.toNat ∈ engTabs y) →
      exec (.lstat d b sel) s = .next (setStrand s s.cur { t with status := .waiting (.engine [] [b.toNat] false), inside := true }))

/-- R299, R303 to R306, R310, R312 to R314, R316, R54, R403: a Kudu step builds a table from its source or invalidates it, starts and ends a rebuild
(Written when a write has met it), which a table under the rebuild policy gets before the `lmm` step, or adds the selected
sums of up to eight groups into the quad; an integer `lmm` adds weight times activation with saturation; a tq4 byte above 80
ends the command with `table-index-range`; a step that ends its command completes it with the error status. A step takes the cycles of its
kind, or one for every 64 neighbour bytes, and the next waits for it; the tables of a step are asked once (R312), and a strand whose
save waits begins no other step (R318). The model's own: when a step's writes stand and how long it takes (log 34), that it reads and
writes at once (log 37), that a faulted command leaves the queue at once (log 42). -/
def Obligations.LookupSteps : Prop :=
  ∀ (s : State) (c : CoreId) (q : EngCmd) (post : List EngCmd) (r : StrandRef) (u : Strand) (rows : List (List Byte)) (w : Nat) (new : TileBits),
    let k := getCore s c
    let n := engD q
    let x := tabOf u n
    let mine := k.kuduq = q :: post ∧ engStrand s c q.who.uid = some (r, u) ∧ q.step < kuduSteps u q ∧ (∀ y ∈ post, y.num ≠ q.num) ∧
      released s c q.who = true
    let turn := mine ∧ k.bubble ≤ s.cycle % 16 ∧ ∀ y ∈ k.kuduq, y.left = 0
    let runs := turn ∧ q.build = none ∧ u.stopping = false
    let acted (q' : EngCmd) (v : Strand) : Prop := ∃ s', exec (.kuduStep c) s = .next s' ∧ s'.mem = s.mem ∧ (getCore s' c).spad = k.spad ∧
      (getCore s' c).kuduq = q' :: post ∧ getStrand s' r = some v
    let stepped (v : Strand) (n : Nat) : Prop := acted { q with step := q.step + 1, left := n } v
    let build (mode bf : Bool) : Nat := (if mode then 16 + 36 * (if bf then 2 else 1) else 4 + 41 * (if bf then 2 else 1))
    let ended : Prop := ∃ s', exec (.kuduStep c) s = .next s' ∧ (getCore s' c).kuduq = post ∧ (getCore s' c).spad = k.spad ∧
      ∃ v, getStrand s' r = some v ∧ v.tiles = u.tiles ∧ v.r = u.r
    let len (m : Bool) : Nat := if m then 128 else 32
    let source (t : Table) : Prop := engRows s c q.who.dom (len t.mode)
      ((List.range 32).map (fun i => t.src + BitVec.ofNat 64 i * t.stride)) = .ok (rows, s)
    let holds (mode : Bool) (acts : TileBits) : Prop := ∀ i < 32, ∀ e < len mode,
      (acts.toNat / 2 ^ (8 * (len mode * i + e))) % 256 = (((rows[i]?).getD [])[e]?.getD 0).toNat
    let begins (m : Nat) (l : List Nat) : Prop := source (tabOf u m) → ∃ acts, acted { q with hit := false, build := some (m, acts), checked := l, left := build (tabOf u m).mode (decide ((tabOf u m).afmt = 11)) - 1 } u ∧ holds (tabOf u m).mode acts
    let built : Table := ⟨true, q.a, q.b, q.w1.getLsbD 20, q.w1.getLsbD 21, engFmt q, if q.hit then .written else .valid, 0, 0⟩
    let b0 := q.w0.toNat / 2 ^ 9 % 32
    let cnt := q.w1.toNat / 2 ^ 17 % 8 + 1
    let t0 := tabOf u b0
    let g0 := if t0.mode then (if t0.afmt = 11 then 16 else 32) else if t0.afmt = 11 then 4 else 8
    let f := engFmt q
    let lo := 8 * q.step
    let first := b0 + lo / g0
    let m := min 8 (cnt * g0 - lo)
    let bytes (n : Nat) : Nat := if f = 17 then n / 2 else if f = 15 then 2 * n else n
    let far : Nat := match windowOf c q.a with | .spad o _ _ => if o = c then 0 else 128 * bytes m | _ => 0
    let kind : Nat := if f = 15 then 32 else if f = 16 then 16 else 8
    let takes : Nat := max (if m < 8 then kind / 2 else kind) ((far + 63) / 64)
    let weights : Prop := engRows s c q.who.dom (bytes m) ((List.range 128).map (fun j => q.a + BitVec.ofNat 64 (j * q.c.toNat + bytes lo))) = .ok (rows, s)
    let grp (g : Nat) : Table := tabOf u (b0 + (lo + g) / g0)
    let weight (j g e : Nat) : Int := ((rowWeights f (leNat ((rows[j]?).getD [])) g)[e]?).getD 0
    let act (i g e : Nat) : Int := (BitVec.ofNat 8 (tabAct (grp g) i (4 * ((lo + g) % g0) + e))).toInt
    let sum (i j g : Nat) : Int := ((List.range 4).map (fun e => weight j g e * act i g e)).sum
    let acc (i j : Nat) (v : Int) (gs : List Nat) : Int := gs.foldl (fun v g => max (-2 ^ 31) (min (v + sum i j g) (2 ^ 31 - 1))) v
    let old (z : Nat) : Tile := tileOf u (n + z)
    (mine → s.cycle % 16 < k.bubble ∨ (∃ y ∈ k.kuduq, y.left ≠ 0) ∨ (u.stopping = true ∧ q.build = none) → exec (.kuduStep c) s = .next s) ∧
    (runs → engFn q = 0 → source built → ∃ y : Table, y = { built with acts := y.acts } ∧
      stepped { u with tabs := u.tabs.set n y } (build built.mode (decide (built.afmt = 11))) ∧ holds y.mode y.acts) ∧
    (runs → engFn q = 2 → stepped { u with tabs := u.tabs.set n (if x.recd then
      { x with st := if ((q.who.uid, n), s.cycle) ∈ k.tabHits then .written else .cleared } else x) } 1) ∧
    (runs → engFn q = 4 → x.recd = true → begins n q.checked) ∧
    (turn → engFn q = 1 ∨ engFn q = 4 → q.build = some (w, new) → acted { q with build := none, step := if engFn q = 1 then q.step else q.step + 1 }
      { u with tabs := u.tabs.set w { tabOf u w with
          acts := new, st := if q.hit then .written else .valid, rebuilds := min ((tabOf u w).rebuilds + 1) 0xFFFF } }) ∧
    (runs → engFn q = 4 → x.recd = false → ended) ∧
    (runs → engFn q = 1 → (∀ g < m, b0 + (lo + g) / g0 ∈ q.checked ∨ (grp g).recd = true ∧ (grp g).st = .valid) → t0.afmt = 1 → (∀ g < m, (grp g).afmt = 1 ∧ (grp g).mode = t0.mode) → weights →
      (f = 18 → (∃ g < m, ∃ j < 128, 81 ≤ (leNat ((rows[j]?).getD []) / 2 ^ (8 * g)) % 256) → ended) ∧
      (n + 3 < u.tiles.length → f ∈ [15#5, 16, 17, 18] → (f = 18 → ∀ g < m, ∀ j < 128, (leNat ((rows[j]?).getD []) / 2 ^ (8 * g)) % 256 < 81) →
        ∃ (y : Nat → Tile), acted { q with step := q.step + 1, left := takes, checked := [] } { u with tiles := (((u.tiles.set n (y 0)).set (n + 1) (y 1)).set (n + 2) (y 2)).set (n + 3) (y 3) } ∧
          ∀ z < 4, (y z).f32 = (old z).f32 ∧ ∀ i < 32, ∀ j < 32, (BitVec.ofNat 32 (tileElem (y z).bits i j)).toInt =
            acc i (32 * z + j) (BitVec.ofNat 32 (tileElem (old z).bits i j)).toInt (List.range m))) ∧
    (runs → engFn q = 1 → 0 < m → first ∉ q.checked → (grp 0).st ≠ .valid → (grp 0).pol = false → ended) ∧
    (runs → engFn q = 1 → 0 < m → first ∉ q.checked → (grp 0).recd = true → (grp 0).st ≠ .valid → (grp 0).st ≠ .unbuilt → (grp 0).pol = true → begins first []) ∧
    (k.kuduq = q :: post → engStrand s c q.who.uid = some (r, u) → kuduSteps u q ≤ q.step → q.left = 0 → (∀ y ∈ post, y.num ≠ q.num) →
      (tlOf k 5).value + 1 = q.num → (∀ a ∈ (tlOf k 5).ahead, q.num + 1 < a.1) →
      ∃ s', exec (.kuduComplete c) s = .next s' ∧ (getCore s' c).kuduq = post ∧ (tlOf (getCore s' c) 5).value = q.num ∧
        (tlOf (getCore s' c) 5).err = (tlOf k 5).err ∧ s'.mem = s.mem)

/-! Copies. -/

namespace Sys2Proof.Says

/-- The tag that a copy form arms is free, and the ranges and the completion record lie where R226 allows them. -/
def copyReady (s1 : State) (s : State) (t : Strand) (i : Instr) (x : CopyAttr) (ranges : List (Word × Nat × Nat)) : Prop :=
  let k := getCore s1 s.cur.core
  (x.tge = 1 → (k.tagA ||| k.tagR).getLsbD x.tag.toNat = false) ∧
  copyRanges s1 ⟨s.cur, t, i.len, i.word0⟩ (ranges ++ if x.e = 0 then [] else [(rd t.r x.e, 128, 64)]) = .ok ()

/-- The completion record's address is 64-aligned and in a window (R217). -/
def recordFits (s : State) (t : Strand) (x : CopyAttr) : Prop :=
  x.e ≠ 0 → (rd t.r x.e).toNat % 64 = 0 ∧ windowOf s.cur.core (rd t.r x.e) ≠ .unmapped

/-- The copy command is posted on its stream (R210, R211, R215, R227): it has the next number of the stream's timeline, the number goes
to `d`, its tag is armed and its attributes are those of the instruction; `w` says what else it holds. A 65th waits. -/
def copied (s1 s : State) (t : Strand) (i : Instr) (d : BitVec 5) (x : CopyAttr) (fn : Nat) (w : Copy → Prop) : Prop :=
  let core := s.cur.core
  let k := getCore s1 core
  let strm := x.strm.toNat
  let n := (tlOf k strm).posted + 1
  let full := 64 ≤ (k.copies.filter (fun q => q.strm == strm)).length
  (¬ full → ∃ s' q, exec i s = .next s' ∧ movedOn s s' t i (wr t.r d (BitVec.ofNat 64 n) false) ∧ s'.mem = s1.mem ∧
    (getCore s' core).copies = k.copies ++ [q] ∧ (tlOf (getCore s' core) strm).posted = n ∧
    (getCore s' core).tagA = (if x.tge = 1 then k.tagA ||| (1#64 <<< x.tag.toNat) else k.tagA) ∧ (getCore s' core).tagR = k.tagR ∧
    q.strm = strm ∧ q.num = n ∧ q.fn = fn ∧ q.tag = (if x.tge = 1 then some x.tag.toNat else none) ∧ q.recAddr = (rd t.r x.e) ∧
    q.hasRec = decide (x.e ≠ 0) ∧
    q.fence = decide (x.fence = 1) ∧ q.issue = s.cys.now ∧ q.start = 0 ∧ q.bytes = 0 ∧ q.done = [] ∧ q.fails = [] ∧ q.paused = none ∧
    q.cancelled = false ∧ q.who.uid = t.uid ∧ q.who.sid = strandSid s s.cur t.dom ∧ q.who.dom = t.dom ∧ q.who.priv = t.priv ∧
    q.who.iaddr = t.pc ∧ w q) ∧
  (full → exec i s = .next (setStrand s s.cur { t with status := .waiting (.queue strm), inside := false }))

/-- R226: the copy form `i` with clean registers `regs` and E, when `bad` says that it breaks a rule of its own, or its record is
misplaced, raises `copy-command-invalid`; then `atomic-not-supported` at `va` when `unsup`; then `tag-in-use`; then the fault of
the first range that lies in no window, misaligned, or across a window's end; and with none of them it is `copied`. -/
def copyForms (s1 s : State) (t : Strand) (i : Instr) (d : BitVec 5) (x : CopyAttr) (fn : Nat) (regs : List (BitVec 5)) (bad unsup : Prop)
    (va : Word) (ranges : List (Word × Nat × Nat)) (w : Copy → Prop) : Prop :=
  let k := getCore s1 s.cur.core
  let win (v : Word) : Win := windowOf s.cur.core v
  let all := ranges ++ if x.e = 0 then [] else [(rd t.r x.e, 128, 64)]
  Admits s t i → (∀ y ∈ regs ++ [x.e], rdP t.r y = false) →
    (bad ∨ ¬ recordFits s t x → traps s t i .copyCommandInvalid 0 0) ∧
    (¬ bad → recordFits s t x →
      (unsup → traps s t i .atomicNotSupported 0 va) ∧
      (¬ unsup → x.tge = 1 → (k.tagA ||| k.tagR).getLsbD x.tag.toNat = true → traps s t i .tagInUse 0 0) ∧
      (¬ unsup → (x.tge = 1 → (k.tagA ||| k.tagR).getLsbD x.tag.toNat = false) →
        ∀ (pre post : List (Word × Nat × Nat)) (v : Word) (m al : Nat), all = pre ++ (v, m, al) :: post →
          copyRanges s1 ⟨s.cur, t, i.len, i.word0⟩ pre = .ok () →
          (win v = .unmapped → 0 < m → traps s t i .windowUnmapped 0 v) ∧
          (win v ≠ .unmapped → v.toNat % al ≠ 0 → traps s t i .misaligned 0 v) ∧
          (win v ≠ .unmapped → v.toNat % al = 0 → 0 < m → windowRoom s.cur.core v < m → traps s t i .windowCrossing 0 v)) ∧
      (¬ unsup → copyReady s1 s t i x ranges → copied s1 s t i d x fn w))

end Sys2Proof.Says

/-- R210, R211, R215, R217, R226 to R234: every copy form that breaks none of its rules is numbered, armed and queued with the operands
that its rule names, and a rule broken raises `copy-command-invalid`, `atomic-not-supported`, `tag-in-use` or the fault of a range;
`cpcan` marks the commands of a stream from a number on and counts them, `cpq` reads the posted count. That an empty range must be
aligned too, and the alignment of a kind 1 descriptor, are log 43; that `cpsig.msg` does not look at its handle at issue is log 44. -/
def Obligations.CopyResults : Prop :=
  ∀ (s s1 : State) (t : Strand) (d a b c : BitVec 5) (x : CopyAttr) (nm op : BitVec 4) (size : BitVec 1) (strm : BitVec 2) (l : List Word)
    (three : Bool),
    let va := rd t.r a
    let vb := rd t.r b
    let vc := rd t.r c
    let n := vc.toNat
    let core := s.cur.core
    let local_ (v : Word) : Prop := ∃ z own o, windowOf core v = .spad z own o
    let long := 2 ^ 36 < n
    let g (k : Nat) : Word := (l[k]?).getD 0
    let rows := if three then bitsOf (g 1) 0 32 else 1
    let i2 : Instr := if three then .cp3d d a b c x else .cp2d d a b c x
    let shaped := 1 ≤ bitsOf (g 0) 0 32 ∧ 1 ≤ bitsOf (g 0) 32 32 ∧ bitsOf (g 1) 32 32 = 0 ∧ g 6 = 0 ∧ g 7 = 0 ∧
      (three = true → 1 ≤ rows) ∧ (three = false → bitsOf (g 1) 0 32 = 0 ∧ g 4 = 0 ∧ g 5 = 0) ∧ bitsOf (g 0) 0 32 * bitsOf (g 0) 32 32 * rows ≤ 2 ^ 36
    let walk (v rs ps : Word) : Word × Nat × Nat := walkRange v (bitsOf (g 0) 0 32) (bitsOf (g 0) 32 32) rows rs ps
    let es : Nat := if size = 1 then 8 else 4
    let float := op = 10 ∨ op = 11 ∨ op = 12
    let wide := float ∧ size = 1
    let pay : BitVec 256 := if b = 0 then 0 else rd t.r (b + 3) ++ rd t.r (b + 2) ++ rd t.r (b + 1) ++ vb
    let hit (q : Copy) : Bool := q.strm == strm.toNat && decide (va.toNat ≤ q.num)
    copyForms s s t (.cp d a b c x) d x 0 [a, b, c] long False 0 [(va, n, 1), (vb, n, 1)]
      (fun q => q.a = va ∧ q.b = vb ∧ q.w = n ∧ q.h = 1 ∧ q.pl = 1) ∧
    copyForms s s t (.cpfill d a b c x) d x 5 [a, b, c] long False 0 [(vb, n, 1)]
      (fun q => q.a = va ∧ q.b = vb ∧ q.w = n ∧ q.h = 1 ∧ q.pl = 1) ∧
    (structAt s t i2 vc l s1 → copyForms s1 s t i2 d x (if three then 2 else 1) [a, b, c] (¬ shaped) False 0
      [walk va (g 2) (g 4), walk vb (g 3) (g 5)]
      (fun q => q.a = va ∧ q.b = vb ∧ q.w = bitsOf (g 0) 0 32 ∧ q.h = bitsOf (g 0) 32 32 ∧
        q.pl = rows ∧ q.srs = g 2 ∧ q.drs = g 3 ∧ q.sps = g 4 ∧ q.dps = g 5)) ∧
    (descLoad s ⟨s.cur, t, (Instr.cpm d a b c x nm).len, (Instr.cpm d a b c x nm).word0⟩ vb (nm.toNat + 1) = .ok (l, s1) →
      copyForms s1 s t (.cpm d a b c x nm) d x 3 [a, b, c]
        (long ∨ ¬ ∀ m ∈ l, windowOf core m = .global ∨ ∃ z o, windowOf core m = .spad z false o) False 0
        ((va, n, 1) :: l.map (fun m => (m, n, 1))) (fun q => q.a = va ∧ q.members = l ∧ q.w = n)) ∧
    copyForms s s t (.cpredK0 d a b c x op size) d x 4 [a, b, c]
      (¬ (op.toNat ≤ 7 ∨ float) ∨ n % es ≠ 0 ∨ (¬ local_ vb ∧ vb.toNat % es ≠ 0)) wide vb [(va, n, 1), (vb, n, es)]
      (fun q => q.a = va ∧ q.b = vb ∧ q.w = n ∧ q.kind = 0 ∧ q.op = op.toNat ∧ q.wide = decide (size = 1)) ∧
    (∀ al, (local_ va → al = 8) → (¬ local_ va → al = 1) →
      copyForms s s t (.cpredK1 d a x op size) d x 4 [a] (op ≠ 0 ∨ size ≠ 0) False 0 [(va, 64, al)] (fun q => q.a = va ∧ q.kind = 1)) ∧
    copyForms s s t (.cpredK2 d a b c x op size) d x 4 [a, b, c] (op ≠ 0 ∨ size ≠ 0) False 0 [(va, n, 1)]
      (fun q => q.a = va ∧ q.b = vb ∧ q.w = n ∧ q.kind = 2) ∧
    copyForms s s t (.cpredK3 d b x op size) d x 4 [b] (op ≠ 0 ∨ size ≠ 0) False 0 [] (fun q => q.b = vb ∧ q.kind = 3) ∧
    copyForms s s t (.cpat d a b c x op size) d x 9 [a, b, c] (local_ va) wide va [(va, es, es)]
      (fun q => q.a = va ∧ q.b = vb ∧ q.c = vc ∧ q.w = es ∧ q.op = op.toNat ∧ q.wide = decide (size = 1)) ∧
    copyForms s s t (.cpsigIrq d a x) d x 6 [a] (2048 ≤ va.toNat) False 0 [] (fun q => q.a = va ∧ q.kind = 0) ∧
    copyForms s s t (.cpsigMsg d a b x) d x 6 (a :: if b = 0 then [] else [b, b + 1, b + 2, b + 3]) False False 0 []
      (fun q => q.a = va ∧ q.kind = 1 ∧ q.payload = pay) ∧
    (Admits s t (.cpcan d a strm) → rdP t.r a = false → exec (.cpcan d a strm) s = .next (goesOn (updCore s core (fun k => { k with
      copies := k.copies.map (fun q => if hit q then { q with cancelled := true } else q) })) t (.cpcan d a strm)
      (wr t.r d (BitVec.ofNat 64 ((getCore s core).copies.filter hit).length) false))) ∧
    gives s t (.cpq d strm) d (BitVec.ofNat 64 (tlOf (getCore s core) strm.toNat).posted) false

/-- R212 to R214, R217 to R220, R223, R228, R232: a copy block between two places of the package's memory writes the source's bytes, read
before, to its destination and nothing else, and counts them; a fill writes the pattern; a block that meets a fault fails, or
pauses its command while its page is absent, for 10 ms; a signal raises its vector or posts its message; a command all of whose
blocks are done writes its record (said here of one in a scratchpad), makes its tag ready and its number complete, and with a failed
block sets the timeline's error status; a `cpm` reads each 4 KiB of its source once, for all its members, at the first block of it
(log 45). The model's own: a block is one step (log 7), and a paused command with no slot counts in lostrep (log 47). -/
def Obligations.CopyEvents : Prop :=
  ∀ (s s2 : State) (c : CoreId) (strm num m b n pa pb : Nat) (q : Copy) (src dst va : Word) (w : Bool) (f : Cause) (p : Pause) (rq : Req) (k : Nat) (dat : List (Byte × Bool)) (o : CoreId) (own : Bool) (off : Nat),
    let start := if q.start = 0 then s.cys.now else q.start
    let q1 : Copy := { q with start := start }
    let s1 := updCore s c (fun k => { k with copies := k.copies.map (fun p => if p.strm = strm ∧ p.num = num then
      { p with start := if p.start = 0 then s.cys.now else p.start } else p) })
    let mine := copyOf s c strm num = some q ∧ ∀ p ∈ (getCore s c).copies, p.strm = strm → p.num = num → p = q
    let runs := mine ∧ m < copyMembers q ∧ (copyBlocks q m)[b]? = some [(src, dst, n)] ∧ blockOver q m b = false ∧ q.paused = none ∧ (∀ j, tierDead s (pb + j) = false) ∧
      copyMayStart s c q = true ∧ (∀ g ∈ q.got, ¬ (g.member = m ∧ g.block = b))
    let place (v : Word) (a : Acc) (e : Cause) (x : Nat) : Prop := copyPlace s1 c q1 v n a e = .ok (.here (.mem x), s1)
    let carried (new : Nat → Byte) : Prop := ∃ s' y, exec (.copyBlock c strm num m b) s = .next s' ∧
      (∀ j < n, memRead s'.mem (pb + j) = new j) ∧ (∀ j, j < pb ∨ pb + n ≤ j → memRead s'.mem j = memRead s.mem j) ∧
      s'.hostMem = s.hostMem ∧ (getCore s' c).spad = (getCore s c).spad ∧ copyOf s' c strm num = some y ∧ y.done = q.done ++ [(m, b)] ∧
      y.bytes = q.bytes + n ∧ y.fails = q.fails ∧ y.start = start
    let failed (i : Instr) (m b : Nat) (f : Cause) : Prop := ∃ s' y, exec i s = .next s' ∧ s'.mem = s.mem ∧ copyOf s' c strm num = some y ∧
      y.fails = q.fails ++ [(m, b, f)] ∧ y.done = q.done
    let fresh (m b : Nat) : Prop := ∀ f ∈ q.fails, ¬ (f.1 = m ∧ f.2.1 = b)
    let x := getCore s c
    let pg := src.toNat / 4096
    let lo := max q.a.toNat (pg * 4096)
    let len := min (q.a.toNat + q.w) (pg * 4096 + 4096) - lo
    let kept (z : List (Byte × Bool)) : State := updCopy s1 c strm num (fun q => { q with src := aset q.src pg (z, []) })
    let ends := mine ∧ q.strm = strm ∧ q.num = num ∧ strm < 4 ∧ q.cancelled = false ∧ q.paused = none ∧ q.start ≠ 0 ∧
      q.tag = some k ∧ k < 64 ∧ (tlOf x strm).value + 1 = num ∧ (∀ a ∈ (tlOf x strm).ahead, num + 1 < a.1)
    let closes (s' : State) (err : Bool) : Prop := (getCore s' c).copies = x.copies.filter (fun p => ¬ (p.strm = strm ∧ p.num = num)) ∧
      (tlOf (getCore s' c) strm).value = num ∧ (tlOf (getCore s' c) strm).err = ((tlOf x strm).err || err) ∧
      (getCore s' c).tagR = x.tagR ||| (1#64 <<< k) ∧ (getCore s' c).tagA = x.tagA &&& ~~~(1#64 <<< k)
    let word (i : Nat) : Word := match i with
      | 0 => BitVec.ofNat 64 q.issue
      | 1 => BitVec.ofNat 64 q.start
      | 2 => BitVec.ofNat 64 s.cys.now
      | 3 => BitVec.ofNat 64 q.bytes
      | 4 => BitVec.ofNat 64 q.num
      | 5 => BitVec.ofNat 64 (2 ^ 63 + q.fn * 2 ^ 57 + q.strm * 2 ^ 55)
      | 6 => q.result
      | 7 => q.who.sid
      | _ => 0
    (runs → q.fn ∈ [0, 1, 2] → 0 < n → n ≤ 4096 → s.memBad = [] → Memory.wf s.mem = true → place src .load .copySourceFault pa →
      place dst .store .copyDestFault pb → carried (fun j => memRead s.mem (pa + j))) ∧
    (runs → q.fn = 3 → 0 < n → n ≤ 4096 → s.memBad = [] → Memory.wf s.mem = true → aget q.src pg = none →
      (∀ f ∈ q.fails, ¬ (f.1 = srcMember ∧ f.2.1 = pg)) → src.toNat + n ≤ lo + len →
      copyPlace s1 c q1 (BitVec.ofNat 64 lo) len .load .copySourceFault = .ok (.here (.mem pa), s1) →
      (∀ z, copyPlace (kept z) c q1 dst n .store .copyDestFault = .ok (.here (.mem pb), kept z)) →
      carried (fun j => memRead s.mem (pa + (src.toNat - lo) + j))) ∧
    (runs → q.fn = 3 → 0 < n → n ≤ 4096 → s.memBad = [] → Memory.wf s.mem = true → aget q.src pg = some (dat, []) →
      src.toNat - lo + n ≤ dat.length → place dst .store .copyDestFault pb →
      carried (fun j => ((dat[src.toNat - lo + j]?).getD (0, false)).1)) ∧
    (runs → q.fn = 5 → 0 < n → n ≤ 4096 → s.memBad = [] → Memory.wf s.mem = true → place dst .store .copyDestFault pb →
      carried (fun j => q.a.extractLsb' (8 * ((dst.toNat + j) % 8)) 8)) ∧
    (runs → q.fn ∈ [0, 1, 2] → copyPlace s1 c q1 src n .load .copySourceFault = .error (.fail f, s1) →
      failed (.copyBlock c strm num m b) m b f) ∧
    (runs → q.fn ∈ [0, 1, 2] → copyPlace s1 c q1 src n .load .copySourceFault = .error (.absent va w, s2) →
      s2.cores = s1.cores → s2.doms = s1.doms → s2.mem = s1.mem → s2.cys = s1.cys → areaBase (getDom s q.who.dom).trarea = 0 →
      (getDom s q.who.dom).kept = [] →
      ∃ s' y p, exec (.copyBlock c strm num m b) s = .next s' ∧ s'.mem = s.mem ∧ copyOf s' c strm num = some y ∧ y.paused = some p ∧
        p.member = m ∧ p.block = b ∧ p.since = s.cys.now ∧ p.va = va ∧ y.done = q.done ∧ y.fails = q.fails ∧
        (getDom s' q.who.dom).lostrep = satInc (getDom s q.who.dom).lostrep) ∧
    (mine → q.paused = some p → p.since + 10000000 ≤ s.cys.now → fresh p.member p.block →
      failed (.copyFaultTimeout c strm num) p.member p.block .pageNotPresent) ∧
    (mine → s.reqs.find? (fun r => r.core == c && r.strm == strm && r.num == num && r.dst.isSome && decide (r.first + 100000 ≤ s.cys.now)) = some rq →
      strm < 64 → (∀ r ∈ s.reqs, r.uid = rq.uid → r = rq) → (pathOf s rq.gpn).holding = [] → fresh rq.member rq.block →
      failed (.remoteTimeout c strm num) rq.member rq.block .remoteTimeout) ∧
    (mine → q.fn = 6 → blockOver q 0 0 = false → copyMayStart s c q = true →
      (q.kind = 0 → ∃ s' y, exec (.cpsigSignal c strm num) s = .next s' ∧ s'.msix = s.msix ++ [q.a.toNat] ∧ s'.flight = s.flight ∧
        copyOf s' c strm num = some y ∧ y.done = q.done ++ [(0, 0)] ∧ y.start = s.cys.now) ∧
      (q.kind = 1 → ∃ s' y, exec (.cpsigSignal c strm num) s = .next s' ∧ s'.msix = s.msix ∧ s'.flight = s.flight ++ [⟨s.uid, q.who.uid,
          ⟨q.payload, s.cys.now, q.who.sid, q.a, false, 0, false⟩, q.who.dom, false, none, q.who.floor, c, false, none, 0⟩] ∧
        copyOf s' c strm num = some y ∧ y.done = q.done ++ [(0, 0)])) ∧
    (ends → q.fails = [] → (∀ y ∈ allBlocks q, y ∈ q.done) →
      (q.hasRec = false → ∃ s', exec (.copyComplete c strm num) s = .next s' ∧ s'.mem = s.mem ∧ s'.flight = s.flight ∧ closes s' false) ∧
      (q.hasRec = true → s.memWf = true → windowOf c q.recAddr = .spad o own off → windowOf c (q.recAddr + 64) = .spad o own (off + 64) →
        off % 64 = 0 → q.got = [] → spadFault s q.who.dom o own off 128 = none →
        (accessBits s 4 (c.die * 20 + c.clus * 2 + q.engine) q.who.dom).getLsbD 1 = true →
        ∃ s', exec (.copyComplete c strm num) s = .next s' ∧ s'.mem = s.mem ∧ s'.flight = s.flight ∧ closes s' false ∧
          (∀ i < 16, leWord (memBytes (getCore s' o).spad (off + 8 * i) 8) = word i) ∧
          ∀ j, j < off ∨ off + 128 ≤ j → memRead (getCore s' o).spad j = memRead (getCore s o).spad j)) ∧
    (ends → q.hasRec = false → (∀ y ∈ allBlocks q, blockOver q y.1 y.2 = true) → (∀ f ∈ q.fails, f.1 < 16) →
      (∃ y ∈ allBlocks q, ∃ f ∈ q.fails, f.1 = y.1 ∧ f.2.1 = y.2) →
      ∃ s', exec (.copyComplete c strm num) s = .next s' ∧ closes s' true)

/-! Translation and pages. -/

namespace Sys2Proof.Says

/-- Between `s` and `s'` the TLB entries that are `gone` left the levels of a removal at `scope` (0 core, 1 cluster, 2 package) from
core `c`, with the lower levels that could refill them (R368), and no other entry of any TLB came or went. -/
def removed (s s' : State) (c : CoreId) (scope : Nat) (gone : TlbEntry → Prop) : Prop :=
  let kept (l l' : List TlbEntry) (there : Prop) : Prop := ∀ e, e ∈ l' ↔ e ∈ l ∧ ¬ (there ∧ gone e)
  let inCluster (o : CoreId) : Prop := o.die = c.die ∧ o.clus = c.clus ∧ (o.kind = .compute ∨ o.kind = .markhor)
  let mine := c.kind = .compute ∨ c.kind = .markhor
  (∀ o, kept (getCore s o).tlb (getCore s' o).tlb (scope = 2 ∨ o = c ∨ (mine ∧ scope = 1 ∧ inCluster o))) ∧
  (∀ o, kept (getCore s o).own (getCore s' o).own (scope = 2 ∨ (o = c ∧ ¬ mine))) ∧
  (∀ d k, kept (getClus s d k).tlb (getClus s' d k).tlb (scope = 2 ∨ (mine ∧ d = c.die ∧ k = c.clus))) ∧
  (∀ d k n e, (n, e) ∈ (getClus s' d k).engTlb ↔
    (n, e) ∈ (getClus s d k).engTlb ∧ ¬ ((scope = 2 ∨ (mine ∧ scope = 1 ∧ d = c.die ∧ k = c.clus)) ∧ gone e)) ∧
  (∀ d, kept (getDie s d).llt (getDie s' d).llt (scope = 2 ∨ (mine ∧ d = c.die)))

/-- `l'` is the level `l` after the entry `e` was installed in it (R367). -/
def holdsEntry (l l' : List TlbEntry) (e : TlbEntry) : Prop :=
  ∀ x, x ∈ l' ↔ x = e ∨ x ∈ l ∧ ¬ (x.dom = e.dom ∧ x.vpage < e.vpage + sizeUnits e.size ∧ e.vpage < x.vpage + sizeUnits x.size)

end Sys2Proof.Says

/-- R352, R353, R354, R366, R367, R368: `tlbw` installs the descriptor's entry in the LLT and the cluster TLB, or in the core's own TLB,
in place of every entry of the domain that it overlaps, answers the misses of its token, or sets the miss channel; a bad
descriptor gives the refusal word, and so does a miss channel that is spilled (log 58); `tlbinv` and `tlbinva` remove the entries that they name at the scope and below it. The two
rows of `tlbw` have one meaning, chosen by OP (log 18). -/
def Obligations.TlbResults : Prop :=
  ∀ (s s1 : State) (t : Strand) (d a b : BitVec 5) (l : List Word) (i : Instr) (tok : BitVec 32) (m : Miss),
    let own := s.cur.core
    let g (n : Nat) : Word := (l[n]?).getD 0
    let va := rd t.r a
    let units := sizeUnits (bitsOf (g 0) 2 2)
    let v := (g 2).getLsbD 0
    let loc := bitsOf (g 2) 6 2
    let zeros := bitsOf (g 0) 56 8 = 0 ∧ bitsOf (g 0) 4 12 = 0 ∧ bitsOf (g 1) 48 16 = 0 ∧ bitsOf (g 2) 9 55 = 0
    let maps := loc ≤ 2 ∧ bitsOf (g 2) 4 2 ≤ 2 ∧ (g 3).toNat % (65536 * units) = 0 ∧ g 1 ≠ 0 ∧ (g 1).toNat % units = 0 ∧ (loc = 1 ↔ g 3 = 0)
    let good := bitsOf (g 0) 0 2 = 0 ∧ zeros ∧ bitsOf (g 0) 2 2 ≤ 2 ∧ bitsOf (g 0) 16 40 % units = 0 ∧ (v = true → maps)
    let away := ∃ m ∈ s1.migs, m.pulling = false ∧ m.gpn < (g 1).toNat + units ∧ (g 1).toNat < m.gpn + sizeUnits m.size
    let e : TlbEntry := { dom := t.dom, vpage := bitsOf (g 0) 16 40, size := bitsOf (g 0) 2 2, gpn := (g 1).toNat, pin := (g 2).getLsbD 8,
                          loc := loc, priv := bitsOf (g 2) 4 2, x := (g 2).getLsbD 3, w := (g 2).getLsbD 2, r := (g 2).getLsbD 1, frame := (g 3).toNat }
    let chan := g 1 = 0 ∨ ∃ q, findChan s1 own (g 1) = some q ∧ q.count = false ∧ q.spilled = false ∧ hDom (g 1) = t.dom
    let cl := getClus s1 own.die own.clus
    let near := own.kind = .compute ∨ own.kind = .markhor
    let gives1 (s2 : State) (x : Word) : Prop := exec i s = .next (goesOn s2 t i (wr t.r d x false))
    let installs (e : TlbEntry) : Prop := ∃ s', exec i s = .next s' ∧ movedOn s s' t i (wr t.r d 0 false) ∧ s'.mem = s1.mem ∧
      (near → (getDie s1 own.die).llt.length < 32768 → holdsEntry (getDie s1 own.die).llt (getDie s' own.die).llt e) ∧
      (near → cl.tlb.length < 2048 → holdsEntry cl.tlb (getClus s' own.die own.clus).tlb e) ∧
      (¬ near → (getCore s1 own).own.length < 2048 → holdsEntry (getCore s1 own).own (getCore s' own).own e)
    let quiet := s.pend = [] ∧ s.reqs = [] ∧ (∀ y ∈ allStrands s, y.2.openers = []) ∧ t.phase = none
    let inval (i : Instr) (sel : Word) (scope : Nat) (form : Prop) (gone : Nat → TlbEntry → Prop) : Prop :=
      let ok := form ∧ scope ≤ 2 ∧ (t.priv ≠ .h → bitsOf sel 8 8 = 0)
      (¬ ok → traps s t i .operandRange 0 0) ∧
      (ok → quiet → ∃ s', exec i s = .next s' ∧ movedOn s s' t i t.r ∧ s'.mem = s.mem ∧
        removed s s' own scope (gone (if t.priv = .h then bitsOf sel 8 8 else t.dom)))
    (i = .tlbwInstall d a b ∨ i = .tlbwSetMissChannel d a b → Admits s t i → rdP t.r a = false → rdP t.r b = false →
      descLoad s ⟨s.cur, t, i.len, i.word0⟩ va 4 = .ok (l, s1) →
      (va.toNat % 32 ≠ 0 → traps s t i .misaligned 0 va) ∧
      (va.toNat % 32 = 0 →
        (bitsOf (g 0) 0 2 ≠ 1 → ¬ good → gives1 s1 0x8057) ∧
        (good → v = true → ¬ away → rd t.r b = 0 → installs e) ∧
        (good → v = true → away → rd t.r b = 0 → installs { e with loc := 1, frame := 0 }) ∧
        (good → v = false → rd t.r b = 0 → gives1 s1 0) ∧
        (good → rd t.r b = tok.setWidth 64 → rd t.r b ≠ 0 → (s1.clusters.map (fun c => c.1)).Nodup → (∃ c ∈ s1.clusters, m ∈ c.2.misses) →
          m.token = tok → (∀ c ∈ s1.clusters, ∀ x ∈ c.2.misses, x.token = tok → x = m) →
          ∃ s', exec i s = .next s' ∧ movedOn s s' t i (wr t.r d 0 false) ∧ s'.mem = s1.mem ∧
            ∀ r u, r ≠ s.cur → getStrand s1 r = some u → u.status = .waiting (.miss tok) →
              getStrand s' r = some { u with
                status := .ready, since := s1.cycle, readyAt := s1.cycle, absent := if v then u.absent else m.vunit :: u.absent }) ∧
        (bitsOf (g 0) 0 2 = 1 →
          (own.kind = .markhor → g 0 = 1 → g 2 = 0 → g 3 = 0 → chan → gives1 (setClus s1 own.die own.clus { cl with missch := g 1 }) 0) ∧
          (own.kind ≠ .markhor ∨ g 0 ≠ 1 ∨ g 2 ≠ 0 ∨ g 3 ≠ 0 ∨ ¬ chan → gives1 s1 0x8057)))) ∧
    (Admits s t (.tlbinv a b) → rdP t.r a = false → rdP t.r b = false →
      let sel := rd t.r b
      let key := bitsOf sel 0 2
      inval (.tlbinv a b) sel (bitsOf sel 2 2) (bitsOf sel 4 4 = 0 ∧ bitsOf sel 16 48 = 0 ∧ key ≤ 1 ∧ (key = 0 → va.toNat < 2 ^ 56))
        (fun dom e => e.dom = dom ∧ if key = 0 then e.vpage ≤ va.toNat / 65536 ∧ va.toNat / 65536 < e.vpage + sizeUnits e.size
          else e.gpn ≤ bitsOf va 0 48 ∧ bitsOf va 0 48 < e.gpn + sizeUnits e.size)) ∧
    (Admits s t (.tlbinva a) → rdP t.r a = false →
      inval (.tlbinva a) va (bitsOf va 0 2) (bitsOf va 2 6 = 0 ∧ bitsOf va 17 47 = 0)
        (fun dom e => e.dom = dom ∧ (e.pin = true → va.getLsbD 16 = true)))

/-- R362, R368 to R373: `pgmig` asks the home directory for a page that this package does not own, waits, and gives 0 when it has come,
1 when the page is here already, or the refusal; `ownq` gives the owner and where it was found, whatever becomes of the cached owner meanwhile; `stubq` reads a stub; `rfc` gives
the forecast distance; `fresume` closes a pending fault record whose zero bits are zero and wakes what waits on it, the strand from the `fresume` as by a
transfer of control. The model's own: a frame that does not exist is out of range (log 59), the list `awake` of saved strands whose
record was closed (log 30), `from_` (log 29), and the words of the packets (log 17). -/
def Obligations.PageResults : Prop :=
  ∀ (s : State) (t u : Strand) (d a b : BitVec 5) (x : Stub) (o : Nat) (j : Nat × Job) (q : StrandRef) (base pa k : Nat) (c : CoreId) (cp : Copy),
    let w := rd t.r a
    let fr := (rd t.r b).toNat
    let g := bitsOf w 0 48
    let size := bitsOf w 48 2
    let i : Instr := .pgmig d a b
    let form := bitsOf w 50 14 = 0 ∧ size ≤ 1 ∧ g ≠ 0 ∧ g % sizeUnits size = 0 ∧ fr % (65536 * sizeUnits size) = 0 ∧ frameExists s fr = true
    let mine := if gpnHome g = s.pkg then ∀ e, aget s.dir g = some e → e.owner = s.pkg else g ∈ s.owned
    let done (i : Instr) (v : Word) : Prop := exec i s = .next (goesOn s { t with phase := none } i (wr t.r d v false))
    let key := pageKey s w.toNat
    let word (src owner : Nat) : Word := BitVec.ofNat 64 ((if (migAway s w.toNat).isSome = true ∨ (migInto s w.toNat).isSome = true then 2 ^ 15 else 0) +
      src * 2 ^ 13 + (if isOwner s key = true then 2 ^ 12 else 0) + owner % 4096)
    let n := (rd t.r b).toNat
    let js := s.jobs.filter (fun j => j.2.dom = t.dom ∧ j.2.st ≠ .complete ∧ j.2.gang = none)
    let meets (j : Nat × Job) : Prop := ∃ r ∈ j.2.ranges, r.1 < w.toNat + n ∧ w.toNat < r.1 + r.2
    let before (j k : Nat × Job) : Prop := j.2.order < k.2.order ∨ j.2.order = k.2.order ∧ j.1 < k.1
    let f : Instr := .fresume d a
    let word0 : Word := leWord (memBytes s.mem pa 8)
    let closed (s' : State) : Prop := leWord (memBytes s'.mem pa 8) = word0 + 0x10000 ∧
      ∀ b, b < pa ∨ pa + 8 ≤ b → memRead s'.mem b = memRead s.mem b
    let area := areaBase (getDom s t.dom).trarea
    let log := areaLog (getDom s t.dom).trarea
    let rec_ := w.toNat % 2 ^ 48
    let rword (n : Nat) : Word := leWord (memBytes s.mem (pa + 8 * n) 8)
    let zeros := bitsOf word0 18 23 = 0 ∧ bitsOf word0 7 7 = 0 ∧ (∀ n, 5 ≤ n → n < 8 → rword n = 0) ∧ (∀ n, 40 ≤ n → n < 64 → rword n = 0) ∧
      ∀ n < 32, if n < bitsOf word0 42 6 then bitsOf (rword (8 + n)) 56 8 = 0 ∧ (rword (8 + n)).getLsbD 15 = false ∧ bitsOf (rword (8 + n)) 2 6 = 0
        else rword (8 + n) = 0
    let by_ : Option (Word × BitVec 32) := some (t.pc, f.word0)
    (Admits s t i → rdP t.r a = false → rdP t.r b = false →
      (¬ form → traps s t i .operandRange 0 0) ∧
      (form → t.phase = none → (∀ m ∈ s.migs, m.gpn ≠ g) →
        (mine → done i 1) ∧
        (¬ mine → gpnHome g ∈ s.deadLinks → done i 0x8055) ∧
        (¬ mine → gpnHome g ∉ s.deadLinks → ∃ s' m p, exec i s = .next s' ∧
          getStrand s' s.cur = some { t with status := .waiting (.answer g), inside := true, phase := some (.pulling none) } ∧ s'.mem = s.mem ∧
          s'.migs = s.migs ++ [m] ∧ m.gpn = g ∧ m.size = size ∧ m.pulling = true ∧ m.frame = fr ∧ m.who = some s.cur ∧ m.uid = t.uid ∧
          s'.out = s.out ++ [p] ∧ p.type = 4 ∧ p.dst = BitVec.ofNat 12 (gpnHome g) ∧ pktWord p 0 = BitVec.ofNat 64 g)) ∧
      (∀ v, form → t.phase = some (.pulling (some v)) → done i v)) ∧
    (Admits s t (.ownq d a) → rdP t.r a = false →
      (2 ^ 48 ≤ w.toNat → traps s t (.ownq d a) .operandRange 0 0) ∧
      (w.toNat < 2 ^ 48 →
        (aget s.oc key = some o → t.phase = none → done (.ownq d a) (word 0 o)) ∧
        (∀ k, t.phase = some (.asked k (some o)) → done (.ownq d a) (word (if gpnHome w.toNat = s.pkg then 1 else 2) o)) ∧
        (∀ k, t.phase = some (.asked k none) →
          ((∀ l ∈ s.lookups, l.1 ≠ k) → done (.ownq d a) 0x8000000000000055) ∧
          ((∃ l ∈ s.lookups, l.1 = k) → exec (.ownq d a) s = .next (setStrand s s.cur { t with status := .waiting (.answer 0), inside := true }))) ∧
        (aget s.oc key = none → (∀ l ∈ s.lookups, l.1 ≠ key) → gpnHome key ∉ s.deadLinks →
          (t.phase = none → ∃ s' p, exec (.ownq d a) s = .next s' ∧ s'.lookups = s.lookups ++ [(key, s.cys.now)] ∧ s'.out = s.out ++ [p] ∧
            p.type = 3 ∧ p.dst = BitVec.ofNat 12 (gpnHome key) ∧ pktWord p 0 = BitVec.ofNat 64 key ∧ s'.mem = s.mem ∧
            getStrand s' s.cur = some { t with phase := some (.asked key none), status := .waiting (.answer 0), inside := true })))) ∧
    (Admits s t (.stubq d a) → rdP t.r a = false →
      (2 ^ 48 ≤ w.toNat → traps s t (.stubq d a) .operandRange 0 0) ∧
      (w.toNat < 2 ^ 48 → (∀ y ∈ s.stubs, y.gpn ≠ key) → gives s t (.stubq d a) d 0 false) ∧
      (w.toNat < 2 ^ 48 → s.stubs.find? (fun y => y.gpn == key) = some x → ∃ v : Word, gives s t (.stubq d a) d v false ∧ v.getLsbD 63 = true ∧
        bitsOf v 61 2 = (match x.st with | .relay => 0 | .quiet => 1 | .held => 2) ∧ v.getLsbD 60 = x.bcast ∧ bitsOf v 48 12 = x.owner % 4096 ∧
        bitsOf v 45 3 = 0 ∧ bitsOf v 32 13 = min x.pending.length 4095 ∧ bitsOf v 0 32 = min ((s.cys.now - x.born) / 1000) (2 ^ 32 - 1))) ∧
    (Admits s t (.rfc d a b) → rdP t.r a = false → rdP t.r b = false →
      (2 ^ 56 ≤ w.toNat ∨ n = 0 ∨ 2 ^ 48 < n → traps s t (.rfc d a b) .operandRange 0 0) ∧
      (w.toNat < 2 ^ 56 → 1 ≤ n → n ≤ 2 ^ 48 →
        ((∃ j ∈ js, j.2.st = .dealing ∧ meets j) → gives s t (.rfc d a b) d 0 false) ∧
        ((∀ j ∈ js, ¬ meets j) → gives s t (.rfc d a b) d 0xFFFFFFFFFFFFFFFF false) ∧
        (j ∈ js → j.2.st = .held → meets j → (∀ k ∈ js, meets k → k = j ∨ k.2.st = .held ∧ before j k) →
          gives s t (.rfc d a b) d (BitVec.ofNat 64 (1 + (js.filter (fun k => k.2.st = .held ∧ before k j)).length)) false))) ∧
    (Admits s t f → rdP t.r a = false → settled s t →
      (area = 0 ∨ rec_ % 512 ≠ 0 ∨ rec_ < area ∨ area + 512 * 2 ^ log ≤ rec_ → traps s t f .eretInvalid 0 w) ∧
      (area = base → base ≠ 0 → k < 2 ^ log → rec_ = base + 512 * k → pa % 512 = 0 → s.memBad = [] → Memory.wf s.mem = true →
        (∀ acc, acc = Acc.load ∨ acc = .store →
          devXlate s (recAgent s.cur t.dom) (BitVec.ofNat 64 (base + 512 * k)) acc = .ok (pa, s)) →
        (word0.toNat / 2 ^ 48 ≠ w.toNat / 2 ^ 48 ∨ word0.toNat / 2 ^ 16 % 4 ≠ 1 ∨ word0.toNat / 2 ^ 42 % 64 = 0 ∨ ¬ zeros →
          traps s t f .eretInvalid 0 w) ∧
        (word0.toNat / 2 ^ 48 = w.toNat / 2 ^ 48 → word0.toNat / 2 ^ 16 % 4 = 1 → word0.toNat / 2 ^ 42 % 64 ≠ 0 → zeros →
          (word0.getLsbD 41 = false → (∃ y, findAsleep s t.dom w = some y ∧ y = (q, u)) → q ≠ s.cur →
            ∃ s', exec f s = .next s' ∧ movedOn s s' t f (wr t.r d 0 false) ∧ closed s' ∧
              getStrand s' q = some { u with status := .ready, target := true, from_ := by_, since := s.cycle, readyAt := s.cycle }) ∧
          (word0.getLsbD 41 = false → findAsleep s t.dom w = none → ∃ s', exec f s = .next s' ∧ movedOn s s' t f (wr t.r d 0 false) ∧ closed s' ∧
            (getDom s' t.dom).awake = (getDom s t.dom).awake ++ [(w, by_)]) ∧
          (word0.getLsbD 41 = true → (∃ y, pausedOn s t.dom w = some y ∧ y = (c, cp)) → copyOf s c cp.strm cp.num = some cp →
            ∃ s', exec f s = .next s' ∧ movedOn s s' t f (wr t.r d 0 false) ∧ closed s' ∧
              copyOf s' c cp.strm cp.num = some { cp with paused := none }) ∧
          (word0.getLsbD 41 = true → pausedOn s t.dom w = none → ∃ s', exec f s = .next s' ∧ movedOn s s' t f (wr t.r d 1 false) ∧ closed s'))))

/-! The PRIV family. -/

namespace Sys2Proof.Says

/-- A selector of R341: this package, its zero bits zero, a cluster of 0 to 9. -/
def selects (s : State) (w zero : Word) : Prop := bitsOf w 52 12 = s.pkg ∧ w &&& zero = 0 ∧ bitsOf w 46 4 ≤ 9

/-- The core that a selector names (R341). -/
def selCore (w : Word) : CoreId := computeId (bitsOf w 50 2) (bitsOf w 46 4) (bitsOf w 42 4)

/-- A pool word leaves at least one unit to the scratchpad, and no pattern or job of the domain needs a frame beyond it (R199). -/
def wordFits (s : State) (c : CoreId) (dom : Nat) (pats : List Pat) (b : Word) : Prop :=
  let pool := poolOf c (b.setWidth 32)
  let fits (v a t : Nat) : Prop := v ≤ pool.1 ∧ a ≤ pool.2.1 ∧ t ≤ pool.2.2
  bitsOf b 24 40 = 0 ∧ bitsOf b 0 8 + bitsOf b 8 8 + bitsOf b 16 8 ≤ 47 ∧ (∀ p ∈ pats, fits p.v p.a p.t) ∧
  ∀ y ∈ s.jobs, y.2.dom = dom → y.2.st = .complete ∨ y.2.gang ≠ none ∨ fits y.2.v y.2.a y.2.t

end Sys2Proof.Says

/-- R341 to R344, R347, R348, R199 to R201: `actw` and `filtw` replace one entry and give the old one; `partw` assigns free cores scrubbed,
withdraws cores once nothing of the domain is left, and posts pool words; `preempt` posts a request or a halt to each strand
that it names and counts them; `tsync` reads the time base, sets the reference, or sets the time. The rows that share an
encoding have one meaning, chosen at run time (log 18); the order and the causes of the refusals of `partw` are log 54, and that the
offset, kept in half ns, is read rounded down is log 80. -/
def Obligations.PrivResults : Prop :=
  ∀ (s : State) (t u : Strand) (d a b : BitVec 5) (i : Instr) (r : StrandRef) (old : BitVec 4) (oldF : BitVec 32),
    let w := rd t.r a
    let v := rd t.r b
    let clean := rdP t.r a = false ∧ rdP t.r b = false
    let out (i : Instr) (s2 : State) (x : Word) : Prop := exec i s = .next (goesOn s2 t i (wr t.r d x false))
    let cls := bitsOf w 40 8
    let inst := bitsOf w 24 16
    let target := (cls = 0 ∧ inst < 64) ∨ (cls = 1 ∧ inst < 18) ∨ (cls = 2 ∧ inst = 0) ∨ (cls = 3 ∧ inst < 8) ∨ (cls = 4 ∧ inst < 80) ∨
      (cls = 5 ∧ inst < 32) ∨ (cls = 6 ∧ inst = 0) ∨ (cls = 7 ∧ inst = 0)
    let actForm := bitsOf w 52 12 = s.pkg ∧ bitsOf w 48 4 = 0 ∧ bitsOf w 8 16 = 0 ∧ target ∧ bitsOf v 4 60 = 0
    let key := (bitsOf w 8 8, bitsOf w 0 8)
    let filtForm := bitsOf w 16 48 = 0 ∧ bitsOf v 2 14 = 0 ∧ bitsOf v 32 32 = 0 ∧ (bitsOf v 0 2 = 3 ↔ bitsOf v 16 16 ≠ 0)
    let c := selCore w
    let dom := bitsOf w 28 8
    let cs := if w.getLsbD 41 then [c] else (List.range 16).map (computeId (bitsOf w 50 2) (bitsOf w 46 4))
    let op := bitsOf w 0 2
    let x := getCore s c
    let parts := i = .partwAssign d a b ∨ i = .partwWithdraw d a b ∨ i = .partwSetWord d a b
    let waits (ph : Option Phase) (P : State → Prop) : Prop :=
      ∃ s', exec i s = .next s' ∧ getStrand s' s.cur = some { t with status := .waiting .partition, inside := true, phase := ph } ∧
      s'.mem = s.mem ∧ P s'
    let named (r : StrandRef) (u : Strand) : Prop := r.core = c ∧ u.dom = dom ∧ u.status ≠ .ended ∧ (∀ l, u.status ≠ .saved l) ∧
      (w.getLsbD 23 = true ∨ r.slot = bitsOf w 36 6)
    let count (p : Strand → Bool) : Nat := (x.strands.filter (fun y => y.2.dom == dom && y.2.status != .ended &&
      (match y.2.status with | .saved _ => false | _ => true) && (w.getLsbD 23 || y.1 == bitsOf w 36 6) && p y.2)).length
    let dm := getDom s dom
    let slots := if areaBase dm.imgarea = 0 then 0 else 2 ^ areaLog dm.imgarea
    let fresh := count (fun u => u.preq.isNone)
    (Admits s t (.actw d a b) → clean →
      (¬ actForm → traps s t (.actw d a b) .operandRange 0 0) ∧
      (actForm → aget s.access (cls, inst, bitsOf w 0 8) = some old ∨ aget s.access (cls, inst, bitsOf w 0 8) = none ∧ old = 0 →
        out (.actw d a b) { s with access := aset s.access (cls, inst, bitsOf w 0 8) (v.setWidth 4) } (old.setWidth 64))) ∧
    (Admits s t (.filtw d a b) → clean →
      (¬ filtForm → traps s t (.filtw d a b) .operandRange 0 0) ∧
      (filtForm → aget s.filter key = some oldF ∨ aget s.filter key = none ∧ oldF = 0 →
        out (.filtw d a b) { s with filter := aset s.filter key (v.setWidth 32) } (oldF.setWidth 64))) ∧
    (parts → Admits s t i → clean →
      (¬ selects s w 0x000001F00FFFFFFC ∨ op = 3 → traps s t i .operandRange 0 0) ∧
      (selects s w 0x000001F00FFFFFFC → op = 0 →
        ((∃ c ∈ cs, (getCore s c).failed = true) → out i s 0x801A) ∧
        ((∀ c ∈ cs, (getCore s c).failed = false) → (∃ c ∈ cs, (getCore s c).dom ≠ none) → out i s 0x8028) ∧
        ((∀ c ∈ cs, (getCore s c).failed = false ∧ (getCore s c).dom = none ∧ c ≠ s.cur.core ∧ wordFits s c dom [] v) →
          ∃ s', exec i s = .next s' ∧ movedOn s s' t i (wr t.r d 0 false) ∧ s'.mem = s.mem ∧
            (∀ c ∈ cs, let y := getCore s' c
              y.dom = some dom ∧ y.pword = v.setWidth 32 ∧ y.spad = [] ∧ y.strands = [] ∧ y.tagR = 0 ∧ y.tagA = 0 ∧ y.l1 = [] ∧
              y.tls = Core.reset.tls ∧ y.jmu.pats = [] ∧ y.jmu.queue = []) ∧
            ∀ c, c ∉ cs → c ≠ s.cur.core → getCore s' c = getCore s c)) ∧
      (selects s w 0x000001F00FFFFFFC → op = 1 → moveOf s t.uid = none →
        ((∃ c ∈ cs, ∃ e, (getCore s c).dom = some e ∧ e ≠ dom) → out i s 0x8028) ∧
        (cs = [c] → x.dom = some dom → c ≠ s.cur.core → x.strands = [] → x.jmu.chans = [] → x.jmu.queue = [] → x.launchq = [] → x.copies = [] →
          x.dteq = [] → x.kuduq = [] → (∀ y ∈ s.jobs, y.2.dom ≠ dom) →
          ∃ s', exec i s = .next s' ∧ movedOn s s' t i (wr t.r d 0 false) ∧ s'.mem = s.mem ∧ (getCore s' c).dom = none ∧
            (getCore s' c).leaving = false) ∧
        (cs = [c] → x.dom = some dom → c ≠ s.cur.core → x.jmu.chans = [] → x.jmu.queue = [] → x.launchq = [] → (∀ y ∈ s.jobs, y.2.dom ≠ dom) →
          getStrand s r = some u → r.core = c → u.status ≠ .ended → (∀ l, u.status ≠ .saved l) → u.preq = none →
          waits t.phase (fun s' => (getCore s' c).dom = some dom ∧ (getCore s' c).leaving = true ∧
            getStrand s' r = some { u with preq := some (s.cys.now, .withdraw) }))) ∧
      (selects s w 0x000001F00FFFFFFC → op = 2 → t.phase = some .posted → (∀ c ∈ cs, (getCore s c).failed = false) →
        ((∃ c ∈ cs, (getCore s c).dom = some dom ∧ (getCore s c).pendWord = some (v.setWidth 32)) → waits t.phase (fun _ => True)) ∧
        ((∀ c ∈ cs, (getCore s c).dom = some dom → (getCore s c).pendWord ≠ some (v.setWidth 32)) →
          exec i s = .next (goesOn s { t with phase := none } i (wr t.r d 0 false)))) ∧
      (selects s w 0x000001F00FFFFFFC → op = 2 → t.phase = none →
        ((∃ c ∈ cs, (getCore s c).failed = true) → out i s 0x801A) ∧
        ((∀ c ∈ cs, (getCore s c).failed = false) → (∃ c ∈ cs, (getCore s c).dom ≠ some dom) → out i s 0x8028) ∧
        ((∀ c ∈ cs, (getCore s c).failed = false ∧ (getCore s c).dom = some dom ∧ wordFits s c dom (getCore s c).jmu.pats v) →
          ((∀ c ∈ cs, (getCore s c).pword = v.setWidth 32 ∧ (getCore s c).pendWord = none) → out i s 0) ∧
          ((∃ c ∈ cs, (getCore s c).pword ≠ v.setWidth 32) → waits (some .posted) (fun s' => ∀ c ∈ cs, (getCore s c).pword ≠ v.setWidth 32 →
            (getCore s' c).pendWord = some (v.setWidth 32)))))) ∧
    (i = .preempt d a ∨ i = .preemptHalt d a → Admits s t i → rdP t.r a = false → (x.strands.map (fun y => y.1)).Nodup →
      (¬ selects s w 0x000000000F3FFFFF → traps s t i .operandRange 0 0) ∧
      (selects s w 0x000000000F3FFFFF → w.getLsbD 22 = true →
        ∃ s', exec i s = .next s' ∧ movedOn s s' t i (wr t.r d (BitVec.ofNat 64 (count (fun _ => true))) false) ∧ s'.mem = s.mem ∧
          ∀ r u, r ≠ s.cur → getStrand s r = some u → (named r u → getStrand s' r = some { u with halt := true }) ∧
            (¬ named r u → getStrand s' r = some u)) ∧
      (selects s w 0x000000000F3FFFFF → w.getLsbD 22 = false → slots < dm.imgUsed.length + dm.imgReserved + fresh → out i s 0x8052) ∧
      (selects s w 0x000000000F3FFFFF → w.getLsbD 22 = false → dm.imgUsed.length + dm.imgReserved + fresh ≤ slots →
        ∃ s', exec i s = .next s' ∧ movedOn s s' t i (wr t.r d (BitVec.ofNat 64 (count (fun _ => true))) false) ∧ s'.mem = s.mem ∧
          (getDom s' dom).imgReserved = dm.imgReserved + fresh ∧
          ∀ r u, r ≠ s.cur → getStrand s r = some u →
            (named r u → u.preq = none → getStrand s' r = some { u with preq := some (s.cys.now, .preempt) }) ∧
            (¬ named r u ∨ u.preq ≠ none → getStrand s' r = some u))) ∧
    (i = .tsyncStatus d a b ∨ i = .tsyncSetReference d a b ∨ i = .tsyncSetTime d a b → Admits s t i → clean →
      (w = 0 → s.cys.refPkg < 4096 → ∃ y : Word, out i s y ∧ (y.getLsbD 63 = true ↔ s.cys.locked = true) ∧ (y.getLsbD 62 = true ↔ s.cys.ref = true) ∧
        bitsOf y 44 18 = 0 ∧ bitsOf y 32 12 = s.cys.refPkg ∧ (y.setWidth 32).toInt = max (-2 ^ 31) (min (s.cys.last / 2) (2 ^ 31 - 1))) ∧
      (w = 1 → out i { s with cys := { s.cys with ref := v.getLsbD 12, refPkg := if v.getLsbD 12 then s.pkg else bitsOf v 0 12 } } 0) ∧
      (w = 2 → s.cys.ref = true → s.cys.now ≤ v.toNat → ∃ y : Word, out i { s with free := s.free + 1, cys := { s.cys with now := v.toNat } } y) ∧
      (w = 2 → s.cys.ref = false ∨ v.toNat < s.cys.now → traps s t i .operandRange 0 0) ∧
      (3 ≤ w.toNat → traps s t i .operandRange 0 0))

/-- R345, R346: `ctxsave` of a core whose strands have stopped writes its image, gives its length and leaves the core unassigned with its
channels spilled; `ctxload` of a good image restores the core; each gives a refusal word where the rule names one, an image with a
reserved tag traps, and so does an address that is not 4 KiB-aligned, for which R341 leaves no refusal word (R327, R133). That trap,
and what the image rules leave open, are log 57. -/
def Obligations.CoreImageResults : Prop :=
  ∀ (s s1 s2 s3 s4 : State) (t : Strand) (d a b : BitVec 5) (live : List Word) (other : List (Word × Word)) (hd img : List Byte) (m : CoreImg),
    let w := rd t.r a
    let va := rd t.r b
    let c := selCore w
    let dom := bitsOf w 28 8
    let agent := strandAgent s.cur t
    let x := getCore s c
    let ready (i : Instr) : Prop := Admits s t i ∧ rdP t.r a = false ∧ rdP t.r b = false ∧ selects s w 0x000003F00FFFFFFF ∧ settled s t
    let unkeyed (p : Pat) : Pat := { p with key := 0 }
    let cleared (s2 : State) : State := endMove (tabDrop s2 t.uid) t.uid
    let out (i : Instr) (s2 : State) (v : Word) : Prop := exec i s = .next (goesOn s2 t i (wr t.r d v false))
    let word (n : Nat) : Word := leWord ((img.drop (8 * n)).take 8)
    let stopped := x.strands.all (fun y => match y.2.status with | .saved _ => true | _ => false) = true ∧ x.copies = [] ∧ x.dteq = [] ∧ x.kuduq = []
    (ready (.ctxsave d a b) →
      (va.toNat % 4096 ≠ 0 → traps s t (.ctxsave d a b) .misaligned 0 va) ∧
      (va.toNat % 4096 = 0 → imageArea s agent va .store = .ok s1 → (getCore s1 c).dom ≠ some dom → out (.ctxsave d a b) s1 0x8028) ∧
      (va.toNat % 4096 = 0 → imageArea s agent va .store = .ok s1 → x.dom = some dom → c ≠ s.cur.core → stopped → x.jmu.queue = [] → x.launchq = [] →
        (∀ y ∈ s.jobs, y.2.dom ≠ dom) → img = coreImage (startSave s1 c dom) c dom → img.length ≤ 6 * 2 ^ 20 →
        devWriteLong (startSave s1 c dom) agent va img false 128 = .ok s2 →
        (∃ s', exec (.ctxsave d a b) s = .next s' ∧ movedOn s s' t (.ctxsave d a b) (wr t.r d (BitVec.ofNat 64 img.length) false) ∧
          s'.mem = s2.mem ∧ (getCore s' c).dom = none ∧ (getCore s' c).strands = [] ∧ (getCore s' c).jmu.pats = [] ∧
          (∀ q ∈ (getCore s' c).jmu.chans, q.spilled = true) ∧
          (getCore s' c).jmu.chans.map (fun q => q.handle) = x.jmu.chans.map (fun q => q.handle)) ∧
        word 0 = coreSid s c dom ∧ bitsOf (word 1) 0 32 = x.pword.toNat ∧ word 3 = x.tagR ∧ word 4 = x.tagA ∧
        word 5 = BitVec.ofNat 64 s.cys.now ∧ word 6 = BitVec.ofNat 64 img.length)) ∧
    (ready (.ctxload d a b) →
      (va.toNat % 4096 ≠ 0 → traps s t (.ctxload d a b) .misaligned 0 va) ∧
      (va.toNat % 4096 = 0 → devReadLong s agent va 256 2 = .ok (hd, s1) →
        let head (n : Nat) : Word := leWord ((hd.drop (8 * n)).take 8)
        (bitsOf (head 0) 28 8 ≠ dom → out (.ctxload d a b) (cleared s1) 0x8028) ∧
        (bitsOf (head 0) 28 8 = dom → (head 6).toNat < 512 ∨ 6 * 2 ^ 20 < (head 6).toNat → out (.ctxload d a b) (cleared s1) 0x805F) ∧
        (bitsOf (head 0) 28 8 = dom → 512 ≤ (head 6).toNat → (head 6).toNat ≤ 6 * 2 ^ 20 →
          devReadLong s1 agent va (head 6).toNat 128 = .ok (img, s2) →
          ((getCore s2 c).failed = true → out (.ctxload d a b) (cleared s2) 0x801A) ∧
          ((getCore s2 c).failed = false → loadable (getCore s2 c) dom = true →
            (parseImage c dom img = none → out (.ctxload d a b) (cleared s2) 0x805F) ∧
            (parseImage c dom img = some m → m.strands.any imgTagBad = true → traps s t (.ctxload d a b) .tagReserved 0 0) ∧
            (parseImage c dom img = some m → m.strands.any imgTagBad = false → c ≠ s.cur.core →
              liveHandles s2 ⟨s.cur, t, 4, (Instr.ctxload d a b).word0⟩ c (m.chans.map (fun q => q.handle)) = .ok (live, other, s3) →
              loadEntries s3 ⟨s.cur, t, 4, (Instr.ctxload d a b).word0⟩ c other = .ok (none, s4) →
              ∃ s', exec (.ctxload d a b) s = .next s' ∧ movedOn s s' t (.ctxload d a b) (wr t.r d 0 false) ∧ s'.mem = s4.mem ∧
                (getCore s' c).dom = some dom ∧ (getCore s' c).pword = m.pword ∧ (getCore s' c).tagR = m.tagR ∧ (getCore s' c).tagA = m.tagA ∧
                (getCore s' c).jmu.pats.map unkeyed = (m.pats.filter (fun p => p.chans.all (fun h => live.contains h))).map unkeyed ∧
                ((getCore s' c).strands.map (fun y => y.1)).length = m.strands.length)))))

/-! Strands saved, restored and halted; units. -/

namespace Sys2Proof.Says

/-- A report of `c` with s17 `v` goes to the domain's report channel, or is counted when that is unset (R166, R167, R326). The
clauses are those of an unset report log. -/
def reported (s s' : State) (dom : Nat) (sender : Word) (c : Cause) (v : Word) : Prop :=
  let d := getDom s dom
  (getDom s' dom).repseq = d.repseq + 1 ∧
  (areaBase d.replog = 0 → d.repch ≠ 0 → s'.flight = s.flight ++ [⟨s.uid, 0, ⟨payload4
    (BitVec.ofNat 64 (d.repseq.toNat % 2 ^ 32 * 2 ^ 32 + causeCode c)) v (BitVec.ofNat 64 s.cys.now) 0, s.cys.now, sender, d.repch, false, 0, false⟩,
    dom, true, none, 0, duikerId, true, none, 0⟩]) ∧
  (areaBase d.replog = 0 → d.repch = 0 → s'.flight = s.flight ∧ (getDom s' dom).lostrep = satInc d.lostrep)

/-- The strand `t` at `r` may be saved into slot `n` of its domain's imgarea, whose 64 KiB stand at page-frame address `pa` (R332,
R335): it has a `preempt` request, nothing of it is outstanding, and `n` is the first free slot. -/
def maySave (s : State) (r : StrandRef) (t : Strand) (n base pa : Nat) : Prop :=
  let d := getDom s t.dom
  getStrand s r = some t ∧ (∃ at_, t.preq = some (at_, .preempt)) ∧ t.openers = [] ∧ belowDone s r.core t.uid s.uid [] 2 = true ∧ t.shadow = none ∧
  (∀ q ∈ (getCore s r.core).dteq ++ (getCore s r.core).kuduq, q.who.uid ≠ t.uid) ∧ t.r.v.length ≤ 32 ∧ t.tiles.length ≤ 8 ∧ t.tabs.length ≤ 8 ∧
  areaBase d.imgarea = base ∧ base ≠ 0 ∧ base % 65536 = 0 ∧ n < 2 ^ areaLog d.imgarea ∧ n ∉ d.imgUsed ∧ (∀ m < n, m ∈ d.imgUsed) ∧
  pa % 65536 = 0 ∧ s.memBad = [] ∧ Memory.wf s.mem = true ∧
  devXlate s (recAgent r t.dom) (BitVec.ofNat 64 (base + 65536 * n)) .store = .ok (pa, s)

/-- The strand `t` was saved with its next instruction at `pc` and the scalar registers of `live` (R120, R121, R335, R336): its slot of
the core is free, its image stands at `pa`, nothing else of memory changed, and it waits as a firing to be restored. -/
def savedTo (s s' : State) (r : StrandRef) (t : Strand) (pc : Word) (live : Nat → Bool) (n base pa : Nat) : Prop :=
  let d := getDom s t.dom
  let w (i : Nat) : Word := leWord (memBytes s'.mem (pa + 8 * i) 8)
  getStrand s' r = none ∧ (getDom s' t.dom).imgUsed = d.imgUsed ++ [n] ∧ (getDom s' t.dom).imgReserved = d.imgReserved - 1 ∧
  (∃ f, (getCore s' r.core).jmu.queue = (getCore s r.core).jmu.queue ++ [f] ∧ f.prio = t.prio ∧ f.dtime = s.cys.now ∧
    f.what = .image n (BitVec.ofNat 64 (base + 65536 * n)) t.dom) ∧
  (∀ a, a < pa ∨ pa + 65536 ≤ a → memRead s'.mem a = memRead s.mem a) ∧
  w 0 = strandSid s r t.dom ∧ w 1 = BitVec.ofNat 64 (t.prio * 2 ^ 16 + t.kind * 2 ^ 8 + t.pat) ∧ w 2 = pc ∧
  w 5 = (match t.status with | .suspended h => h | _ => 0) ∧ w 8 = t.r.spois.setWidth 64 ∧
  w 9 = t.r.fctl ∧ w 10 = t.entry ∧ (∀ k < 7, w (16 + k) = preg t.r (k + 1)) ∧
  ∀ k : BitVec 5, live k.toNat = true → w (24 + ((List.range k.toNat).filter live).length) = rd t.r k

end Sys2Proof.Says

/-- R120, R121, R22, R331 to R336: `safept` without a request only goes on, and with one saves the strand with the state it names; a
strand that waits, one whose awaited answer has come, one suspended or asleep with or without a record, and after 100 µs one at an
instruction boundary, is saved in full; a saved strand is restored with what its image holds. The model's own: the lowest free image
slot is taken (log 79) and the lowest free strand slot (log 14), and no strand of a compute core is restored above S (R9, log 73). -/
def Obligations.SaveResults : Prop :=
  ∀ (s : State) (t : Strand) (r : StrandRef) (tm lm : BitVec 8) (sm vm : BitVec 32) (n base pa : Nat) (c : CoreId) (f : Firing) (addr : Word)
    (dom slot at_ : Nat),
    let i : Instr := .safept tm lm sm vm
    let all (k : Nat) : Bool := decide (1 ≤ k)
    let w (i : Nat) : Word := leWord (memBytes s.mem (pa + 8 * i) 8)
    let fr (lo len : Nat) : Nat := bitsOf (w 4) lo len
    (Admits s t i → t.preq = none → exec i s = .next (goesOn s t i t.r)) ∧
    (Admits s t i → maySave s s.cur t n base pa → ∃ s', exec i s = .next s' ∧
      savedTo s s' s.cur t (t.pc + BitVec.ofNat 64 i.len) (fun k => sm.getLsbD k) n base pa) ∧
    (maySave s r t n base pa → (∃ k v, t.status = .waiting (.timeline k v)) ∨ (∃ a d b m y, t.status = .waiting (.tags a d b m y)) ∨
        (∃ y, t.status = .waiting (.idle y)) ∨ (∃ y, t.status = .waiting (.pause y)) ∨ (∃ g d a l ms, t.status = .waiting (.job g d a l ms)) ∨
        (∃ ts ls, t.status = .waiting (.engine ts ls true)) ∨ (∃ g, g ≠ 0 ∧ t.status = .waiting (.answer g)) ∨
        (t.status = .ready ∧ t.saveNow = true) ∨ (∃ h, t.status = .suspended h) ∨ (∃ h, t.status = .asleep h) ∨
        (∃ q, t.status = .trapping q) ∨ (∃ p i n y, t.status = .faulting p i n y) →
      ∃ s', exec (.strandSave r) s = .next s' ∧ savedTo s s' r t t.pc all n base pa) ∧
    (maySave s r t n base pa → t.preq = some (at_, .preempt) → at_ + 100000 ≤ s.cys.now → t.inside = false →
        t.status = .ready ∨ t.status = .waiting .openers ∨ t.status = .waiting .sends ∨ (∃ n, t.status = .waiting (.queue n)) ∨
        t.status = .waiting .stores ∨ (∃ m, t.status = .waiting (.miss m)) →
      ∃ s', exec (.preemptForceTimeout r) s = .next s' ∧ savedTo s s' r t t.pc all n base pa) ∧
    (firesFirst (getCore s c) f → f.what = .image n addr dom → addr.toNat % 65536 = 0 → pa % 65536 = 0 → s.memBad = [] →
      devXlate s ⟨c, none, false, dom, 1⟩ addr .load = .ok (pa, s) → hasRoom s c slot (fr 10 6) (fr 6 4) (fr 2 4) → fr 40 8 = 0 → fr 49 2 = 0 →
      bitsOf (w 3) 32 32 = 2 ^ 32 - 2 → bitsOf (w 12) 0 2 ≤ 2 → (∀ o ∈ (getDom s dom).origins, o.stopped = none) → (getCore s c).dteq.length ≤ 16 → (getCore s c).kuduq.length ≤ 16 →
      (∀ k < ((List.range 32).filter (fun i => (w 3).getLsbD i)).length, bitsOf (leWord (memBytes s.mem (pa + 440 + 72 * k) 8)) 0 5 < 19) →
      ∃ s' u, exec (.strandRestore c) s = .next s' ∧ s'.mem = s.mem ∧ getStrand s' ⟨c, slot⟩ = some u ∧ u.dom = dom ∧
        u.status = .ready ∧ u.pc = w 2 ∧ u.target = true ∧ u.entry = w 10 ∧ u.kind = 3 ∧ u.prio = bitsOf (w 1) 16 3 ∧ u.pat = bitsOf (w 1) 0 8 ∧
        privNum u.priv = (if c.kind = .compute then min 1 (bitsOf (w 12) 0 2) else bitsOf (w 12) 0 2) ∧ u.r.fctl = w 9 &&& 0x7F ∧ (∀ k < 7, preg u.r (k + 1) = w (16 + k)) ∧
        (∀ k : BitVec 5, k ≠ 0 → rd u.r k = w (23 + k.toNat) ∧ rdP u.r k = (w 8).getLsbD k.toNat) ∧
        u.r.v.length = fr 10 6 ∧ u.tiles.length = fr 6 4 ∧ u.tabs.length = fr 2 4 ∧
        (getDom s' dom).imgUsed = (getDom s dom).imgUsed.filter (fun k => k ≠ n) ∧ f ∉ (getCore s' c).jmu.queue)

/-- R10, R81, R82, R139, R200, R324, R326, R340, R353: a fetch that translates to no page makes a batch record of that page, and any other fetch
fault traps at the address; a debug halt ends run-ahead and traps a strand at its next instruction boundary,
naming the instruction before it; a timer reports and clears tmcmp; a posted pool
word takes effect once the core holds no strand; a withdrawn core deals its work again and spills its channels. The model's own: a
fetch fault in run-ahead ends it without its page (log 63), what `from_` puts into a record (log 29), and what a withdrawn unit's
chunks and channels become (log 56). -/
def Obligations.StrandEvents : Prop :=
  ∀ (s : State) (t : Strand) (r : StrandRef) (c : CoreId) (dom base pa k : Nat) (w : BitVec 32) (why : Cause) (addr ia : Word) (w0 : BitVec 32)
    (h : Shadow),
    let x := getCore s c
    let d := getDom s dom
    let now := { x with pword := w }
    let page : PageRec := ⟨addr.toNat / 65536 % 2 ^ 40, why, false, true⟩
    let i : Instr := .fetchFault why addr
    let here := getStrand s s.cur = some t ∧ t.shadow = none
    let back (t : Strand) (h : Shadow) : Strand :=
      { t with shadow := none, r := h.saved, pc := h.iaddr, target := false, absent := [], inside := false, openers := [], lat := [] }
    let gen := newGen s pa k
    (here → t.openers = [] → why = .pageNotPresent ∨ why = .pageNotLocal → takesSlot s s.cur t.uid t.dom base pa k →
      ∃ s', exec i s = .next s' ∧ wroteRecord s s' pa k (faultWord s t [page] addr (strandSid s s.cur t.dom) gen) ∧
        getStrand s' s.cur = some { t with absent := t.absent.filter (fun v => v ≠ addr.toNat / 65536),
                                           status := .asleep (BitVec.ofNat 64 (gen * 2 ^ 48 + base + 512 * k)) }) ∧
    (here → why = .permissionExecute ∨ why = .fetchFault →
      exec i s = .next (raiseTrap s s.cur t (trapReq s why 0 addr addr addr 0))) ∧
    (here → why = .notInstructionStart → t.target = true → t.from_ = some (ia, w0) →
      exec i s = .next (raiseTrap s s.cur t (trapReq s why 0 addr ia ia w0))) ∧
    (here → why = .notInstructionStart → t.target = false ∨ t.from_ = none →
      exec i s = .next (raiseTrap s s.cur t (trapReq s why 0 addr addr addr 0))) ∧
    (getStrand s s.cur = some t → t.shadow = some h →
      exec i s = .next (takeFault s s.cur (back t h) h.pages h.iaddr false)) ∧
    (getStrand s r = some t → t.halt = true → t.shadow = some h → exec (.debugHalt r) s = .next (takeFault s r (back t h) h.pages h.iaddr false)) ∧
    (getStrand s r = some t → t.halt = true → t.shadow = none → t.status = .ready ∨ (∃ y, t.status = .waiting y) →
      (t.inside = true → exec (.debugHalt r) s = .next s) ∧
      (t.inside = false → t.from_ = some (ia, w0) →
        exec (.debugHalt r) s = .next (raiseTrap s r { t with halt := false } (trapReq s .debugHalt 0 0 ia t.pc w0))) ∧
      (t.inside = false → t.from_ = none →
        exec (.debugHalt r) s = .next (raiseTrap s r { t with halt := false } (trapReq s .debugHalt 0 0 t.pc t.pc 0)))) ∧
    (getStrand s r = some t → t.halt = false → exec (.debugHalt r) s = .next s) ∧
    (d.tmcmp ≠ 0 → d.tmcmp.toNat ≤ s.cys.now →
      ∃ s', exec (.timerExpiry dom) s = .next s' ∧ (getDom s' dom).tmcmp = 0 ∧ reported s s' dom (duikerSid s) .timer d.tmcmp) ∧
    (d.tmcmp = 0 ∨ s.cys.now < d.tmcmp.toNat → exec (.timerExpiry dom) s = .next s) ∧
    (x.pendWord = some w → x.strands = [] → Memory.wf x.spad = true →
      ∃ s', exec (.partitionWordApply c) s = .next s' ∧ (getCore s' c).pword = w ∧ (getCore s' c).pendWord = none ∧ s'.mem = s.mem ∧
        (getCore s' c).jmu = x.jmu ∧ ∀ o, o < spadSize c x → o < spadSize c now → memRead (getCore s' c).spad o = memRead x.spad o) ∧
    (x.pendWord = some w → x.strands ≠ [] → exec (.partitionWordApply c) s = .next s) ∧
    (∃ s', exec (.unitWithdrawal c) s = .next s' ∧ s'.mem = s.mem ∧ (getCore s' c).failed = true ∧ (getCore s' c).launchq = [] ∧
      (∀ q ∈ (getCore s' c).jmu.chans, q.spilled = true) ∧ (getCore s' c).strands = x.strands)

/-! The fabric. -/

namespace Sys2Proof.Says

/-- The gateway lets `p` through as a packet of a channel and type (R376, R377, R378, R381, R397): the fabric is up, no reserved bit, for this
package, of the length that it names, CAUSE, RDR and RID only where a packet has them, younger than 24 units, its lines undamaged. -/
def passes (s : State) (p : Packet) (vc type : Nat) : Prop :=
  s.powered = true ∧ 7 ≤ s.boot.stage ∧ (p.rid = 0 ∨ type ∉ [3, 4, 5, 11, 12, 28, 29]) ∧
  p.resv = false ∧ p.hops ≠ 3 ∧ p.dst.toNat = s.pkg ∧ p.payload.length = 32 * p.len.toNat ∧ p.len.toNat ≤ 128 ∧ p.vc.toNat = vc ∧
  p.type.toNat = type ∧ (vc = 1 ∨ p.rdr = 0) ∧ (vc = 1 ∨ type = 23 ∨ p.cause = 0) ∧ (s.cys.now / 1024 % 4096 + 4096 - p.born.toNat) % 4096 < 24 ∧ p.badLines = []

/-- The one packet sent between `s` and `s'` is `q`, to `dst`, of a channel and type and with a cause. -/
def sent (s s' : State) (q : Packet) (dst : Nat) (vc type : Nat) (c : Cause) : Prop :=
  s'.out = s.out ++ [q] ∧ q.dst = BitVec.ofNat 12 dst ∧ q.src = BitVec.ofNat 12 s.pkg ∧ q.vc.toNat = vc ∧ q.type.toNat = type ∧
  q.cause.toNat = causeCode c

/-- `q` answers the request `p`: it carries its id and its agent (R363). -/
def answers (s s' : State) (p q : Packet) (vc type : Nat) (c : Cause) : Prop :=
  sent s s' q p.src.toNat vc type c ∧ q.rid = p.rid ∧ q.srcid = p.srcid

/-- The request `p` of `n` bytes is one that this package serves at frame address `pa` (R361, R378, R388): well formed, for a page
that it owns with no migration under way, sent by its issuer itself and admitted by the access tables of the port at which it comes
and of the home slice; memory is sound and on no device that has been withdrawn (R392). -/
def serves (s : State) (p : Packet) (a : Acc) (bit n pa : Nat) : Prop :=
  let gba := (pktWord p 0).toNat
  reqOk s p = true ∧ n = bitsOf (pktWord p 1) 0 13 ∧ s.migs = [] ∧ isOwner s (pageKey s (gba / 65536)) = true ∧ p.hops = 0 ∧
  pa = frameOfUnit s (gba / 65536) + gba % 65536 ∧ frameExists s pa = true ∧ pa % 65536 + n ≤ 65536 ∧
  (∀ k < n, tierDead s (pa + k) = false) ∧ (accessBits s 1 p.port (srcDom p.srcid)).getLsbD bit = true ∧ homeAdmits s pa (srcDom p.srcid) a = true ∧ s.memBad = [] ∧ s.memPois = [] ∧
  s.memWf = true

end Sys2Proof.Says

/-- R151, R152, R359 to R365, R374, R376 to R378, R388: a READ, WRITE or ATOMIC that this package serves reads or changes the bytes it
names and answers; a repeated atomic is answered from the cache with the poison of its word; a refused one bounces; a stub relays; the
home directory names the owner and records a migration; answers end the requests they answer. The model's own: the packet payloads of
the protocol (log 17), the packets of a request in parts (log 74), the atomics relayed at a freeze (log 41), the directory's room
and the answer to a migration that waits (log 60). -/
def Obligations.PacketResults : Prop :=
  ∀ (s : State) (p : Packet) (n pa : Nat) (o : Word) (x : Stub) (hs : HauSource) (e : DirEntry) (m : Migration) (r : StrandRef) (u : Strand) (q : Req) (cp : Copy) (f : Nat),
    let w (k : Nat) : Word := pktWord p k
    let g := (w 0).toNat
    let src := p.src.toNat
    let data := p.payload.drop 32
    let bits := 8 * n
    let fn := bitsOf (w 1) 16 5
    let old : BitVec bits := BitVec.ofNat bits (leNat (memBytes s.mem pa n))
    let cut (y : Word) : BitVec bits := y.setWidth bits
    let key := pageKey s (g / 65536)
    let whole := s.halves = [] ∧ p.len.toNat = 1 + (bitsOf (w 1) 0 13 + 31) / 32
    let requests (i : Instr) (type : Nat) : Prop := (i = .pktRead p ∧ type = 0) ∨ (i = .pktWrite p ∧ type = 1) ∨ (i = .pktAtomic p ∧ type = 2)
    let run (i : Instr) (P : State → Prop) : Prop := ∃ s', exec i s = .next s' ∧ P s'
    let kind := bitsOf (w 1) 0 8
    let size := bitsOf (w 1) 8 8
    let home := gpnHome g = s.pkg
    let alone := reqOf s p = some q ∧ (pathOf s q.gpn).holding = [] ∧ (∀ y ∈ s.reqs, y.uid = q.uid → y = q) ∧ p.rdr = 0
    let ended (s' : State) : Prop := ∀ y ∈ s'.reqs, y.uid ≠ q.uid
    let block := q.strm < 64 ∧ copyOf s q.core q.strm q.num = some cp ∧ ∀ y ∈ cp.fails, ¬ (y.1 = q.member ∧ y.2.1 = q.block)
    let bytes (l : List Byte) : List (Byte × Bool) := l.map (fun b => (b, false))
    let got (s' : State) (l : List Byte) : Prop := ∃ y, copyOf s' q.core q.strm q.num = some y ∧
      y.got = cp.got ++ [⟨q.member, q.block, q.piece, true, bytes l⟩] ∧ y.fails = cp.fails
    let failed (s' : State) (c : Cause) : Prop := ∃ y, copyOf s' q.core q.strm q.num = some y ∧ y.fails = cp.fails ++ [(q.member, q.block, c)]
    (passes s p 0 0 → serves s p .load 0 n pa → ∃ q, run (.pktRead p) (fun s' => answers s s' p q 1 8 .none ∧ s'.mem = s.mem ∧
      q.payload.take n = memBytes s.mem pa n)) ∧
    (passes s p 0 1 → reqOk s p = true → s.halves = [] → 1 + (bitsOf (w 1) 0 13 + 31) / 32 < p.len.toNat → run (.pktWrite p) (fun s' =>
      s'.mem = s.mem ∧ s'.out = s.out ∧ ∃ y, s'.halves = [y] ∧ y.rid = p.rid ∧ y.src = p.src ∧ y.srcid = p.srcid)) ∧
    (passes s p 0 1 → serves s p .store 1 n pa → whole → ∃ q, run (.pktWrite p) (fun s' => answers s s' p q 1 9 .none ∧
      memBytes s'.mem pa n = data.take n ∧ ∀ a, a < pa ∨ pa + n ≤ a → memRead s'.mem a = memRead s.mem a)) ∧
    (passes s p 0 2 → serves s p .atomic 2 n pa → pa % n = 0 → (∀ y ∈ s.seen, y.id ≠ .remote (hauSrc p) p.rid.toNat) →
      (p.rt = 0 → ∃ q, run (.pktAtomic p) (fun s' => answers s s' p q 1 9 .none ∧
        wroteWord s s' (.mem pa) n (atomicWord fn bits old (cut (w 2)) (cut (w 3)) (w 3)).toNat ∧
        pktWord q 0 = atomicReturn fn bits old (cut (w 2)) ∧
        ∃ h ∈ s'.hau, h.src = hauSrc p ∧ ⟨p.rid.toNat, g, atomicReturn fn bits old (cut (w 2)), false⟩ ∈ h.results)) ∧
      (p.rt = 1 → s.hau.find? (fun h => h.src == hauSrc p) = some hs → ¬ (1 ≤ (p.rid.toNat + 65536 - hs.highest) % 65536 ∧
          (p.rid.toNat + 65536 - hs.highest) % 65536 < 32768) →
        (∀ y, (hs.results ++ hs.moved).find? (fun y => y.rid == p.rid.toNat) = some y → y.old = o → ∃ q, run (.pktAtomic p) (fun s' =>
          answers s s' p q 1 9 .none ∧ pktWord q 0 = o ∧ q.badLines = (if y.pois then [0] else []) ∧ s'.mem = s.mem)) ∧
        ((∀ y ∈ hs.results ++ hs.moved, y.rid ≠ p.rid.toNat) → ∃ q, run (.pktAtomic p) (fun s' => answers s s' p q 1 10 .atomicIndeterminate ∧ s'.mem = s.mem)))) ∧
    (∀ i type, requests i type → passes s p 0 type → reqOk s p = true → (type = 1 → whole) →
      ((accessBits s 1 p.port (srcDom p.srcid)).getLsbD type = false → ∃ q, run i (fun s' => answers s s' p q 1 10 .accessTableDenied ∧ s'.mem = s.mem)) ∧
      ((accessBits s 1 p.port (srcDom p.srcid)).getLsbD type = true → s.migs = [] → isOwner s key = false →
        ((∀ y ∈ s.stubs, y.gpn ≠ key) → ∃ q, run i (fun s' => answers s s' p q 1 10 .migrationChain ∧ s'.mem = s.mem)) ∧
        (s.stubs.find? (fun y => y.gpn == key) = some x → p.hops.toNat < 2 → x.owner ∈ s.deadLinks →
          ∃ q, run i (fun s' => answers s s' p q 1 10 .linkDead ∧ s'.mem = s.mem)) ∧
        (s.stubs.find? (fun y => y.gpn == key) = some x → p.hops.toNat < 2 → x.owner ∉ s.deadLinks →
          exec i s = .next { s with out := s.out ++ [{ p with dst := BitVec.ofNat 12 x.owner, hops := p.hops + 1, born := BitVec.ofNat 12 (s.cys.now / 1024) }] }) ∧
        (s.stubs.find? (fun y => y.gpn == key) = some x → p.hops = 2 → ∃ q, run i (fun s' => answers s s' p q 1 10 .migrationChain)))) ∧
    (passes s p 0 3 →
      (home → dirRoom s key = true → ∃ q, run (.pktDirq p) (fun s' => sent s s' q src 1 11 .none ∧ pktWord q 0 = w 0 ∧
        pktWord q 2 = BitVec.ofNat 64 (dirOf s key).owner ∧ ((dirOf s' key).bcast = true ∨ src ∈ (dirOf s' key).sharers))) ∧
      (¬ home ∨ dirRoom s key = false → ∃ q, run (.pktDirq p) (fun s' => sent s s' q src 1 10 .ownerLookupFailed))) ∧
    (passes s p 0 4 →
      (kind = 0 → home → (dirOf s g).owner ≠ src → dirRoom s g = false → ∃ q, run (.pktMigrq p) (fun s' => sent s s' q src 1 10 .ownerLookupFailed)) ∧
      (kind = 0 → home → e = dirOf s g → e.owner ≠ src → dirRoom s g = true →
        (e.migrating = false → ∃ q, run (.pktMigrq p) (fun s' => sent s s' q src 1 11 .none ∧ pktWord q 2 = BitVec.ofNat 64 e.owner ∧
          dirOf s' g = { e with migrating := true })) ∧
        (e.migrating = true → ∃ q, run (.pktMigrq p) (fun s' => sent s s' q src 1 11 .none ∧ pktWord q 1 = 2 ∧
          dirOf s' g = { e with waiting := e.waiting ++ [src] }))) ∧
      (kind = 1 → s.migs = [] → isOwner s g = true → s.stubs.length < 65536 → frameOfUnit s g = f →
        run (.pktMigrq p) (fun s' => s'.relayed = s.relayed ++ lateAtomics s g (sizeUnits size) f ∧ (∃ m, s'.migs = [m] ∧ m.gpn = g ∧ m.size = size ∧ m.pulling = false ∧ m.step = 2 ∧ m.other = src ∧ m.old = f) ∧
          removed s s' s.cur.core 2 (fun y => y.gpn < g + sizeUnits size ∧ g < y.gpn + sizeUnits y.size))) ∧
      (kind = 1 → s.migs = [] → isOwner s g = true → 65536 ≤ s.stubs.length →
        ∃ q, run (.pktMigrq p) (fun s' => sent s s' q src 1 10 .stubTableFull ∧ s'.migs = [])) ∧
      (kind = 4 → home → e = dirOf s g → e.waiting = [] → ∃ q, run (.pktMigrq p) (fun s' => sent s s' q e.owner 0 4 .none ∧
        dirOf s' g = ⟨src, false, [], false, []⟩)) ∧
      (kind = 5 → s.migs.find? (fun y => !y.pulling && y.gpn == g) = some m → m.queue = [] → p.payload.length = 32 → (w 3).getLsbD 0 = false →
        ∃ q, run (.pktMigrq p) (fun s' => sent s s' q (w 2).toNat 0 4 .none ∧ g ∉ s'.owned ∧ aget s'.frames g = none ∧
          ∃ y ∈ s'.stubs, y.gpn = g ∧ y.owner = (w 2).toNat ∧ y.pending = [] ∧ y.st = .quiet ∧ y.born = s.cys.now)) ∧
      (kind = 8 → s.migs.find? (fun y => y.pulling && y.gpn == g && y.step == 5) = some m → m.who = some r → getStrand s r = some u →
        u.uid = m.uid → u.phase = some (.pulling none) → run (.pktMigrq p) (fun s' => getStrand s' r = some { u with phase := some (.pulling (some 0)) } ∧ s'.mem = s.mem ∧
          ∀ y ∈ s'.migs, ¬ (y.gpn = g ∧ y.pulling = true)))) ∧
    (passes s p 0 5 → (pathOf s g).inFlight = 0 → ∃ q, run (.pktInval p) (fun s' => sent s s' q src 1 12 .none ∧ pktWord q 0 = w 0 ∧
      aget s'.oc g = none)) ∧
    (passes s p 0 5 → (pathOf s g).inFlight ≠ 0 → run (.pktInval p) (fun s' => s'.out = s.out ∧ aget s'.oc g = none ∧
      (pathOf s' g).ackTo = (pathOf s g).ackTo ++ [src])) ∧
    (passes s p 1 8 → alone → p.cause = 0 →
      (block → run (.pktData p) (fun s' => ended s' ∧ got s' (p.payload.take (bitsOf (pktWord q.p 1) 0 13)))) ∧
      (q.strm = 64 → run (.pktData p) (fun s' => ended s' ∧
        aget s'.tabAns (q.num, q.member) = some (leWord (p.payload.take (bitsOf (pktWord q.p 1) 0 13)), none)))) ∧
    (passes s p 1 9 → alone → block →
      (p.cause = 0 → run (.pktDone p) (fun s' => ended s' ∧ got s' (word8 (w 0)))) ∧
      (p.cause ≠ 0 → run (.pktDone p) (fun s' => ended s' ∧
        failed s' (if p.cause.toNat = causeCode .checkValueMismatch then .checkValueMismatch else .uncorrectableData)))) ∧
    (passes s p 1 10 → alone →
      (p.cause.toNat = causeCode .migrationChain → s.deadLinks = [] → run (.pktBounce p) (fun s' => aget s'.oc q.gpn = none ∧
        ∃ y ∈ s'.reqs, y.uid = q.uid)) ∧
      (p.cause.toNat = causeCode .atomicIndeterminate → block → run (.pktBounce p) (fun s' => ended s' ∧ failed s' .atomicIndeterminate)) ∧
      (p.cause.toNat = causeCode .accessTableDenied → block → run (.pktBounce p) (fun s' => ended s' ∧
        failed s' (if q.p.type = 0 then .copySourceFault else .copyDestFault))) ∧
      (p.cause.toNat = causeCode .uncorrectableData → block → run (.pktBounce p) (fun s' => ended s' ∧ failed s' .uncorrectableData)) ∧
      (p.cause.toNat = causeCode .linkDead → block → run (.pktBounce p) (fun s' => ended s' ∧ failed s' .linkDead)) ∧
      (p.cause.toNat = causeCode .ownerLookupFailed → block → run (.pktBounce p) (fun s' => ended s' ∧ failed s' .ownerLookupFailed))) ∧
    (passes s p 1 11 → w 1 = 2 → exec (.pktDirans p) s = .next { s with asked := adel s.asked g }) ∧
    (passes s p 1 11 → w 1 = 0 → (∃ l ∈ s.lookups, l.1 = g) → (pathOf s g).holding = [] → run (.pktDirans p) (fun s' =>
      aget s'.oc g = some (w 2).toNat ∧ ∀ l ∈ s'.lookups, l.1 ≠ g)) ∧
    (passes s p 1 11 → w 1 = 1 → s.migs.find? (fun y => y.pulling && y.gpn == g && y.step == 1) = some m → (w 2).toNat ≠ s.pkg →
      (w 2).toNat ∉ s.deadLinks → ∃ q, run (.pktDirans p) (fun s' => sent s s' q (w 2).toNat 0 4 .none ∧ pktWord q 0 = w 0 ∧
        ∃ y ∈ s'.migs, y.gpn = g ∧ y.pulling = true ∧ y.step = 2 ∧ y.other = (w 2).toNat)) ∧
    (passes s p 1 12 → x ∈ s.stubs → x.gpn = g → (∀ k ∈ x.pending, k = src) → x.st ≠ .quiet → run (.pktAck p) (fun s' =>
      ∃ y ∈ s'.stubs, y = { x with pending := [], st := .quiet, since := s.cys.now }))

/-- R376 to R378, R380, R383 to R387, R197, R206, R207: message packets are accepted once and in turn and acknowledged; gang cards become
jobs and acknowledgements are noted; reductions reserve, combine and release; a time request is answered and an answer sets the
offset; a packet with a reserved bit, of the wrong type or too old has no effect but a log record or a count. The model's own: the
payload layouts of GANG, GACK, RESV, CONTRIB, RREL and TIME (log 17), contributions of any domain and when a slot can be taken again
(log 61), late and refused cards and what away messages are (log 75), contributions in parts (log 74). -/
def Obligations.MessagePacketResults : Prop :=
  ∀ (s : State) (p : Packet) (e k : Nat) (j : Job) (x : Slot) (t : Nat),
    let w (k : Nat) : Word := pktWord p k
    let src := p.src.toNat
    let rid := p.rid.toNat
    let run (i : Instr) (P : State → Prop) : Prop := ∃ s', exec i s = .next s' ∧ P s'
    let newer (a b : Nat) : Prop := 1 ≤ (a + 65536 - b) % 65536 ∧ (a + 65536 - b) % 65536 < 32768
    let v := vcOf s src
    let m := recordMsg p.payload
    let hd := getDom s (hDom m.handle)
    let rep : Bool := decide (m.handle = hd.repch)
    let admits := (accessBits s 1 p.port (srcDom p.srcid)).getLsbD 3 = true
    let turn := aget s.vcIn src = some e
    let inTurn (i : Instr) (P : State → Prop) : Prop := run i (fun s' => aget s'.vcIn src = some ((e + 1) % 65536) ∧ P s')
    let vc2 (i : Instr) (type : Nat) : Prop := (i = .pktMsg p ∧ type = 16) ∨ (i = .pktGang p ∧ type = 17) ∨ (i = .pktGack p ∧ type = 18)
    let card (n : Nat) : Word := w n
    let cs := coreSet s (srcDom p.srcid) ((w 6).setWidth 40) ((w 7).setWidth 16)
    let every (i : Instr) (vc type : Nat) : Prop := (i, vc, type) ∈ [(Instr.pktRead p, 0, 0), (.pktWrite p, 0, 1), (.pktAtomic p, 0, 2), (.pktDirq p, 0, 3),
      (.pktMigrq p, 0, 4), (.pktInval p, 0, 5), (.pktData p, 1, 8), (.pktDone p, 1, 9), (.pktBounce p, 1, 10), (.pktDirans p, 1, 11), (.pktAck p, 1, 12),
      (.pktMack p, 1, 13), (.pktMsg p, 2, 16), (.pktGang p, 2, 17), (.pktGack p, 2, 18), (.pktMsync p, 2, 19), (.pktResv p, 3, 20), (.pktContrib p, 3, 21),
      (.pktRrel p, 3, 22), (.pktRans p, 3, 23), (.pktTime p, 4, 28), (.pktMgmt p, 4, 29)]
    let elem (l : List Byte) (n : Nat) : Nat := leNat ((l.drop (4 * n)).take 4)
    let n := (w 1).toNat
    let data := (p.payload.drop 32).take n
    let free (y : Slot) : Prop := y.used = false ∧ y.ending = false ∧ y.freed ≠ s.cycle + 1
    let slot := aget s.slots k = some x ∧ w 0 = slotHandle s k x ∧ k < 256 ∧ x.gen < 65536 ∧ s.pkg < 4096 ∧ x.dom < 256
    let open_ := x.complete = false ∧ n = x.len ∧ (∃ y ∈ x.members, y.1 = src ∧ y.2 < x.expect) ∧ s.cys.now < x.time + 1000 * x.timeout
    let grown := x.members.map (fun y => if y.1 = src then (y.1, y.2 + 1) else y)
    let off : Int := ((w 2).toNat : Int) - t - ((s.cys.now : Int) - (w 3).toNat)
    let noRid := [3, 4, 5, 11, 12, 28, 29]
    let up := s.powered = true ∧ 7 ≤ s.boot.stage
    (∀ i vc type, every i vc type →
      (¬ up → exec i s = .next s) ∧
      (up → p.resv = true ∨ (vc ≠ 1 ∧ (p.rdr ≠ 0 ∨ type ≠ 23 ∧ p.cause ≠ 0)) ∨ (type ∈ noRid ∧ p.rid ≠ 0) ∨ p.hops = 3 ∨ p.dst.toNat ≠ s.pkg ∨ p.payload.length ≠ 32 * p.len.toNat ∨ 128 < p.len.toNat ∨ p.type.toNat ≠ type ∨ p.vc.toNat ≠ vc →
        ∃ s', exec i s = .next s' ∧ s' = { s with evlog := s'.evlog, evseq := s.evseq + 1 }) ∧
      (up → p.resv = false → (vc = 1 ∨ p.rdr = 0) → (vc = 1 ∨ type = 23 ∨ p.cause = 0) → (type ∉ noRid ∨ p.rid = 0) → p.hops ≠ 3 → p.dst.toNat = s.pkg → p.payload.length = 32 * p.len.toNat → p.len.toNat ≤ 128 → p.type.toNat = type → p.vc.toNat = vc →
        24 ≤ (s.cys.now / 1024 % 4096 + 4096 - p.born.toNat) % 4096 → exec i s = .next { s with discards := s.discards + 1 })) ∧
    (passes s p 1 13 → v.synced = true → v.waiting = [] → (∃ y ∈ v.unacked, ¬ newer y.p.rid.toNat rid) →
      run (.pktMack p) (fun s' => (vcOf s' src).unacked = v.unacked.filter (fun y => newer y.p.rid.toNat rid) ∧ s'.out = s.out ∧
        s'.away = s.away.filter (fun f => ∀ y ∈ v.unacked, newer y.p.rid.toNat rid ∨ y.id ≠ f.id))) ∧
    (passes s p 2 19 → ∃ q, run (.pktMsync p) (fun s' => sent s s' q src 1 13 .none ∧ q.rid = p.rid ∧ aget s'.vcIn src = some rid)) ∧
    (∀ i type, vc2 i type → passes s p 2 type →
      (aget s.vcIn src = none → exec i s = .next s) ∧
      (turn → e < 65536 → newer rid e → exec i s = .next s) ∧
      (turn → e < 65536 → rid ≠ e → ¬ newer rid e → ∃ q, run i (fun s' => sent s s' q src 1 13 .none ∧ q.rid.toNat = (e + 65535) % 65536 ∧
        s' = { s with out := s'.out }))) ∧
    (passes s p 2 16 → turn → rid = e → admits → ∃ q, inTurn (.pktMsg p) (fun s' => sent s s' q src 1 13 .none ∧ q.rid = p.rid ∧
      s'.flight = s.flight ++ [⟨s.uid, 0, m, if rep then hDom m.handle else srcDom p.srcid, rep, none, 0, duikerId, true, none, 0⟩])) ∧
    (passes s p 2 17 → turn → rid = e → admits → 288 ≤ p.payload.length → s.cys.now < (w 35).toNat → freeJob s = none →
      inTurn (.pktGang p) (fun s' => s'.jobs = s.jobs ∧ s'.cards = s.cards ++ [p] ∧ s'.mem = s.mem)) ∧
    (passes s p 2 17 → turn → rid = e → admits → 288 ≤ p.payload.length → s.cys.now < (w 35).toNat → freeJob s = some k → bitsOf (w 0) 4 2 < 2 → cs ≠ [] →
      (∀ c ∈ cs, frameTooBig s (bitsOf (w 0) 8 6) (bitsOf (w 0) 14 4) (bitsOf (w 0) 18 4) c = false) →
      s.cys.now < (card 11).toNat → bitsOf (card 5) 0 40 ≠ 0 →
      inTurn (.pktGang p) (fun s' => ∃ y, aget s'.jobs k = some y ∧ y.st = .held ∧ y.dom = srcDom p.srcid ∧ y.body = card 1 ∧ y.args = card 3 ∧
        y.count = bitsOf (card 5) 0 40 ∧ y.start = (card 11).toNat ∧ y.parent = some (src, w 34) ∧ y.undealt = [(0, bitsOf (card 5) 0 40)])) ∧
    (passes s p 2 17 → turn → rid = e → admits → 288 ≤ p.payload.length → (w 35).toNat ≤ s.cys.now →
      inTurn (.pktGang p) (fun s' => s'.jobs = s.jobs ∧ s'.mem = s.mem)) ∧
    (passes s p 2 17 → turn → rid = e → admits → p.payload.length < 288 → w 1 = 2 → jobOf s (w 0) = some (k, j) →
      aget s.jobs k = some j → j.st = .dealing → j.gang = none → inTurn (.pktGang p) (fun s' =>
        ∃ y, aget s'.jobs k = some y ∧ y.undealt = [] ∧ y.cancelled = true ∧ chunksOf s' k j.gen = [])) ∧
    (passes s p 2 17 → turn → rid = e → admits → p.payload.length < 288 → w 1 ≠ 2 → s.jobs.find? (fun y => y.2.parent == some (src, w 0)) = some (k, j) →
      aget s.jobs k = some j → j.st = .dealing → j.gang = none → inTurn (.pktGang p) (fun s' =>
        ∃ y, aget s'.jobs k = some y ∧ y.undealt = [] ∧ y.cancelled = true ∧ chunksOf s' k j.gen = [])) ∧
    (passes s p 2 18 → turn → rid = e → k = bitsOf (w 0) 0 12 → aget s.jobs k = some j → jobHandle s k j = w 0 →
      (w 1 = 0 → inTurn (.pktGack p) (fun s' => aget s'.jobs k = some { j with
        gang := j.gang.map (fun l => l.map (fun y => if y.pkg = src then { y with acked := true } else y)) })) ∧
      (w 1 ≠ 0 → ∀ ms, j.gang = some ms → (∀ y ∈ ms, y.pkg = src → y.done = false) → inTurn (.pktGack p) (fun s' => ∃ y, aget s'.jobs k = some y ∧
        y.gang = some (ms.map (fun y => if y.pkg = src then { y with acked := true, done := true, ended := (w 2).toNat } else y)) ∧
        ((∃ z ∈ ms, z.pkg ≠ src ∧ z.done = false) → y.st = j.st)))) ∧
    (passes s p 3 20 → 64 ≤ p.payload.length →
      let l := p.payload.take 64
      let ms := elemsOf 2 ((p.payload.drop 64).take (2 * bitsOf (wordAt l 0) 24 7)) 64
      let bad := slotDescOk l = false ∨ mlistOk ms = false ∨ bitsOf (wordAt l 4) 0 16 ≠ 0 ∨ (wordAt l 4 ≠ 0 ∧ hDom (wordAt l 4) ≠ srcDom p.srcid) ∨
        ∀ i < 256, ¬ free (slotOf s i)
      (bad → ∃ q, run (.pktResv p) (fun s' => answers s s' p q 3 23 .reductionSlotUnavailable ∧ s'.slots = s.slots)) ∧
      (¬ bad → k < 256 → free (slotOf s k) → (∀ i < k, ¬ free (slotOf s i)) → ∃ q y, run (.pktResv p) (fun s' =>
        answers s s' p q 3 23 .none ∧ aget s'.slots k = some y ∧ pktWord q 0 = slotHandle s k y ∧ y.used = true ∧ y.complete = false ∧
        y.dom = srcDom p.srcid ∧ y.len = bitsOf (wordAt l 0) 8 13 ∧ y.fmt = bitsOf (wordAt l 0) 3 5 ∧ y.op = bitsOf (wordAt l 0) 0 3 ∧
        y.members = ms.map (fun m => (m, 0)) ∧ y.gen = ((slotOf s k).gen + 1) % 65536))) ∧
    (passes s p 3 21 → s.halves = [] → 1 + (bitsOf (w 1) 0 13 + 31) / 32 < p.len.toNat → run (.pktContrib p) (fun s' =>
      s'.slots = s.slots ∧ s'.out = s.out ∧ ∃ y, s'.halves = [y] ∧ y.rid = p.rid ∧ y.src = p.src ∧ y.srcid = p.srcid)) ∧
    (passes s p 3 21 → admits → s.halves = [] → n ≤ 4064 → p.len.toNat = 1 + (n + 31) / 32 →
      (slot → x.used = true ∨ x.freed = s.cycle + 1 → open_ → (∃ y ∈ grown, y.2 < x.expect) → x.fmt = 5 ∨ x.fmt = 6 → x.op = 0 → n % 4 = 0 → (slotAny x = true → x.acc.length = n) →
        ∃ q, run (.pktContrib p) (fun s' => answers s s' p q 3 23 .none ∧ pktWord q 0 = w 0 ∧ ∃ y, aget s'.slots k = some y ∧ y.members = grown ∧
          y.last = s.cys.now ∧ y.first = (if slotAny x then x.first else s.cys.now) ∧ y.complete = false ∧
          ∀ i, 4 * i < n → elem y.acc i = (if slotAny x then (elem x.acc i + elem data i) % 2 ^ 32 else elem data i))) ∧
      (slotGet s (w 0) = none ∨ slot ∧ ¬ (x.complete = false ∧ n = x.len ∧ (∃ y ∈ x.members, y.1 = src ∧ y.2 < x.expect) ∧
          s.cys.now < x.time + 1000 * x.timeout) →
        ∃ q, run (.pktContrib p) (fun s' => answers s s' p q 3 23 .reductionSlotUnavailable ∧ s'.slots = s.slots))) ∧
    (passes s p 3 22 →
      (slot → x.used = true → x.dom = srcDom p.srcid → ∃ q, run (.pktRrel p) (fun s' => answers s s' p q 3 23 .none ∧
        slotOf s' k = { x with used := false, freed := s.cycle + 1 })) ∧
      (slotFind s (w 0) (srcDom p.srcid) = none → ∃ q, run (.pktRrel p) (fun s' => answers s s' p q 3 23 .reductionSlotUnavailable ∧ s'.slots = s.slots))) ∧
    (passes s p 3 23 → ∀ q cp, reqOf s p = some q → (pathOf s q.gpn).holding = [] → (∀ y ∈ s.reqs, y.uid = q.uid → y = q) → q.strm < 64 →
      copyOf s q.core q.strm q.num = some cp → (∀ y ∈ cp.fails, ¬ (y.1 = q.member ∧ y.2.1 = q.block)) →
      run (.pktRans p) (fun s' => (∀ y ∈ s'.reqs, y.uid ≠ q.uid) ∧ ∃ y, copyOf s' q.core q.strm q.num = some y ∧
        (p.cause = 0 → y.got = cp.got ++ [⟨q.member, q.block, q.piece, true, []⟩] ∧ y.fails = cp.fails) ∧
        (p.cause ≠ 0 → y.fails = cp.fails ++ [(q.member, q.block, .reductionSlotUnavailable)]))) ∧
    (passes s p 4 28 → w 0 = 0 → ∃ q, run (.pktTime p) (fun s' => sent s s' q src 4 28 .none ∧ pktWord q 0 = 1 ∧ pktWord q 1 = w 1 ∧
      pktWord q 2 = BitVec.ofNat 64 s.cys.now ∧ pktWord q 3 = BitVec.ofNat 64 s.cys.now)) ∧
    (passes s p 4 28 → w 0 ≠ 0 → s.cys.t1 = some (src, t) → w 1 = BitVec.ofNat 64 t → t < 2 ^ 64 → s.cys.ref = false → s.cys.locked = false →
      run (.pktTime p) (fun s' => s'.cys.last = off ∧ s'.cys.lastExchange = s.cys.now ∧ s'.cys.t1 = none ∧
        s'.cys.now = (if 0 < off ∧ s.cys.ever = false then s.cys.now + (s.cys.frac + 3500 * off.toNat) / 7000 else s.cys.now) ∧
        (s'.cys.locked = true ↔ ∃ a b rest, s.cys.offsets = a :: b :: rest ∧ off.natAbs ≤ 20 ∧ a.natAbs ≤ 20 ∧ b.natAbs ≤ 20))) ∧
    (passes s p 4 29 → exec (.pktMgmt p) s = .next s)

/-- R150, R151, R354, R360, R362, R364, R374, R380, R384: the time limits of the fabric and of translation. A miss unanswered for 10 ms is answered as
absent, a lookup unanswered for 100 µs fails what waits on it, a held request is reported after 1 ms, a stub is HELD after 10 ms in
RELAY and is freed after 50 µs in QUIET; messages go again after 30 µs and are given up after 1 ms; a dead link fails its
requests; a reduction that is late completes with what it has. That the report of a HELD stub is its event record is log 60; that of the
sources which use an id the one that sent longest ago sends again is log 67. -/
def Obligations.FabricEvents : Prop :=
  ∀ (s : State) (die clus : Nat) (m : Miss) (tok : BitVec 32) (gpn : BitVec 48) (g : Nat) (mg : Migration) (x : Stub) (pkg : BitVec 12) (rid : BitVec 16)
    (q : Req) (cp : Copy) (sl : Slot) (pre post : List VcPacket) (pt : Packet × Nat × Bool) (at_ : Nat),
    let run (i : Instr) (P : State → Prop) : Prop := ∃ s', exec i s = .next s' ∧ P s'
    let cl := getClus s die clus
    let t := s.cys.now
    let k := pkg.toNat
    let v := vcOf s k
    let again (p : Packet) : Packet := { p with rt := 1, born := BitVec.ofNat 12 (t / 1024) }
    let h := slotHandle s g sl
    g = gpn.toNat →
    (cl.misses.find? (fun y => y.token == tok) = some m → m.time + 10000000 ≤ t → run (.tlbMissTimeout die clus tok) (fun s' =>
      s'.mem = s.mem ∧ (getClus s' die clus).misses = cl.misses.filter (fun y => y.token ≠ tok) ∧ s'.evseq = s.evseq + 1 ∧
      ∀ r u, getStrand s r = some u → (u.status = .waiting (.miss tok) → getStrand s' r = some { u with status := .ready, since := s.cycle, readyAt := s.cycle, absent := m.vunit :: u.absent }) ∧
        (u.status ≠ .waiting (.miss tok) → getStrand s' r = some u))) ∧
    (cl.misses.find? (fun y => y.token == tok) = some m → t < m.time + 10000000 → exec (.tlbMissTimeout die clus tok) s = .next s) ∧
    (s.migs.find? (fun y => !y.pulling && y.gpn == g) = some mg → mg.queue = [pt] → pt.2.2 = false → pt.2.1 + 1000000 ≤ t →
      run (.frozenPageTimeout gpn) (fun s' => (getDom s' (srcDom pt.1.srcid)).repseq = (getDom s (srcDom pt.1.srcid)).repseq + 1 ∧
        ∃ y ∈ s'.migs, y.gpn = g ∧ y.pulling = false ∧ y.queue = [(pt.1, pt.2.1, true)])) ∧
    (aget s.lookups g = some at_ → at_ + 100000 ≤ t → s.migs = [] → s.reqs = [q] → q.gpn = g → q.dst = none → q.strm < 64 →
      (pathOf s g).holding = [q.uid] → copyOf s q.core q.strm q.num = some cp → (∀ y ∈ cp.fails, ¬ (y.1 = q.member ∧ y.2.1 = q.block)) →
      run (.ownerLookupTimeout gpn) (fun s' => s'.reqs = [] ∧ (∀ l ∈ s'.lookups, l.1 ≠ g) ∧ ∃ y, copyOf s' q.core q.strm q.num = some y ∧
        y.fails = cp.fails ++ [(q.member, q.block, .ownerLookupFailed)])) ∧
    (s.stubs.find? (fun y => y.gpn == g) = some x → x.st = .relay → x.pending ≠ [] → x.born + 10000000 ≤ t → run (.stubHeldTimeout gpn) (fun s' =>
      s'.stubs = s.stubs.map (fun y => if y.gpn = g then { y with st := .held, since := t } else y) ∧ s'.evseq = s.evseq + 1)) ∧
    (exec (.stubQuietExpiry gpn) s = .next { s with stubs := s.stubs.filter (fun y => ¬ (y.gpn = g ∧ y.st = .quiet ∧ y.since + 50000 ≤ t)) }) ∧
    (run (.linkDead pkg) (fun s' => k ∈ s'.deadLinks ∧ (∀ y ∈ s'.reqs, y.dst ≠ some k) ∧ ((∀ y ∈ s.reqs, y.strm ≠ 66) → s'.mem = s.mem))) ∧
    (v.unacked = pre ++ post → post ≠ [] → (∀ y ∈ pre, t < y.last + 30000) → (∀ y, post.head? = some y → y.last + 30000 ≤ t) →
      run (.messageRetransmit pkg) (fun s' => s'.out = s.out ++ post.map (fun y => again y.p) ∧
        (vcOf s' k).unacked = pre ++ post.map (fun y => { y with p := again y.p, last := t }))) ∧
    (k ∉ s.deadLinks → (∃ y ∈ v.unacked, y.first + 1000000 ≤ t) → v.waiting = [] → run (.messageGiveUp pkg) (fun s' =>
      (vcOf s' k).unacked = [] ∧ (vcOf s' k).synced = false ∧ (∀ y f, v.unacked = [y] → y.p.type = 16 → s.away.find? (fun z => z.id == y.id) = some f →
        s'.away = s.away.filter (fun z => z.id ≠ y.id) ∧ (f.rep = false → (getDom s' f.dom).repseq = (getDom s f.dom).repseq + 1)))) ∧
    (q ∈ s.reqs → q.p.type = 2 → q.dst = some k → q.rid = rid.toNat → (∀ y ∈ s.reqs, y.uid = q.uid → y = q) →
      (∀ y ∈ s.reqs, y.p.type = 2 → y.dst = some k → y.rid = rid.toNat → y = q ∨ q.last < y.last) →
      exec (.remoteAtomicRetransmit pkg rid) s = .next { s with
        reqs := s.reqs.map (fun y => if y = q then { q with p := again q.p, last := t } else y), out := s.out ++ [again q.p] }) ∧
    (aget s.slots g = some sl → sl.used = true → sl.complete = false → sl.time + 1000 * sl.timeout ≤ t → sl.result = 0 ∨ slotAny sl = false → sl.rch ≠ 0 →
      run (.reductionTimeout g) (fun s' => aget s'.slots g =
        some { sl with complete := true, late := true, closed := t, ending := false, left := [], broken := false } ∧ s'.mem = s.mem ∧ ∃ f, s'.flight = s.flight ++ [f] ∧
        f.m.handle = sl.rch ∧ f.dom = sl.dom ∧ f.m.payload = payload4 (BitVec.ofNat 64 (h.toNat / 128 * 128 + causeCode .reductionTimeout))
          (BitVec.ofNat 64 (slotMissing sl)) (BitVec.ofNat 64 sl.first) (BitVec.ofNat 64 sl.last))) ∧
    (aget s.slots g = some sl → sl.ending = false → t < sl.time + 1000 * sl.timeout → exec (.reductionTimeout g) s = .next s)

/-! The platform and the host. -/

namespace Sys2Proof.Says

/-- The reply that the mailbox holds (R400): status, opcode and result, with the done bit. -/
def replies (s' : State) (status op : Nat) (result : Word) : Prop :=
  s'.mboxBusy = false ∧ s'.mboxRep.extractLsb' 0 64 = BitVec.ofNat 64 (op * 65536 + status) ∧ s'.mboxRep.extractLsb' 64 64 = result ∧
  s'.mboxRep.getLsbD 511 = true

end Sys2Proof.Says

/-- R10, R393 to R397, R399, R400: power-on boots a good image stage by stage up to stage 7 with Duiker's strand at the body, a bad one halts the
boot at the failing stage with its CAUSE, and a network failure is retried after 10 s; without power no state is kept; each mailbox request
has its effect and its reply, and one that breaks a rule is refused; a RESTART is answered, and then the boot starts again.
The fuses and the firmware entry are open values, and each stage is a step (log 5); what a restart keeps is log 21, the word of a sensor
request log 23. -/
def Obligations.BootAndMailbox : Prop :=
  ∀ (s : State) (net : BootInput) (l : List Byte) (req : BitVec 512) (i : Instr) (n : Nat) (rest : List Act),
    let run (i : Instr) (P : State → Prop) : Prop := ∃ s', exec i s = .next s' ∧ P s'
    let off := s.powered = false
    let again (s' : State) : Prop := s'.boot.cause = 1 ∧ s'.boot.got = none ∧ s'.boot.next = s'.cys.now + 10000000000
    let tries (i : Instr) : Prop :=
      (net.lease = false ∨ net.url = false → run i (fun s' => s'.boot.stage = 1 ∧ s'.powered = true ∧ s'.boot.blown = s.boot.blown ∧ again s')) ∧
      (net.lease = true → net.url = true → run i (fun s' => s'.boot.stage = 2 ∧ s'.boot.cause = 0 ∧ s'.boot.got = some net ∧
        s'.powered = true ∧ s'.boot.blown = s.boot.blown))
    let next (P : State → Prop) : Prop := ∃ s', step s = .next s' ∧ s'.agenda = rest ∧ s'.mem = s.mem ∧ P s'
    let halts (n c : Nat) : Prop := next (fun s' => s'.boot = { s.boot with stage := n, cause := c, halted := true } ∧ s'.cores = s.cores)
    let goes (n : Nat) : Prop := next (fun s' => s'.boot = { s.boot with stage := n } ∧ s'.cores = s.cores)
    let len := (wordAt l 2).toNat
    let signed := l.take (512 + len)
    let fused := sha384 ((l.drop 24).take 384) = Config.rsaFuse ∧ sha384 ((l.drop 408).take 48) = Config.slhFuse
    let fresh := Config.fuses.toNat + s.boot.blown ≤ bitsOf (wordAt l 1) 0 6
    let w (k : Nat) : Word := req.extractLsb' (64 * k) 64
    let op := bitsOf (w 0) 0 8
    let asks (i : Instr) : Prop := i ∈ [Instr.mailboxRestart req, .mailboxManagementRequest req, .mailboxDebugHalt req, .mailboxDeclareDead req,
      .mailboxReadSensor req, .mailboxRequestRefused req]
    let arg := w 1
    let haltOk := bitsOf arg 52 12 = s.pkg ∧ arg &&& 0x000000000F3FFFFF = 0 ∧ bitsOf arg 46 4 ≤ 9 ∧ arg.getLsbD 22 = true
    let dead := bitsOf (w 0) 8 12
    (off → tries (.powerOn net)) ∧
    (s.powered = true → s.boot.stage ≤ 2 → s.boot.halted = false → s.boot.got = none → s.boot.next ≤ s.cys.now → tries (.bootRetry net)) ∧
    (s.powered = true → s.boot.halted = false → s.boot.again = false → s.agenda = .boot :: rest →
      (s.boot.stage = 2 → s.boot.got = some net → net.image = none ∨ net.image = some l ∧ 2 ^ 24 < l.length → next (fun s' => s'.boot.stage = 2 ∧ again s')) ∧
      (s.boot.stage = 2 → s.boot.got = some net → net.image = some l → l.length ≤ 2 ^ 24 → next (fun s' =>
        s'.boot = { s.boot with stage := 3, image := l, svn := bitsOf (wordAt l 1) 0 6, got := none })) ∧
      (s.boot.image = l →
        (s.boot.stage = 3 → (imageLayoutOk l = false → halts 3 2) ∧ (imageLayoutOk l = true → ¬ fused → halts 3 6) ∧ (imageLayoutOk l = true → fused → goes 4)) ∧
        (s.boot.stage = 4 → (rsaPssOk ((l.drop 24).take 384) signed ((l.drop (512 + len)).take 384) = false → halts 4 3) ∧
          (rsaPssOk ((l.drop 24).take 384) signed ((l.drop (512 + len)).take 384) = true → goes 5)) ∧
        (s.boot.stage = 5 → (slhDsaOk ((l.drop 408).take 48) signed ((l.drop (896 + len)).take 16224) = false → halts 5 4) ∧
          (slhDsaOk ((l.drop 408).take 48) signed ((l.drop (896 + len)).take 16224) = true → goes 6)) ∧
        (s.boot.stage = 6 → (¬ fresh → halts 6 5) ∧ (fresh → next (fun s' => s'.boot = { s.boot with stage := 7 } ∧
          ∃ u, getStrand s' ⟨duikerId, 0⟩ = some u ∧ u.priv = .h ∧ u.pc = Config.firmwareEntry ∧ u.status = .ready))))) ∧
    (s.powered = true → s.boot.again = true → s.agenda = .boot :: rest → next (fun s' => s'.mboxRep = 0 ∧ s'.cores = [] ∧ s'.boot.stage = 1 ∧
      s'.boot.cause = 0 ∧ s'.boot.again = false ∧ s'.access = [] ∧ s'.flight = [] ∧ s'.cys = s.cys)) ∧
    (s.powered = true → s.cys.now < s.boot.next → exec (.bootRetry net) s = .next s) ∧
    (run .powerRemoval (fun s' => s'.powered = false ∧ s'.cores = [] ∧ s'.mem = [] ∧ s'.flight = [] ∧ s'.cys = State.reset.cys ∧
      s'.boot.blown = s.boot.blown)) ∧
    (asks i → s.powered = true → s.mboxBusy = false → s.boot.again = false →
      (op = 1 → run i (fun s' => replies s' 0 1 0 ∧ s'.boot = { s.boot with again := true } ∧ s'.mem = s.mem ∧ s'.cores = s.cores)) ∧
      (s.boot.halted = true → op ≠ 1 → run i (fun s' => replies s' 0x8028 op 0 ∧ s'.cores = s.cores ∧ s'.mem = s.mem)) ∧
      (s.boot.halted = false →
        (op = 2 → run i (fun s' => replies s' 0 2 0 ∧ reported s s' (bitsOf (w 0) 8 8) (duikerSid s) .managementRequest arg)) ∧
        (op = 3 → haltOk → run i (fun s' => replies s' 0 3 (preemptAct s arg).1 ∧ s'.cores = (preemptAct s arg).2.cores ∧ s'.mem = s.mem)) ∧
        (op = 3 → ¬ haltOk → run i (fun s' => replies s' 0x8028 3 0 ∧ s'.cores = s.cores)) ∧
        (op = 4 → dead ≠ s.pkg → run i (fun s' => replies s' 0 4 0 ∧ dead ∈ s'.deadPkgs ∧ ∀ x ∈ s'.stubs, dead ∉ x.pending)) ∧
        (op = 4 → dead = s.pkg → run i (fun s' => replies s' 0x8028 4 0 ∧ s'.deadPkgs = s.deadPkgs)) ∧
        (op = 5 → n = bitsOf arg 0 16 → n ≤ 335 → s.sensors.length = 336 → ∃ v : Word, run i (fun s' => replies s' 0 5 v) ∧
          v.setWidth 32 = (s.sensors[n]?).getD 0 ∧ bitsOf v 56 8 = (if n < 256 then 1 else if n % 2 = 0 then 2 else 3) ∧
          bitsOf v 32 16 = min ((s.cys.now - s.sensorTime) / 1000) 0xFFFF) ∧
        (op = 5 → 335 < bitsOf arg 0 16 → run i (fun s' => replies s' 0x8028 5 0)) ∧
        (op = 0 ∨ 5 < op → run i (fun s' => replies s' 0x8028 op 0 ∧ s'.cores = s.cores)))) ∧
    (asks i → s.powered = true → s.mboxBusy = true → s.mboxReq ≠ req → run i (fun s' =>
      s' = { s with evlog := s'.evlog, evseq := s.evseq + 1 })) ∧
    (asks i → s.powered = false → exec i s = .next s)

/-- R80, R83, R134, R326, R386, R387, R389, R390, R392, R398, R402, R403: the host's reads and writes of the memory window, its doorbell, the time
exchange and the loss of its lock, the sensors with their limits, the bubbles, and the errors that the platform meets. How far a
bubble ratio is raised is open (log 18); a ratio that a hot sensor forces stays until a sample shows the cluster cooler (log 62). -/
def Obligations.PlatformEvents : Prop :=
  ∀ (s : State) (off n : Nat) (data : List Byte) (dom : Nat) (v unit : Word) (parent : BitVec 12) (rs : List (BitVec 32)) (c : CoreId) (line : Nat),
    let run (i : Instr) (P : State → Prop) : Prop := ∃ s', exec i s = .next s' ∧ P s'
    let ap := (aget s.bar4ap (off / 2 ^ 30)).getD 0
    let pa := bitsOf ap 30 18 * 2 ^ 30 + off % 2 ^ 30
    let inside (n : Nat) : Prop := off < 2 ^ 36 ∧ off % 2 ^ 30 + n ≤ 2 ^ 30
    let mapped (bit : Nat) : Prop := ap.getLsbD 63 = true ∧ (accessBits s 7 0 (bitsOf ap 0 8)).getLsbD bit = true ∧ s.memBad = [] ∧
      ∀ k < 2 ^ 30, frameExists s (bitsOf ap 30 18 * 2 ^ 30 + k) = true ∧ tierDead s (bitsOf ap 30 18 * 2 ^ 30 + k) = false
    let x := getCore s c
    let slice := s.cys.now / 1000 + 1
    let near (k : Nat) (v : BitVec 32) : Prop := k < 64 ∧ s.sensors[64 * c.die + k]? = some v ∧ 105 * 16 ≤ v.toInt
    let cool := c.kind = .hub ∨ c.kind = .duiker ∨ ∀ k v, ¬ near k v
    let forced := (c.kind = .compute ∨ c.kind = .markhor) ∧ ∃ k v, near k v ∧ Config.sensorCluster (64 * c.die + k) % 10 = c.clus
    s.powered = true →
    (inside n → mapped 0 → s.memPois = [] → run (.hostBar4Read off n) (fun s' => s'.mem = s.mem ∧
      s'.barData = (memBytes s.mem pa n).map (fun b => (b, false)))) ∧
    (inside n → ap.getLsbD 63 = false → run (.hostBar4Read off n) (fun s' => s'.mem = s.mem ∧ s'.barData = List.replicate n (0xFF#8, false))) ∧
    (inside data.length → mapped 1 → Memory.wf s.mem = true → run (.hostBar4Write off data) (fun s' => memBytes s'.mem pa data.length = data ∧
      ∀ b, b < pa ∨ pa + data.length ≤ b → memRead s'.mem b = memRead s.mem b)) ∧
    (inside data.length → ap.getLsbD 63 = true → (accessBits s 7 0 (bitsOf ap 0 8)).getLsbD 1 = false →
      run (.hostBar4Write off data) (fun s' => s'.mem = s.mem)) ∧
    (dom < 256 → s.boot.halted = false → run (.doorbell dom v) (fun s' => reported s s' dom (duikerSid s) .hostSignal v)) ∧
    (s.boot.halted = true → exec (.doorbell dom v) s = .next s) ∧
    (s.cys.ref = false → s.cys.asked + 1000000 ≤ s.cys.now → ∃ q, run (.timeExchange parent) (fun s' =>
      sent s s' q parent.toNat 4 28 .none ∧ pktWord q 0 = 0 ∧ pktWord q 1 = BitVec.ofNat 64 s.cys.now ∧
      s'.cys = { s.cys with t1 := some (parent.toNat, s.cys.now), asked := s.cys.now })) ∧
    (s.cys.ref = true ∨ s.cys.now < s.cys.asked + 1000000 → exec (.timeExchange parent) s = .next s) ∧
    (s.cys.locked = true → s.cys.ref = false → s.cys.lastExchange + 10000000 ≤ s.cys.now → run .timeSyncLost (fun s' => s'.cys.locked = false ∧
      ∀ d ∈ s.cores.filterMap (fun y => y.2.dom), (getDom s' d).repseq = (getDom s d).repseq + 1)) ∧
    (s.cys.locked = false ∨ s.cys.ref = true ∨ s.cys.now < s.cys.lastExchange + 10000000 → exec .timeSyncLost s = .next s) ∧
    (s.sensors = [] ∨ s.sensorTime + 100000 ≤ s.cys.now → rs.length = 336 → run (.sensorSample rs) (fun s' => s'.sensors = rs ∧ s'.sensorTime = s.cys.now ∧
      ((∀ k < 256, ∀ r, rs[k]? = some r → r.toInt < 105 * 16) → s'.cores = s.cores ∧ s'.flight = s.flight) ∧
      (∀ k < 256, ∀ r, rs[k]? = some r → 105 * 16 ≤ r.toInt → ∀ m < 16,
        (getCore s' (computeId (k / 64) (Config.sensorCluster k % 10) m)).bubble = 15 ∧
        (115 * 16 ≤ r.toInt → (getCore s' (computeId (k / 64) (Config.sensorCluster k % 10) m)).failed = true)))) ∧
    (x.bubbleSet ≠ slice → cool → x.bubble ≤ 15 → run (.bubbleRatioUpdate c true) (fun s' => (x.bubble < 15 → x.bubble < (getCore s' c).bubble) ∧
      (getCore s' c).bubble ≤ 15 ∧ (getCore s' c).bubbleSet = slice ∧ s'.mem = s.mem)) ∧
    (x.bubbleSet ≠ slice → cool → exec (.bubbleRatioUpdate c false) s = .next (setCore s c { x with bubble := x.bubble - 1, bubbleSet := slice })) ∧
    (∀ hot, x.bubbleSet = slice ∨ forced → exec (.bubbleRatioUpdate c hot) s = .next s) ∧
    (bitsOf unit 46 4 ≤ 9 → run (.machineCheck unit) (fun s' => ∀ m < 16, ∀ d,
      (getCore s (computeId (bitsOf unit 50 2) (bitsOf unit 46 4) m)).dom = some d → (getDom s' d).repseq = (getDom s d).repseq + 1)) ∧
    (0x8000000000 ≤ 64 * line → frameExists s (64 * line) = true → exec (.cxlReadTimeout line) s = .next { s with memBad := aset s.memBad line false }) ∧
    (c.kind = .hub ∨ c.kind = .duiker → frameExists s (64 * line) = true → tierDead s (64 * line) = false → s.memBad = [] → run (.icacheLineFill c line) (fun s' =>
      s'.mem = s.mem ∧ ∃ l, aget (getCore s' c).icache line = some l ∧ ∀ k < 64, l.extractLsb' (8 * k) 8 = memRead s.mem (64 * line + k))) ∧
    (c.kind = .compute ∨ c.kind = .markhor → frameExists s (64 * line) = true → tierDead s (64 * line) = false → s.memBad = [] → aget (getClus s c.die c.clus).cc line = none →
      run (.icacheLineFill c line) (fun s' => (passedOn s c.die c.clus line = [] → s'.mem = s.mem) ∧ ∃ l, aget (getCore s' c).icache line = some l ∧
        ∀ k < 64, l.extractLsb' (8 * k) 8 = memRead s'.mem (64 * line + k)))

/-! The machine as a whole. -/

/-- R80 to R82, R93, R95, R103, R340: when the line at the pc of the strand whose turn it is stands in the instruction cache, the pc is a
marked start of it and no breakpoint matches, a step decodes the bytes there and runs that instruction, whatever the fetch's
translation filled; one that waits for answers inside an instruction runs it again; an event at the head of the agenda runs as it stands. The order of turns and events is log 1. -/
def Obligations.StepRunsDecoded : Prop :=
  ∀ (s s1 : State) (r : StrandRef) (turn : List StrandRef) (t : Strand) (pa : Nat) (line : Line) (i : Instr) (n : Nat) (rest : List Act) (auto : Bool)
    (e : TlbEntry),
    let s0 : State := { s with turn := turn, cur := r }
    let bytes := leBytes 64 line.toNat
    let off := pa % 64
    let turnOf (st : Status) : Prop := s.turn = r :: turn ∧ (s.agenda = [] ∨ s.agenda = .turn :: rest ∨ s.agenda = .cycle auto :: rest) ∧
      getStrand s r = some t ∧ t.status = st
    let chosen := turnOf .ready
    let again := setStrand s0 r { t with status := .ready }
    let fetched (s1 : State) : Prop := aget (getCore s1 r.core).icache (pa / 64) = some line ∧ t.pc.toNat % 4 = 0 ∧ off ∈ startsFrom bytes 0 16 ∧
      off + lenBytes (fLen (word32At (bytes.drop off) 0)) ≤ 64 ∧ lacksMajor r.core.kind (fMaj (word32At (bytes.drop off) 0)).toNat = false ∧
      (t.skipBp = true ∨ ∀ b ∈ (getDom s1 t.dom).bkpt, b.getLsbD 0 = false ∨ b.toNat / 4 ≠ t.pc.toNat / 4) ∧ decode (bytes.drop off) = .ok (i, n)
    (chosen → fetchXlate s0 r t t.pc = (.at_ pa, s1) → fetched s1 → step s = exec i s1) ∧
    (chosen → t.pc.toNat < 2 ^ 56 → t.pc.toNat / 65536 ∉ t.absent → (getCore s r.core).tlb.find? (tlbHit t.dom (t.pc.toNat / 65536)) = some e →
      e.loc = 0 → e.priv ≤ privNum t.priv → e.x = true → pa = e.frame + (t.pc.toNat - e.vpage * 65536) → frameExists s pa = true → fetched s →
      step s = exec i s0) ∧
    ((∃ g, turnOf (.waiting (.answer g))) ∨ turnOf (.waiting .partition) → fetchXlate again r { t with status := .ready } t.pc = (.at_ pa, s1) →
      fetched s1 → step s = exec i s1) ∧
    (s.agenda = .ev i :: rest → step s = exec i { s with agenda := rest })

/-- R9, R10, R104, R201, R320, R342, R344, R386, R393, R401: after reset nothing has run: the boot stands before stage 1, no
strand exists, every CSR and every entry of the access table and the filter is zero, time is zero, the event log is empty and
its first number is 1. Where the spec names no reset value, the zero is the model's choice (log 3). Memory is in canonical form
after reset: no entry is equal to what an unlisted byte reads as (log 2), and addresses rise. -/
def Obligations.ResetState : Prop :=
  (let s := State.reset
   (∀ r, getStrand s r = none) ∧ (∀ c i d, accessBits s c i d = 0) ∧ (∀ k, (aget s.filter k).getD 0 = 0) ∧ s.boot.stage = 1 ∧ s.boot.cause = 0 ∧
   s.cys.now = 0 ∧ s.cys.locked = false ∧ s.evlog = [] ∧ s.evseq = 1 ∧ s.flight = [] ∧ s.jobs = [] ∧ s.mboxBusy = false ∧
   (∀ d, let x := getDom s d
     x.chtab = 0 ∧ x.trapch = 0 ∧ x.repch = 0 ∧ x.replog = 0 ∧ x.pagerch = 0 ∧ x.lostrep = 0 ∧ x.trarea = 0 ∧ x.imgarea = 0 ∧ x.roothub = 0 ∧
     x.tmcmp = 0 ∧ x.repseq = 0 ∧ (∀ w ∈ x.bkpt, w = 0) ∧ ∀ w ∈ x.wpt, w = 0) ∧
   (∀ c, let x := getCore s c
     x.dom = none ∧ x.strands = [] ∧ x.tagR = 0 ∧ x.tagA = 0 ∧ x.copies = [] ∧ x.dteq = [] ∧ x.kuduq = [] ∧ x.jmu.chans = [] ∧ x.jmu.pats = [] ∧
     ∀ k, (tlOf x k).value = 0 ∧ (tlOf x k).posted = 0 ∧ (tlOf x k).err = false) ∧
   ∀ a, memRead s.mem a = 0) ∧
  (State.reset.memWf = true)

/-- Memory keeps its canonical form: package memory, host memory and every scratchpad, over every step from every state that has
it, whatever the agenda holds. The form is the model's (log 2). -/
def Obligations.MemoryKept : Prop :=
  ∀ s s' : State, s.memWf = true → step s = .next s' → s'.memWf = true

/-- No instruction and no event is refused, in any state; an instruction stops only where the strand whose turn it is does not exist,
or at a page frame beyond the HBM that no memory of the tier backs (R129, R392). -/
def Obligations.NothingRefused : Prop :=
  (∀ (i : Instr) (s : State) (r : Refusal), exec i s ≠ .refused r) ∧ (∀ (s : State) (r : Refusal), step s ≠ .refused r) ∧
  (∀ (i : Instr) (s : State) (f : Fault), exec i s = .fault f → f = .noStrand ∨ ∃ pa, f = .noFrame pa ∧ 0x6000000000 ≤ pa)

/-- R77 to R94: words written out from the encoding tables decode to the instructions that they stand for, with their lengths. -/
def Obligations.DecodeWords : Prop :=
  let reads (w n : Nat) (i : Instr) : Prop := decode (bytesLE 20 w) = .ok (i, n)
  reads 0x000000A0 4 .idle ∧ reads 0x00200064 4 (.csrr 4 0x001) ∧ reads 0x00A08074 4 (.csrw 20 0x101) ∧ reads 0x00040050 4 (.eret 16) ∧
  reads 0x2018440E 4 (.vclt 3 1 2 0 0) ∧ reads 0x24088600 4 (.pand 1 2 3) ∧ reads 0x1A052000 4 (.send 20 16) ∧ reads 0x1AA90020 4 (.chnew 21 4) ∧
  reads 0x0480000058010A00 12 (.amoAdd 0 4 5 0 2 0 1 0)

/-- R78 to R94: for every well-formed instruction, the decoder reads back from the instruction's own words, whatever follows them, the
instruction and its length. Rows that share one encoding read as the first of them (log 18). -/
def Obligations.DecodeEncode : Prop :=
  ∀ (i : Instr) (e : Enc) (rest : List Byte), encode i = some e → i.wf = true → decode (e.bytes ++ rest) = .ok (i.canon, i.len)
end

