-- ==== Sys2Proof/Laws/State.lean ====
section
/-! SUPPORT. What each write of a part of the package leaves alone, one lemma per field, all by `rfl`. -/

namespace Sys2Proof.Machine

variable (s : State)

@[simp] theorem setCore_pkg (c : CoreId) (x : Core) : (setCore s c x).pkg = s.pkg := rfl
@[simp] theorem setCore_powered (c : CoreId) (x : Core) : (setCore s c x).powered = s.powered := rfl
@[simp] theorem setCore_cycle (c : CoreId) (x : Core) : (setCore s c x).cycle = s.cycle := rfl
@[simp] theorem setCore_cys (c : CoreId) (x : Core) : (setCore s c x).cys = s.cys := rfl
@[simp] theorem setCore_mem (c : CoreId) (x : Core) : (setCore s c x).mem = s.mem := rfl
@[simp] theorem setCore_memPois (c : CoreId) (x : Core) : (setCore s c x).memPois = s.memPois := rfl
@[simp] theorem setCore_memBad (c : CoreId) (x : Core) : (setCore s c x).memBad = s.memBad := rfl
@[simp] theorem setCore_hostMem (c : CoreId) (x : Core) : (setCore s c x).hostMem = s.hostMem := rfl
@[simp] theorem setCore_clusters (c : CoreId) (x : Core) : (setCore s c x).clusters = s.clusters := rfl
@[simp] theorem setCore_dies (c : CoreId) (x : Core) : (setCore s c x).dies = s.dies := rfl
@[simp] theorem setCore_pend (c : CoreId) (x : Core) : (setCore s c x).pend = s.pend := rfl
@[simp] theorem setCore_seen (c : CoreId) (x : Core) : (setCore s c x).seen = s.seen := rfl
@[simp] theorem setCore_flight (c : CoreId) (x : Core) : (setCore s c x).flight = s.flight := rfl
@[simp] theorem setCore_away (c : CoreId) (x : Core) : (setCore s c x).away = s.away := rfl
@[simp] theorem setCore_doms (c : CoreId) (x : Core) : (setCore s c x).doms = s.doms := rfl
@[simp] theorem setCore_bar4ap (c : CoreId) (x : Core) : (setCore s c x).bar4ap = s.bar4ap := rfl
@[simp] theorem setCore_access (c : CoreId) (x : Core) : (setCore s c x).access = s.access := rfl
@[simp] theorem setCore_filter (c : CoreId) (x : Core) : (setCore s c x).filter = s.filter := rfl
@[simp] theorem setCore_filterCount (c : CoreId) (x : Core) : (setCore s c x).filterCount = s.filterCount := rfl
@[simp] theorem setCore_jobs (c : CoreId) (x : Core) : (setCore s c x).jobs = s.jobs := rfl
@[simp] theorem setCore_lastJob (c : CoreId) (x : Core) : (setCore s c x).lastJob = s.lastJob := rfl
@[simp] theorem setCore_oc (c : CoreId) (x : Core) : (setCore s c x).oc = s.oc := rfl
@[simp] theorem setCore_dir (c : CoreId) (x : Core) : (setCore s c x).dir = s.dir := rfl
@[simp] theorem setCore_owned (c : CoreId) (x : Core) : (setCore s c x).owned = s.owned := rfl
@[simp] theorem setCore_frames (c : CoreId) (x : Core) : (setCore s c x).frames = s.frames := rfl
@[simp] theorem setCore_migs (c : CoreId) (x : Core) : (setCore s c x).migs = s.migs := rfl
@[simp] theorem setCore_stubs (c : CoreId) (x : Core) : (setCore s c x).stubs = s.stubs := rfl
@[simp] theorem setCore_paths (c : CoreId) (x : Core) : (setCore s c x).paths = s.paths := rfl
@[simp] theorem setCore_reqs (c : CoreId) (x : Core) : (setCore s c x).reqs = s.reqs := rfl
@[simp] theorem setCore_halves (c : CoreId) (x : Core) : (setCore s c x).halves = s.halves := rfl
@[simp] theorem setCore_fab (c : CoreId) (x : Core) : (setCore s c x).fab = s.fab := rfl
@[simp] theorem setCore_rids (c : CoreId) (x : Core) : (setCore s c x).rids = s.rids := rfl
@[simp] theorem setCore_lookups (c : CoreId) (x : Core) : (setCore s c x).lookups = s.lookups := rfl
@[simp] theorem setCore_asked (c : CoreId) (x : Core) : (setCore s c x).asked = s.asked := rfl
@[simp] theorem setCore_relayed (c : CoreId) (x : Core) : (setCore s c x).relayed = s.relayed := rfl
@[simp] theorem setCore_tabAns (c : CoreId) (x : Core) : (setCore s c x).tabAns = s.tabAns := rfl
@[simp] theorem setCore_moves (c : CoreId) (x : Core) : (setCore s c x).moves = s.moves := rfl
@[simp] theorem setCore_cards (c : CoreId) (x : Core) : (setCore s c x).cards = s.cards := rfl
@[simp] theorem setCore_hau (c : CoreId) (x : Core) : (setCore s c x).hau = s.hau := rfl
@[simp] theorem setCore_slots (c : CoreId) (x : Core) : (setCore s c x).slots = s.slots := rfl
@[simp] theorem setCore_vcOut (c : CoreId) (x : Core) : (setCore s c x).vcOut = s.vcOut := rfl
@[simp] theorem setCore_vcIn (c : CoreId) (x : Core) : (setCore s c x).vcIn = s.vcIn := rfl
@[simp] theorem setCore_deadLinks (c : CoreId) (x : Core) : (setCore s c x).deadLinks = s.deadLinks := rfl
@[simp] theorem setCore_out (c : CoreId) (x : Core) : (setCore s c x).out = s.out := rfl
@[simp] theorem setCore_discards (c : CoreId) (x : Core) : (setCore s c x).discards = s.discards := rfl
@[simp] theorem setCore_tickets (c : CoreId) (x : Core) : (setCore s c x).tickets = s.tickets := rfl
@[simp] theorem setCore_evlog (c : CoreId) (x : Core) : (setCore s c x).evlog = s.evlog := rfl
@[simp] theorem setCore_evseq (c : CoreId) (x : Core) : (setCore s c x).evseq = s.evseq := rfl
@[simp] theorem setCore_boot (c : CoreId) (x : Core) : (setCore s c x).boot = s.boot := rfl
@[simp] theorem setCore_mboxReq (c : CoreId) (x : Core) : (setCore s c x).mboxReq = s.mboxReq := rfl
@[simp] theorem setCore_mboxRep (c : CoreId) (x : Core) : (setCore s c x).mboxRep = s.mboxRep := rfl
@[simp] theorem setCore_mboxBusy (c : CoreId) (x : Core) : (setCore s c x).mboxBusy = s.mboxBusy := rfl
@[simp] theorem setCore_sensors (c : CoreId) (x : Core) : (setCore s c x).sensors = s.sensors := rfl
@[simp] theorem setCore_sensorTime (c : CoreId) (x : Core) : (setCore s c x).sensorTime = s.sensorTime := rfl
@[simp] theorem setCore_msix (c : CoreId) (x : Core) : (setCore s c x).msix = s.msix := rfl
@[simp] theorem setCore_deadPkgs (c : CoreId) (x : Core) : (setCore s c x).deadPkgs = s.deadPkgs := rfl
@[simp] theorem setCore_barData (c : CoreId) (x : Core) : (setCore s c x).barData = s.barData := rfl
@[simp] theorem setCore_cxl (c : CoreId) (x : Core) : (setCore s c x).cxl = s.cxl := rfl
@[simp] theorem setCore_cxlFailed (c : CoreId) (x : Core) : (setCore s c x).cxlFailed = s.cxlFailed := rfl
@[simp] theorem setCore_agenda (c : CoreId) (x : Core) : (setCore s c x).agenda = s.agenda := rfl
@[simp] theorem setCore_turn (c : CoreId) (x : Core) : (setCore s c x).turn = s.turn := rfl
@[simp] theorem setCore_cur (c : CoreId) (x : Core) : (setCore s c x).cur = s.cur := rfl
@[simp] theorem setCore_uid (c : CoreId) (x : Core) : (setCore s c x).uid = s.uid := rfl
@[simp] theorem setCore_free (c : CoreId) (x : Core) : (setCore s c x).free = s.free := rfl

@[simp] theorem setClus_pkg (d k : Nat) (x : Cluster) : (setClus s d k x).pkg = s.pkg := rfl
@[simp] theorem setClus_powered (d k : Nat) (x : Cluster) : (setClus s d k x).powered = s.powered := rfl
@[simp] theorem setClus_cycle (d k : Nat) (x : Cluster) : (setClus s d k x).cycle = s.cycle := rfl
@[simp] theorem setClus_cys (d k : Nat) (x : Cluster) : (setClus s d k x).cys = s.cys := rfl
@[simp] theorem setClus_mem (d k : Nat) (x : Cluster) : (setClus s d k x).mem = s.mem := rfl
@[simp] theorem setClus_memPois (d k : Nat) (x : Cluster) : (setClus s d k x).memPois = s.memPois := rfl
@[simp] theorem setClus_memBad (d k : Nat) (x : Cluster) : (setClus s d k x).memBad = s.memBad := rfl
@[simp] theorem setClus_hostMem (d k : Nat) (x : Cluster) : (setClus s d k x).hostMem = s.hostMem := rfl
@[simp] theorem setClus_cores (d k : Nat) (x : Cluster) : (setClus s d k x).cores = s.cores := rfl
@[simp] theorem setClus_dies (d k : Nat) (x : Cluster) : (setClus s d k x).dies = s.dies := rfl
@[simp] theorem setClus_pend (d k : Nat) (x : Cluster) : (setClus s d k x).pend = s.pend := rfl
@[simp] theorem setClus_seen (d k : Nat) (x : Cluster) : (setClus s d k x).seen = s.seen := rfl
@[simp] theorem setClus_flight (d k : Nat) (x : Cluster) : (setClus s d k x).flight = s.flight := rfl
@[simp] theorem setClus_away (d k : Nat) (x : Cluster) : (setClus s d k x).away = s.away := rfl
@[simp] theorem setClus_doms (d k : Nat) (x : Cluster) : (setClus s d k x).doms = s.doms := rfl
@[simp] theorem setClus_bar4ap (d k : Nat) (x : Cluster) : (setClus s d k x).bar4ap = s.bar4ap := rfl
@[simp] theorem setClus_access (d k : Nat) (x : Cluster) : (setClus s d k x).access = s.access := rfl
@[simp] theorem setClus_filter (d k : Nat) (x : Cluster) : (setClus s d k x).filter = s.filter := rfl
@[simp] theorem setClus_filterCount (d k : Nat) (x : Cluster) : (setClus s d k x).filterCount = s.filterCount := rfl
@[simp] theorem setClus_jobs (d k : Nat) (x : Cluster) : (setClus s d k x).jobs = s.jobs := rfl
@[simp] theorem setClus_lastJob (d k : Nat) (x : Cluster) : (setClus s d k x).lastJob = s.lastJob := rfl
@[simp] theorem setClus_oc (d k : Nat) (x : Cluster) : (setClus s d k x).oc = s.oc := rfl
@[simp] theorem setClus_dir (d k : Nat) (x : Cluster) : (setClus s d k x).dir = s.dir := rfl
@[simp] theorem setClus_owned (d k : Nat) (x : Cluster) : (setClus s d k x).owned = s.owned := rfl
@[simp] theorem setClus_frames (d k : Nat) (x : Cluster) : (setClus s d k x).frames = s.frames := rfl
@[simp] theorem setClus_migs (d k : Nat) (x : Cluster) : (setClus s d k x).migs = s.migs := rfl
@[simp] theorem setClus_stubs (d k : Nat) (x : Cluster) : (setClus s d k x).stubs = s.stubs := rfl
@[simp] theorem setClus_paths (d k : Nat) (x : Cluster) : (setClus s d k x).paths = s.paths := rfl
@[simp] theorem setClus_reqs (d k : Nat) (x : Cluster) : (setClus s d k x).reqs = s.reqs := rfl
@[simp] theorem setClus_halves (d k : Nat) (x : Cluster) : (setClus s d k x).halves = s.halves := rfl
@[simp] theorem setClus_fab (d k : Nat) (x : Cluster) : (setClus s d k x).fab = s.fab := rfl
@[simp] theorem setClus_rids (d k : Nat) (x : Cluster) : (setClus s d k x).rids = s.rids := rfl
@[simp] theorem setClus_lookups (d k : Nat) (x : Cluster) : (setClus s d k x).lookups = s.lookups := rfl
@[simp] theorem setClus_asked (d k : Nat) (x : Cluster) : (setClus s d k x).asked = s.asked := rfl
@[simp] theorem setClus_relayed (d k : Nat) (x : Cluster) : (setClus s d k x).relayed = s.relayed := rfl
@[simp] theorem setClus_tabAns (d k : Nat) (x : Cluster) : (setClus s d k x).tabAns = s.tabAns := rfl
@[simp] theorem setClus_moves (d k : Nat) (x : Cluster) : (setClus s d k x).moves = s.moves := rfl
@[simp] theorem setClus_cards (d k : Nat) (x : Cluster) : (setClus s d k x).cards = s.cards := rfl
@[simp] theorem setClus_hau (d k : Nat) (x : Cluster) : (setClus s d k x).hau = s.hau := rfl
@[simp] theorem setClus_slots (d k : Nat) (x : Cluster) : (setClus s d k x).slots = s.slots := rfl
@[simp] theorem setClus_vcOut (d k : Nat) (x : Cluster) : (setClus s d k x).vcOut = s.vcOut := rfl
@[simp] theorem setClus_vcIn (d k : Nat) (x : Cluster) : (setClus s d k x).vcIn = s.vcIn := rfl
@[simp] theorem setClus_deadLinks (d k : Nat) (x : Cluster) : (setClus s d k x).deadLinks = s.deadLinks := rfl
@[simp] theorem setClus_out (d k : Nat) (x : Cluster) : (setClus s d k x).out = s.out := rfl
@[simp] theorem setClus_discards (d k : Nat) (x : Cluster) : (setClus s d k x).discards = s.discards := rfl
@[simp] theorem setClus_tickets (d k : Nat) (x : Cluster) : (setClus s d k x).tickets = s.tickets := rfl
@[simp] theorem setClus_evlog (d k : Nat) (x : Cluster) : (setClus s d k x).evlog = s.evlog := rfl
@[simp] theorem setClus_evseq (d k : Nat) (x : Cluster) : (setClus s d k x).evseq = s.evseq := rfl
@[simp] theorem setClus_boot (d k : Nat) (x : Cluster) : (setClus s d k x).boot = s.boot := rfl
@[simp] theorem setClus_mboxReq (d k : Nat) (x : Cluster) : (setClus s d k x).mboxReq = s.mboxReq := rfl
@[simp] theorem setClus_mboxRep (d k : Nat) (x : Cluster) : (setClus s d k x).mboxRep = s.mboxRep := rfl
@[simp] theorem setClus_mboxBusy (d k : Nat) (x : Cluster) : (setClus s d k x).mboxBusy = s.mboxBusy := rfl
@[simp] theorem setClus_sensors (d k : Nat) (x : Cluster) : (setClus s d k x).sensors = s.sensors := rfl
@[simp] theorem setClus_sensorTime (d k : Nat) (x : Cluster) : (setClus s d k x).sensorTime = s.sensorTime := rfl
@[simp] theorem setClus_msix (d k : Nat) (x : Cluster) : (setClus s d k x).msix = s.msix := rfl
@[simp] theorem setClus_deadPkgs (d k : Nat) (x : Cluster) : (setClus s d k x).deadPkgs = s.deadPkgs := rfl
@[simp] theorem setClus_barData (d k : Nat) (x : Cluster) : (setClus s d k x).barData = s.barData := rfl
@[simp] theorem setClus_cxl (d k : Nat) (x : Cluster) : (setClus s d k x).cxl = s.cxl := rfl
@[simp] theorem setClus_cxlFailed (d k : Nat) (x : Cluster) : (setClus s d k x).cxlFailed = s.cxlFailed := rfl
@[simp] theorem setClus_agenda (d k : Nat) (x : Cluster) : (setClus s d k x).agenda = s.agenda := rfl
@[simp] theorem setClus_turn (d k : Nat) (x : Cluster) : (setClus s d k x).turn = s.turn := rfl
@[simp] theorem setClus_cur (d k : Nat) (x : Cluster) : (setClus s d k x).cur = s.cur := rfl
@[simp] theorem setClus_uid (d k : Nat) (x : Cluster) : (setClus s d k x).uid = s.uid := rfl
@[simp] theorem setClus_free (d k : Nat) (x : Cluster) : (setClus s d k x).free = s.free := rfl

@[simp] theorem setDie_pkg (d : Nat) (x : Die) : (setDie s d x).pkg = s.pkg := rfl
@[simp] theorem setDie_powered (d : Nat) (x : Die) : (setDie s d x).powered = s.powered := rfl
@[simp] theorem setDie_cycle (d : Nat) (x : Die) : (setDie s d x).cycle = s.cycle := rfl
@[simp] theorem setDie_cys (d : Nat) (x : Die) : (setDie s d x).cys = s.cys := rfl
@[simp] theorem setDie_mem (d : Nat) (x : Die) : (setDie s d x).mem = s.mem := rfl
@[simp] theorem setDie_memPois (d : Nat) (x : Die) : (setDie s d x).memPois = s.memPois := rfl
@[simp] theorem setDie_memBad (d : Nat) (x : Die) : (setDie s d x).memBad = s.memBad := rfl
@[simp] theorem setDie_hostMem (d : Nat) (x : Die) : (setDie s d x).hostMem = s.hostMem := rfl
@[simp] theorem setDie_cores (d : Nat) (x : Die) : (setDie s d x).cores = s.cores := rfl
@[simp] theorem setDie_clusters (d : Nat) (x : Die) : (setDie s d x).clusters = s.clusters := rfl
@[simp] theorem setDie_pend (d : Nat) (x : Die) : (setDie s d x).pend = s.pend := rfl
@[simp] theorem setDie_seen (d : Nat) (x : Die) : (setDie s d x).seen = s.seen := rfl
@[simp] theorem setDie_flight (d : Nat) (x : Die) : (setDie s d x).flight = s.flight := rfl
@[simp] theorem setDie_away (d : Nat) (x : Die) : (setDie s d x).away = s.away := rfl
@[simp] theorem setDie_doms (d : Nat) (x : Die) : (setDie s d x).doms = s.doms := rfl
@[simp] theorem setDie_bar4ap (d : Nat) (x : Die) : (setDie s d x).bar4ap = s.bar4ap := rfl
@[simp] theorem setDie_access (d : Nat) (x : Die) : (setDie s d x).access = s.access := rfl
@[simp] theorem setDie_filter (d : Nat) (x : Die) : (setDie s d x).filter = s.filter := rfl
@[simp] theorem setDie_filterCount (d : Nat) (x : Die) : (setDie s d x).filterCount = s.filterCount := rfl
@[simp] theorem setDie_jobs (d : Nat) (x : Die) : (setDie s d x).jobs = s.jobs := rfl
@[simp] theorem setDie_lastJob (d : Nat) (x : Die) : (setDie s d x).lastJob = s.lastJob := rfl
@[simp] theorem setDie_oc (d : Nat) (x : Die) : (setDie s d x).oc = s.oc := rfl
@[simp] theorem setDie_dir (d : Nat) (x : Die) : (setDie s d x).dir = s.dir := rfl
@[simp] theorem setDie_owned (d : Nat) (x : Die) : (setDie s d x).owned = s.owned := rfl
@[simp] theorem setDie_frames (d : Nat) (x : Die) : (setDie s d x).frames = s.frames := rfl
@[simp] theorem setDie_migs (d : Nat) (x : Die) : (setDie s d x).migs = s.migs := rfl
@[simp] theorem setDie_stubs (d : Nat) (x : Die) : (setDie s d x).stubs = s.stubs := rfl
@[simp] theorem setDie_paths (d : Nat) (x : Die) : (setDie s d x).paths = s.paths := rfl
@[simp] theorem setDie_reqs (d : Nat) (x : Die) : (setDie s d x).reqs = s.reqs := rfl
@[simp] theorem setDie_halves (d : Nat) (x : Die) : (setDie s d x).halves = s.halves := rfl
@[simp] theorem setDie_fab (d : Nat) (x : Die) : (setDie s d x).fab = s.fab := rfl
@[simp] theorem setDie_rids (d : Nat) (x : Die) : (setDie s d x).rids = s.rids := rfl
@[simp] theorem setDie_lookups (d : Nat) (x : Die) : (setDie s d x).lookups = s.lookups := rfl
@[simp] theorem setDie_asked (d : Nat) (x : Die) : (setDie s d x).asked = s.asked := rfl
@[simp] theorem setDie_relayed (d : Nat) (x : Die) : (setDie s d x).relayed = s.relayed := rfl
@[simp] theorem setDie_tabAns (d : Nat) (x : Die) : (setDie s d x).tabAns = s.tabAns := rfl
@[simp] theorem setDie_moves (d : Nat) (x : Die) : (setDie s d x).moves = s.moves := rfl
@[simp] theorem setDie_cards (d : Nat) (x : Die) : (setDie s d x).cards = s.cards := rfl
@[simp] theorem setDie_hau (d : Nat) (x : Die) : (setDie s d x).hau = s.hau := rfl
@[simp] theorem setDie_slots (d : Nat) (x : Die) : (setDie s d x).slots = s.slots := rfl
@[simp] theorem setDie_vcOut (d : Nat) (x : Die) : (setDie s d x).vcOut = s.vcOut := rfl
@[simp] theorem setDie_vcIn (d : Nat) (x : Die) : (setDie s d x).vcIn = s.vcIn := rfl
@[simp] theorem setDie_deadLinks (d : Nat) (x : Die) : (setDie s d x).deadLinks = s.deadLinks := rfl
@[simp] theorem setDie_out (d : Nat) (x : Die) : (setDie s d x).out = s.out := rfl
@[simp] theorem setDie_discards (d : Nat) (x : Die) : (setDie s d x).discards = s.discards := rfl
@[simp] theorem setDie_tickets (d : Nat) (x : Die) : (setDie s d x).tickets = s.tickets := rfl
@[simp] theorem setDie_evlog (d : Nat) (x : Die) : (setDie s d x).evlog = s.evlog := rfl
@[simp] theorem setDie_evseq (d : Nat) (x : Die) : (setDie s d x).evseq = s.evseq := rfl
@[simp] theorem setDie_boot (d : Nat) (x : Die) : (setDie s d x).boot = s.boot := rfl
@[simp] theorem setDie_mboxReq (d : Nat) (x : Die) : (setDie s d x).mboxReq = s.mboxReq := rfl
@[simp] theorem setDie_mboxRep (d : Nat) (x : Die) : (setDie s d x).mboxRep = s.mboxRep := rfl
@[simp] theorem setDie_mboxBusy (d : Nat) (x : Die) : (setDie s d x).mboxBusy = s.mboxBusy := rfl
@[simp] theorem setDie_sensors (d : Nat) (x : Die) : (setDie s d x).sensors = s.sensors := rfl
@[simp] theorem setDie_sensorTime (d : Nat) (x : Die) : (setDie s d x).sensorTime = s.sensorTime := rfl
@[simp] theorem setDie_msix (d : Nat) (x : Die) : (setDie s d x).msix = s.msix := rfl
@[simp] theorem setDie_deadPkgs (d : Nat) (x : Die) : (setDie s d x).deadPkgs = s.deadPkgs := rfl
@[simp] theorem setDie_barData (d : Nat) (x : Die) : (setDie s d x).barData = s.barData := rfl
@[simp] theorem setDie_cxl (d : Nat) (x : Die) : (setDie s d x).cxl = s.cxl := rfl
@[simp] theorem setDie_cxlFailed (d : Nat) (x : Die) : (setDie s d x).cxlFailed = s.cxlFailed := rfl
@[simp] theorem setDie_agenda (d : Nat) (x : Die) : (setDie s d x).agenda = s.agenda := rfl
@[simp] theorem setDie_turn (d : Nat) (x : Die) : (setDie s d x).turn = s.turn := rfl
@[simp] theorem setDie_cur (d : Nat) (x : Die) : (setDie s d x).cur = s.cur := rfl
@[simp] theorem setDie_uid (d : Nat) (x : Die) : (setDie s d x).uid = s.uid := rfl
@[simp] theorem setDie_free (d : Nat) (x : Die) : (setDie s d x).free = s.free := rfl

@[simp] theorem setDom_pkg (d : Nat) (x : Dom) : (setDom s d x).pkg = s.pkg := rfl
@[simp] theorem setDom_powered (d : Nat) (x : Dom) : (setDom s d x).powered = s.powered := rfl
@[simp] theorem setDom_cycle (d : Nat) (x : Dom) : (setDom s d x).cycle = s.cycle := rfl
@[simp] theorem setDom_cys (d : Nat) (x : Dom) : (setDom s d x).cys = s.cys := rfl
@[simp] theorem setDom_mem (d : Nat) (x : Dom) : (setDom s d x).mem = s.mem := rfl
@[simp] theorem setDom_memPois (d : Nat) (x : Dom) : (setDom s d x).memPois = s.memPois := rfl
@[simp] theorem setDom_memBad (d : Nat) (x : Dom) : (setDom s d x).memBad = s.memBad := rfl
@[simp] theorem setDom_hostMem (d : Nat) (x : Dom) : (setDom s d x).hostMem = s.hostMem := rfl
@[simp] theorem setDom_cores (d : Nat) (x : Dom) : (setDom s d x).cores = s.cores := rfl
@[simp] theorem setDom_clusters (d : Nat) (x : Dom) : (setDom s d x).clusters = s.clusters := rfl
@[simp] theorem setDom_dies (d : Nat) (x : Dom) : (setDom s d x).dies = s.dies := rfl
@[simp] theorem setDom_pend (d : Nat) (x : Dom) : (setDom s d x).pend = s.pend := rfl
@[simp] theorem setDom_seen (d : Nat) (x : Dom) : (setDom s d x).seen = s.seen := rfl
@[simp] theorem setDom_flight (d : Nat) (x : Dom) : (setDom s d x).flight = s.flight := rfl
@[simp] theorem setDom_away (d : Nat) (x : Dom) : (setDom s d x).away = s.away := rfl
@[simp] theorem setDom_bar4ap (d : Nat) (x : Dom) : (setDom s d x).bar4ap = s.bar4ap := rfl
@[simp] theorem setDom_access (d : Nat) (x : Dom) : (setDom s d x).access = s.access := rfl
@[simp] theorem setDom_filter (d : Nat) (x : Dom) : (setDom s d x).filter = s.filter := rfl
@[simp] theorem setDom_filterCount (d : Nat) (x : Dom) : (setDom s d x).filterCount = s.filterCount := rfl
@[simp] theorem setDom_jobs (d : Nat) (x : Dom) : (setDom s d x).jobs = s.jobs := rfl
@[simp] theorem setDom_lastJob (d : Nat) (x : Dom) : (setDom s d x).lastJob = s.lastJob := rfl
@[simp] theorem setDom_oc (d : Nat) (x : Dom) : (setDom s d x).oc = s.oc := rfl
@[simp] theorem setDom_dir (d : Nat) (x : Dom) : (setDom s d x).dir = s.dir := rfl
@[simp] theorem setDom_owned (d : Nat) (x : Dom) : (setDom s d x).owned = s.owned := rfl
@[simp] theorem setDom_frames (d : Nat) (x : Dom) : (setDom s d x).frames = s.frames := rfl
@[simp] theorem setDom_migs (d : Nat) (x : Dom) : (setDom s d x).migs = s.migs := rfl
@[simp] theorem setDom_stubs (d : Nat) (x : Dom) : (setDom s d x).stubs = s.stubs := rfl
@[simp] theorem setDom_paths (d : Nat) (x : Dom) : (setDom s d x).paths = s.paths := rfl
@[simp] theorem setDom_reqs (d : Nat) (x : Dom) : (setDom s d x).reqs = s.reqs := rfl
@[simp] theorem setDom_halves (d : Nat) (x : Dom) : (setDom s d x).halves = s.halves := rfl
@[simp] theorem setDom_fab (d : Nat) (x : Dom) : (setDom s d x).fab = s.fab := rfl
@[simp] theorem setDom_rids (d : Nat) (x : Dom) : (setDom s d x).rids = s.rids := rfl
@[simp] theorem setDom_lookups (d : Nat) (x : Dom) : (setDom s d x).lookups = s.lookups := rfl
@[simp] theorem setDom_asked (d : Nat) (x : Dom) : (setDom s d x).asked = s.asked := rfl
@[simp] theorem setDom_relayed (d : Nat) (x : Dom) : (setDom s d x).relayed = s.relayed := rfl
@[simp] theorem setDom_tabAns (d : Nat) (x : Dom) : (setDom s d x).tabAns = s.tabAns := rfl
@[simp] theorem setDom_moves (d : Nat) (x : Dom) : (setDom s d x).moves = s.moves := rfl
@[simp] theorem setDom_cards (d : Nat) (x : Dom) : (setDom s d x).cards = s.cards := rfl
@[simp] theorem setDom_hau (d : Nat) (x : Dom) : (setDom s d x).hau = s.hau := rfl
@[simp] theorem setDom_slots (d : Nat) (x : Dom) : (setDom s d x).slots = s.slots := rfl
@[simp] theorem setDom_vcOut (d : Nat) (x : Dom) : (setDom s d x).vcOut = s.vcOut := rfl
@[simp] theorem setDom_vcIn (d : Nat) (x : Dom) : (setDom s d x).vcIn = s.vcIn := rfl
@[simp] theorem setDom_deadLinks (d : Nat) (x : Dom) : (setDom s d x).deadLinks = s.deadLinks := rfl
@[simp] theorem setDom_out (d : Nat) (x : Dom) : (setDom s d x).out = s.out := rfl
@[simp] theorem setDom_discards (d : Nat) (x : Dom) : (setDom s d x).discards = s.discards := rfl
@[simp] theorem setDom_tickets (d : Nat) (x : Dom) : (setDom s d x).tickets = s.tickets := rfl
@[simp] theorem setDom_evlog (d : Nat) (x : Dom) : (setDom s d x).evlog = s.evlog := rfl
@[simp] theorem setDom_evseq (d : Nat) (x : Dom) : (setDom s d x).evseq = s.evseq := rfl
@[simp] theorem setDom_boot (d : Nat) (x : Dom) : (setDom s d x).boot = s.boot := rfl
@[simp] theorem setDom_mboxReq (d : Nat) (x : Dom) : (setDom s d x).mboxReq = s.mboxReq := rfl
@[simp] theorem setDom_mboxRep (d : Nat) (x : Dom) : (setDom s d x).mboxRep = s.mboxRep := rfl
@[simp] theorem setDom_mboxBusy (d : Nat) (x : Dom) : (setDom s d x).mboxBusy = s.mboxBusy := rfl
@[simp] theorem setDom_sensors (d : Nat) (x : Dom) : (setDom s d x).sensors = s.sensors := rfl
@[simp] theorem setDom_sensorTime (d : Nat) (x : Dom) : (setDom s d x).sensorTime = s.sensorTime := rfl
@[simp] theorem setDom_msix (d : Nat) (x : Dom) : (setDom s d x).msix = s.msix := rfl
@[simp] theorem setDom_deadPkgs (d : Nat) (x : Dom) : (setDom s d x).deadPkgs = s.deadPkgs := rfl
@[simp] theorem setDom_barData (d : Nat) (x : Dom) : (setDom s d x).barData = s.barData := rfl
@[simp] theorem setDom_cxl (d : Nat) (x : Dom) : (setDom s d x).cxl = s.cxl := rfl
@[simp] theorem setDom_cxlFailed (d : Nat) (x : Dom) : (setDom s d x).cxlFailed = s.cxlFailed := rfl
@[simp] theorem setDom_agenda (d : Nat) (x : Dom) : (setDom s d x).agenda = s.agenda := rfl
@[simp] theorem setDom_turn (d : Nat) (x : Dom) : (setDom s d x).turn = s.turn := rfl
@[simp] theorem setDom_cur (d : Nat) (x : Dom) : (setDom s d x).cur = s.cur := rfl
@[simp] theorem setDom_uid (d : Nat) (x : Dom) : (setDom s d x).uid = s.uid := rfl
@[simp] theorem setDom_free (d : Nat) (x : Dom) : (setDom s d x).free = s.free := rfl

@[simp] theorem setStrand_pkg (r : StrandRef) (t : Strand) : (setStrand s r t).pkg = s.pkg := rfl
@[simp] theorem setStrand_powered (r : StrandRef) (t : Strand) : (setStrand s r t).powered = s.powered := rfl
@[simp] theorem setStrand_cycle (r : StrandRef) (t : Strand) : (setStrand s r t).cycle = s.cycle := rfl
@[simp] theorem setStrand_cys (r : StrandRef) (t : Strand) : (setStrand s r t).cys = s.cys := rfl
@[simp] theorem setStrand_mem (r : StrandRef) (t : Strand) : (setStrand s r t).mem = s.mem := rfl
@[simp] theorem setStrand_memPois (r : StrandRef) (t : Strand) : (setStrand s r t).memPois = s.memPois := rfl
@[simp] theorem setStrand_memBad (r : StrandRef) (t : Strand) : (setStrand s r t).memBad = s.memBad := rfl
@[simp] theorem setStrand_hostMem (r : StrandRef) (t : Strand) : (setStrand s r t).hostMem = s.hostMem := rfl
@[simp] theorem setStrand_clusters (r : StrandRef) (t : Strand) : (setStrand s r t).clusters = s.clusters := rfl
@[simp] theorem setStrand_dies (r : StrandRef) (t : Strand) : (setStrand s r t).dies = s.dies := rfl
@[simp] theorem setStrand_pend (r : StrandRef) (t : Strand) : (setStrand s r t).pend = s.pend := rfl
@[simp] theorem setStrand_seen (r : StrandRef) (t : Strand) : (setStrand s r t).seen = s.seen := rfl
@[simp] theorem setStrand_flight (r : StrandRef) (t : Strand) : (setStrand s r t).flight = s.flight := rfl
@[simp] theorem setStrand_away (r : StrandRef) (t : Strand) : (setStrand s r t).away = s.away := rfl
@[simp] theorem setStrand_doms (r : StrandRef) (t : Strand) : (setStrand s r t).doms = s.doms := rfl
@[simp] theorem setStrand_bar4ap (r : StrandRef) (t : Strand) : (setStrand s r t).bar4ap = s.bar4ap := rfl
@[simp] theorem setStrand_access (r : StrandRef) (t : Strand) : (setStrand s r t).access = s.access := rfl
@[simp] theorem setStrand_filter (r : StrandRef) (t : Strand) : (setStrand s r t).filter = s.filter := rfl
@[simp] theorem setStrand_filterCount (r : StrandRef) (t : Strand) : (setStrand s r t).filterCount = s.filterCount := rfl
@[simp] theorem setStrand_jobs (r : StrandRef) (t : Strand) : (setStrand s r t).jobs = s.jobs := rfl
@[simp] theorem setStrand_lastJob (r : StrandRef) (t : Strand) : (setStrand s r t).lastJob = s.lastJob := rfl
@[simp] theorem setStrand_oc (r : StrandRef) (t : Strand) : (setStrand s r t).oc = s.oc := rfl
@[simp] theorem setStrand_dir (r : StrandRef) (t : Strand) : (setStrand s r t).dir = s.dir := rfl
@[simp] theorem setStrand_owned (r : StrandRef) (t : Strand) : (setStrand s r t).owned = s.owned := rfl
@[simp] theorem setStrand_frames (r : StrandRef) (t : Strand) : (setStrand s r t).frames = s.frames := rfl
@[simp] theorem setStrand_migs (r : StrandRef) (t : Strand) : (setStrand s r t).migs = s.migs := rfl
@[simp] theorem setStrand_stubs (r : StrandRef) (t : Strand) : (setStrand s r t).stubs = s.stubs := rfl
@[simp] theorem setStrand_paths (r : StrandRef) (t : Strand) : (setStrand s r t).paths = s.paths := rfl
@[simp] theorem setStrand_reqs (r : StrandRef) (t : Strand) : (setStrand s r t).reqs = s.reqs := rfl
@[simp] theorem setStrand_halves (r : StrandRef) (t : Strand) : (setStrand s r t).halves = s.halves := rfl
@[simp] theorem setStrand_fab (r : StrandRef) (t : Strand) : (setStrand s r t).fab = s.fab := rfl
@[simp] theorem setStrand_rids (r : StrandRef) (t : Strand) : (setStrand s r t).rids = s.rids := rfl
@[simp] theorem setStrand_lookups (r : StrandRef) (t : Strand) : (setStrand s r t).lookups = s.lookups := rfl
@[simp] theorem setStrand_asked (r : StrandRef) (t : Strand) : (setStrand s r t).asked = s.asked := rfl
@[simp] theorem setStrand_relayed (r : StrandRef) (t : Strand) : (setStrand s r t).relayed = s.relayed := rfl
@[simp] theorem setStrand_tabAns (r : StrandRef) (t : Strand) : (setStrand s r t).tabAns = s.tabAns := rfl
@[simp] theorem setStrand_moves (r : StrandRef) (t : Strand) : (setStrand s r t).moves = s.moves := rfl
@[simp] theorem setStrand_cards (r : StrandRef) (t : Strand) : (setStrand s r t).cards = s.cards := rfl
@[simp] theorem setStrand_hau (r : StrandRef) (t : Strand) : (setStrand s r t).hau = s.hau := rfl
@[simp] theorem setStrand_slots (r : StrandRef) (t : Strand) : (setStrand s r t).slots = s.slots := rfl
@[simp] theorem setStrand_vcOut (r : StrandRef) (t : Strand) : (setStrand s r t).vcOut = s.vcOut := rfl
@[simp] theorem setStrand_vcIn (r : StrandRef) (t : Strand) : (setStrand s r t).vcIn = s.vcIn := rfl
@[simp] theorem setStrand_deadLinks (r : StrandRef) (t : Strand) : (setStrand s r t).deadLinks = s.deadLinks := rfl
@[simp] theorem setStrand_out (r : StrandRef) (t : Strand) : (setStrand s r t).out = s.out := rfl
@[simp] theorem setStrand_discards (r : StrandRef) (t : Strand) : (setStrand s r t).discards = s.discards := rfl
@[simp] theorem setStrand_tickets (r : StrandRef) (t : Strand) : (setStrand s r t).tickets = s.tickets := rfl
@[simp] theorem setStrand_evlog (r : StrandRef) (t : Strand) : (setStrand s r t).evlog = s.evlog := rfl
@[simp] theorem setStrand_evseq (r : StrandRef) (t : Strand) : (setStrand s r t).evseq = s.evseq := rfl
@[simp] theorem setStrand_boot (r : StrandRef) (t : Strand) : (setStrand s r t).boot = s.boot := rfl
@[simp] theorem setStrand_mboxReq (r : StrandRef) (t : Strand) : (setStrand s r t).mboxReq = s.mboxReq := rfl
@[simp] theorem setStrand_mboxRep (r : StrandRef) (t : Strand) : (setStrand s r t).mboxRep = s.mboxRep := rfl
@[simp] theorem setStrand_mboxBusy (r : StrandRef) (t : Strand) : (setStrand s r t).mboxBusy = s.mboxBusy := rfl
@[simp] theorem setStrand_sensors (r : StrandRef) (t : Strand) : (setStrand s r t).sensors = s.sensors := rfl
@[simp] theorem setStrand_sensorTime (r : StrandRef) (t : Strand) : (setStrand s r t).sensorTime = s.sensorTime := rfl
@[simp] theorem setStrand_msix (r : StrandRef) (t : Strand) : (setStrand s r t).msix = s.msix := rfl
@[simp] theorem setStrand_deadPkgs (r : StrandRef) (t : Strand) : (setStrand s r t).deadPkgs = s.deadPkgs := rfl
@[simp] theorem setStrand_barData (r : StrandRef) (t : Strand) : (setStrand s r t).barData = s.barData := rfl
@[simp] theorem setStrand_cxl (r : StrandRef) (t : Strand) : (setStrand s r t).cxl = s.cxl := rfl
@[simp] theorem setStrand_cxlFailed (r : StrandRef) (t : Strand) : (setStrand s r t).cxlFailed = s.cxlFailed := rfl
@[simp] theorem setStrand_agenda (r : StrandRef) (t : Strand) : (setStrand s r t).agenda = s.agenda := rfl
@[simp] theorem setStrand_turn (r : StrandRef) (t : Strand) : (setStrand s r t).turn = s.turn := rfl
@[simp] theorem setStrand_cur (r : StrandRef) (t : Strand) : (setStrand s r t).cur = s.cur := rfl
@[simp] theorem setStrand_uid (r : StrandRef) (t : Strand) : (setStrand s r t).uid = s.uid := rfl
@[simp] theorem setStrand_free (r : StrandRef) (t : Strand) : (setStrand s r t).free = s.free := rfl

@[simp] theorem updCore_pkg (c : CoreId) (f : Core → Core) : (updCore s c f).pkg = s.pkg := rfl
@[simp] theorem updCore_powered (c : CoreId) (f : Core → Core) : (updCore s c f).powered = s.powered := rfl
@[simp] theorem updCore_cycle (c : CoreId) (f : Core → Core) : (updCore s c f).cycle = s.cycle := rfl
@[simp] theorem updCore_cys (c : CoreId) (f : Core → Core) : (updCore s c f).cys = s.cys := rfl
@[simp] theorem updCore_mem (c : CoreId) (f : Core → Core) : (updCore s c f).mem = s.mem := rfl
@[simp] theorem updCore_memPois (c : CoreId) (f : Core → Core) : (updCore s c f).memPois = s.memPois := rfl
@[simp] theorem updCore_memBad (c : CoreId) (f : Core → Core) : (updCore s c f).memBad = s.memBad := rfl
@[simp] theorem updCore_hostMem (c : CoreId) (f : Core → Core) : (updCore s c f).hostMem = s.hostMem := rfl
@[simp] theorem updCore_clusters (c : CoreId) (f : Core → Core) : (updCore s c f).clusters = s.clusters := rfl
@[simp] theorem updCore_dies (c : CoreId) (f : Core → Core) : (updCore s c f).dies = s.dies := rfl
@[simp] theorem updCore_pend (c : CoreId) (f : Core → Core) : (updCore s c f).pend = s.pend := rfl
@[simp] theorem updCore_seen (c : CoreId) (f : Core → Core) : (updCore s c f).seen = s.seen := rfl
@[simp] theorem updCore_flight (c : CoreId) (f : Core → Core) : (updCore s c f).flight = s.flight := rfl
@[simp] theorem updCore_away (c : CoreId) (f : Core → Core) : (updCore s c f).away = s.away := rfl
@[simp] theorem updCore_doms (c : CoreId) (f : Core → Core) : (updCore s c f).doms = s.doms := rfl
@[simp] theorem updCore_bar4ap (c : CoreId) (f : Core → Core) : (updCore s c f).bar4ap = s.bar4ap := rfl
@[simp] theorem updCore_access (c : CoreId) (f : Core → Core) : (updCore s c f).access = s.access := rfl
@[simp] theorem updCore_filter (c : CoreId) (f : Core → Core) : (updCore s c f).filter = s.filter := rfl
@[simp] theorem updCore_filterCount (c : CoreId) (f : Core → Core) : (updCore s c f).filterCount = s.filterCount := rfl
@[simp] theorem updCore_jobs (c : CoreId) (f : Core → Core) : (updCore s c f).jobs = s.jobs := rfl
@[simp] theorem updCore_lastJob (c : CoreId) (f : Core → Core) : (updCore s c f).lastJob = s.lastJob := rfl
@[simp] theorem updCore_oc (c : CoreId) (f : Core → Core) : (updCore s c f).oc = s.oc := rfl
@[simp] theorem updCore_dir (c : CoreId) (f : Core → Core) : (updCore s c f).dir = s.dir := rfl
@[simp] theorem updCore_owned (c : CoreId) (f : Core → Core) : (updCore s c f).owned = s.owned := rfl
@[simp] theorem updCore_frames (c : CoreId) (f : Core → Core) : (updCore s c f).frames = s.frames := rfl
@[simp] theorem updCore_migs (c : CoreId) (f : Core → Core) : (updCore s c f).migs = s.migs := rfl
@[simp] theorem updCore_stubs (c : CoreId) (f : Core → Core) : (updCore s c f).stubs = s.stubs := rfl
@[simp] theorem updCore_paths (c : CoreId) (f : Core → Core) : (updCore s c f).paths = s.paths := rfl
@[simp] theorem updCore_reqs (c : CoreId) (f : Core → Core) : (updCore s c f).reqs = s.reqs := rfl
@[simp] theorem updCore_halves (c : CoreId) (f : Core → Core) : (updCore s c f).halves = s.halves := rfl
@[simp] theorem updCore_fab (c : CoreId) (f : Core → Core) : (updCore s c f).fab = s.fab := rfl
@[simp] theorem updCore_rids (c : CoreId) (f : Core → Core) : (updCore s c f).rids = s.rids := rfl
@[simp] theorem updCore_lookups (c : CoreId) (f : Core → Core) : (updCore s c f).lookups = s.lookups := rfl
@[simp] theorem updCore_asked (c : CoreId) (f : Core → Core) : (updCore s c f).asked = s.asked := rfl
@[simp] theorem updCore_relayed (c : CoreId) (f : Core → Core) : (updCore s c f).relayed = s.relayed := rfl
@[simp] theorem updCore_tabAns (c : CoreId) (f : Core → Core) : (updCore s c f).tabAns = s.tabAns := rfl
@[simp] theorem updCore_moves (c : CoreId) (f : Core → Core) : (updCore s c f).moves = s.moves := rfl
@[simp] theorem updCore_cards (c : CoreId) (f : Core → Core) : (updCore s c f).cards = s.cards := rfl
@[simp] theorem updCore_hau (c : CoreId) (f : Core → Core) : (updCore s c f).hau = s.hau := rfl
@[simp] theorem updCore_slots (c : CoreId) (f : Core → Core) : (updCore s c f).slots = s.slots := rfl
@[simp] theorem updCore_vcOut (c : CoreId) (f : Core → Core) : (updCore s c f).vcOut = s.vcOut := rfl
@[simp] theorem updCore_vcIn (c : CoreId) (f : Core → Core) : (updCore s c f).vcIn = s.vcIn := rfl
@[simp] theorem updCore_deadLinks (c : CoreId) (f : Core → Core) : (updCore s c f).deadLinks = s.deadLinks := rfl
@[simp] theorem updCore_out (c : CoreId) (f : Core → Core) : (updCore s c f).out = s.out := rfl
@[simp] theorem updCore_discards (c : CoreId) (f : Core → Core) : (updCore s c f).discards = s.discards := rfl
@[simp] theorem updCore_tickets (c : CoreId) (f : Core → Core) : (updCore s c f).tickets = s.tickets := rfl
@[simp] theorem updCore_evlog (c : CoreId) (f : Core → Core) : (updCore s c f).evlog = s.evlog := rfl
@[simp] theorem updCore_evseq (c : CoreId) (f : Core → Core) : (updCore s c f).evseq = s.evseq := rfl
@[simp] theorem updCore_boot (c : CoreId) (f : Core → Core) : (updCore s c f).boot = s.boot := rfl
@[simp] theorem updCore_mboxReq (c : CoreId) (f : Core → Core) : (updCore s c f).mboxReq = s.mboxReq := rfl
@[simp] theorem updCore_mboxRep (c : CoreId) (f : Core → Core) : (updCore s c f).mboxRep = s.mboxRep := rfl
@[simp] theorem updCore_mboxBusy (c : CoreId) (f : Core → Core) : (updCore s c f).mboxBusy = s.mboxBusy := rfl
@[simp] theorem updCore_sensors (c : CoreId) (f : Core → Core) : (updCore s c f).sensors = s.sensors := rfl
@[simp] theorem updCore_sensorTime (c : CoreId) (f : Core → Core) : (updCore s c f).sensorTime = s.sensorTime := rfl
@[simp] theorem updCore_msix (c : CoreId) (f : Core → Core) : (updCore s c f).msix = s.msix := rfl
@[simp] theorem updCore_deadPkgs (c : CoreId) (f : Core → Core) : (updCore s c f).deadPkgs = s.deadPkgs := rfl
@[simp] theorem updCore_barData (c : CoreId) (f : Core → Core) : (updCore s c f).barData = s.barData := rfl
@[simp] theorem updCore_cxl (c : CoreId) (f : Core → Core) : (updCore s c f).cxl = s.cxl := rfl
@[simp] theorem updCore_cxlFailed (c : CoreId) (f : Core → Core) : (updCore s c f).cxlFailed = s.cxlFailed := rfl
@[simp] theorem updCore_agenda (c : CoreId) (f : Core → Core) : (updCore s c f).agenda = s.agenda := rfl
@[simp] theorem updCore_turn (c : CoreId) (f : Core → Core) : (updCore s c f).turn = s.turn := rfl
@[simp] theorem updCore_cur (c : CoreId) (f : Core → Core) : (updCore s c f).cur = s.cur := rfl
@[simp] theorem updCore_uid (c : CoreId) (f : Core → Core) : (updCore s c f).uid = s.uid := rfl
@[simp] theorem updCore_free (c : CoreId) (f : Core → Core) : (updCore s c f).free = s.free := rfl

@[simp] theorem fresh_pkg : (fresh s).2.pkg = s.pkg := rfl
@[simp] theorem fresh_powered : (fresh s).2.powered = s.powered := rfl
@[simp] theorem fresh_cycle : (fresh s).2.cycle = s.cycle := rfl
@[simp] theorem fresh_cys : (fresh s).2.cys = s.cys := rfl
@[simp] theorem fresh_mem : (fresh s).2.mem = s.mem := rfl
@[simp] theorem fresh_memPois : (fresh s).2.memPois = s.memPois := rfl
@[simp] theorem fresh_memBad : (fresh s).2.memBad = s.memBad := rfl
@[simp] theorem fresh_hostMem : (fresh s).2.hostMem = s.hostMem := rfl
@[simp] theorem fresh_cores : (fresh s).2.cores = s.cores := rfl
@[simp] theorem fresh_clusters : (fresh s).2.clusters = s.clusters := rfl
@[simp] theorem fresh_dies : (fresh s).2.dies = s.dies := rfl
@[simp] theorem fresh_pend : (fresh s).2.pend = s.pend := rfl
@[simp] theorem fresh_seen : (fresh s).2.seen = s.seen := rfl
@[simp] theorem fresh_flight : (fresh s).2.flight = s.flight := rfl
@[simp] theorem fresh_away : (fresh s).2.away = s.away := rfl
@[simp] theorem fresh_doms : (fresh s).2.doms = s.doms := rfl
@[simp] theorem fresh_bar4ap : (fresh s).2.bar4ap = s.bar4ap := rfl
@[simp] theorem fresh_access : (fresh s).2.access = s.access := rfl
@[simp] theorem fresh_filter : (fresh s).2.filter = s.filter := rfl
@[simp] theorem fresh_filterCount : (fresh s).2.filterCount = s.filterCount := rfl
@[simp] theorem fresh_jobs : (fresh s).2.jobs = s.jobs := rfl
@[simp] theorem fresh_lastJob : (fresh s).2.lastJob = s.lastJob := rfl
@[simp] theorem fresh_oc : (fresh s).2.oc = s.oc := rfl
@[simp] theorem fresh_dir : (fresh s).2.dir = s.dir := rfl
@[simp] theorem fresh_owned : (fresh s).2.owned = s.owned := rfl
@[simp] theorem fresh_frames : (fresh s).2.frames = s.frames := rfl
@[simp] theorem fresh_migs : (fresh s).2.migs = s.migs := rfl
@[simp] theorem fresh_stubs : (fresh s).2.stubs = s.stubs := rfl
@[simp] theorem fresh_paths : (fresh s).2.paths = s.paths := rfl
@[simp] theorem fresh_reqs : (fresh s).2.reqs = s.reqs := rfl
@[simp] theorem fresh_halves : (fresh s).2.halves = s.halves := rfl
@[simp] theorem fresh_fab : (fresh s).2.fab = s.fab := rfl
@[simp] theorem fresh_rids : (fresh s).2.rids = s.rids := rfl
@[simp] theorem fresh_lookups : (fresh s).2.lookups = s.lookups := rfl
@[simp] theorem fresh_asked : (fresh s).2.asked = s.asked := rfl
@[simp] theorem fresh_relayed : (fresh s).2.relayed = s.relayed := rfl
@[simp] theorem fresh_tabAns : (fresh s).2.tabAns = s.tabAns := rfl
@[simp] theorem fresh_moves : (fresh s).2.moves = s.moves := rfl
@[simp] theorem fresh_cards : (fresh s).2.cards = s.cards := rfl
@[simp] theorem fresh_hau : (fresh s).2.hau = s.hau := rfl
@[simp] theorem fresh_slots : (fresh s).2.slots = s.slots := rfl
@[simp] theorem fresh_vcOut : (fresh s).2.vcOut = s.vcOut := rfl
@[simp] theorem fresh_vcIn : (fresh s).2.vcIn = s.vcIn := rfl
@[simp] theorem fresh_deadLinks : (fresh s).2.deadLinks = s.deadLinks := rfl
@[simp] theorem fresh_out : (fresh s).2.out = s.out := rfl
@[simp] theorem fresh_discards : (fresh s).2.discards = s.discards := rfl
@[simp] theorem fresh_tickets : (fresh s).2.tickets = s.tickets := rfl
@[simp] theorem fresh_evlog : (fresh s).2.evlog = s.evlog := rfl
@[simp] theorem fresh_evseq : (fresh s).2.evseq = s.evseq := rfl
@[simp] theorem fresh_boot : (fresh s).2.boot = s.boot := rfl
@[simp] theorem fresh_mboxReq : (fresh s).2.mboxReq = s.mboxReq := rfl
@[simp] theorem fresh_mboxRep : (fresh s).2.mboxRep = s.mboxRep := rfl
@[simp] theorem fresh_mboxBusy : (fresh s).2.mboxBusy = s.mboxBusy := rfl
@[simp] theorem fresh_sensors : (fresh s).2.sensors = s.sensors := rfl
@[simp] theorem fresh_sensorTime : (fresh s).2.sensorTime = s.sensorTime := rfl
@[simp] theorem fresh_msix : (fresh s).2.msix = s.msix := rfl
@[simp] theorem fresh_deadPkgs : (fresh s).2.deadPkgs = s.deadPkgs := rfl
@[simp] theorem fresh_barData : (fresh s).2.barData = s.barData := rfl
@[simp] theorem fresh_cxl : (fresh s).2.cxl = s.cxl := rfl
@[simp] theorem fresh_cxlFailed : (fresh s).2.cxlFailed = s.cxlFailed := rfl
@[simp] theorem fresh_agenda : (fresh s).2.agenda = s.agenda := rfl
@[simp] theorem fresh_turn : (fresh s).2.turn = s.turn := rfl
@[simp] theorem fresh_cur : (fresh s).2.cur = s.cur := rfl
@[simp] theorem fresh_free : (fresh s).2.free = s.free := rfl
@[simp] theorem fresh_uid : (fresh s).2.uid = s.uid + 1 := rfl
@[simp] theorem fresh_fst : (fresh s).1 = s.uid := rfl

@[simp] theorem logEvent_pkg (w : Word) (c : Cause) (n : Nat) : (logEvent s w c n).pkg = s.pkg := rfl
@[simp] theorem logEvent_powered (w : Word) (c : Cause) (n : Nat) : (logEvent s w c n).powered = s.powered := rfl
@[simp] theorem logEvent_cycle (w : Word) (c : Cause) (n : Nat) : (logEvent s w c n).cycle = s.cycle := rfl
@[simp] theorem logEvent_cys (w : Word) (c : Cause) (n : Nat) : (logEvent s w c n).cys = s.cys := rfl
@[simp] theorem logEvent_mem (w : Word) (c : Cause) (n : Nat) : (logEvent s w c n).mem = s.mem := rfl
@[simp] theorem logEvent_memPois (w : Word) (c : Cause) (n : Nat) : (logEvent s w c n).memPois = s.memPois := rfl
@[simp] theorem logEvent_memBad (w : Word) (c : Cause) (n : Nat) : (logEvent s w c n).memBad = s.memBad := rfl
@[simp] theorem logEvent_hostMem (w : Word) (c : Cause) (n : Nat) : (logEvent s w c n).hostMem = s.hostMem := rfl
@[simp] theorem logEvent_cores (w : Word) (c : Cause) (n : Nat) : (logEvent s w c n).cores = s.cores := rfl
@[simp] theorem logEvent_clusters (w : Word) (c : Cause) (n : Nat) : (logEvent s w c n).clusters = s.clusters := rfl
@[simp] theorem logEvent_dies (w : Word) (c : Cause) (n : Nat) : (logEvent s w c n).dies = s.dies := rfl
@[simp] theorem logEvent_pend (w : Word) (c : Cause) (n : Nat) : (logEvent s w c n).pend = s.pend := rfl
@[simp] theorem logEvent_seen (w : Word) (c : Cause) (n : Nat) : (logEvent s w c n).seen = s.seen := rfl
@[simp] theorem logEvent_flight (w : Word) (c : Cause) (n : Nat) : (logEvent s w c n).flight = s.flight := rfl
@[simp] theorem logEvent_away (w : Word) (c : Cause) (n : Nat) : (logEvent s w c n).away = s.away := rfl
@[simp] theorem logEvent_doms (w : Word) (c : Cause) (n : Nat) : (logEvent s w c n).doms = s.doms := rfl
@[simp] theorem logEvent_bar4ap (w : Word) (c : Cause) (n : Nat) : (logEvent s w c n).bar4ap = s.bar4ap := rfl
@[simp] theorem logEvent_access (w : Word) (c : Cause) (n : Nat) : (logEvent s w c n).access = s.access := rfl
@[simp] theorem logEvent_filter (w : Word) (c : Cause) (n : Nat) : (logEvent s w c n).filter = s.filter := rfl
@[simp] theorem logEvent_filterCount (w : Word) (c : Cause) (n : Nat) : (logEvent s w c n).filterCount = s.filterCount := rfl
@[simp] theorem logEvent_jobs (w : Word) (c : Cause) (n : Nat) : (logEvent s w c n).jobs = s.jobs := rfl
@[simp] theorem logEvent_lastJob (w : Word) (c : Cause) (n : Nat) : (logEvent s w c n).lastJob = s.lastJob := rfl
@[simp] theorem logEvent_oc (w : Word) (c : Cause) (n : Nat) : (logEvent s w c n).oc = s.oc := rfl
@[simp] theorem logEvent_dir (w : Word) (c : Cause) (n : Nat) : (logEvent s w c n).dir = s.dir := rfl
@[simp] theorem logEvent_owned (w : Word) (c : Cause) (n : Nat) : (logEvent s w c n).owned = s.owned := rfl
@[simp] theorem logEvent_frames (w : Word) (c : Cause) (n : Nat) : (logEvent s w c n).frames = s.frames := rfl
@[simp] theorem logEvent_migs (w : Word) (c : Cause) (n : Nat) : (logEvent s w c n).migs = s.migs := rfl
@[simp] theorem logEvent_stubs (w : Word) (c : Cause) (n : Nat) : (logEvent s w c n).stubs = s.stubs := rfl
@[simp] theorem logEvent_paths (w : Word) (c : Cause) (n : Nat) : (logEvent s w c n).paths = s.paths := rfl
@[simp] theorem logEvent_reqs (w : Word) (c : Cause) (n : Nat) : (logEvent s w c n).reqs = s.reqs := rfl
@[simp] theorem logEvent_halves (w : Word) (c : Cause) (n : Nat) : (logEvent s w c n).halves = s.halves := rfl
@[simp] theorem logEvent_fab (w : Word) (c : Cause) (n : Nat) : (logEvent s w c n).fab = s.fab := rfl
@[simp] theorem logEvent_rids (w : Word) (c : Cause) (n : Nat) : (logEvent s w c n).rids = s.rids := rfl
@[simp] theorem logEvent_lookups (w : Word) (c : Cause) (n : Nat) : (logEvent s w c n).lookups = s.lookups := rfl
@[simp] theorem logEvent_asked (w : Word) (c : Cause) (n : Nat) : (logEvent s w c n).asked = s.asked := rfl
@[simp] theorem logEvent_relayed (w : Word) (c : Cause) (n : Nat) : (logEvent s w c n).relayed = s.relayed := rfl
@[simp] theorem logEvent_tabAns (w : Word) (c : Cause) (n : Nat) : (logEvent s w c n).tabAns = s.tabAns := rfl
@[simp] theorem logEvent_moves (w : Word) (c : Cause) (n : Nat) : (logEvent s w c n).moves = s.moves := rfl
@[simp] theorem logEvent_cards (w : Word) (c : Cause) (n : Nat) : (logEvent s w c n).cards = s.cards := rfl
@[simp] theorem logEvent_hau (w : Word) (c : Cause) (n : Nat) : (logEvent s w c n).hau = s.hau := rfl
@[simp] theorem logEvent_slots (w : Word) (c : Cause) (n : Nat) : (logEvent s w c n).slots = s.slots := rfl
@[simp] theorem logEvent_vcOut (w : Word) (c : Cause) (n : Nat) : (logEvent s w c n).vcOut = s.vcOut := rfl
@[simp] theorem logEvent_vcIn (w : Word) (c : Cause) (n : Nat) : (logEvent s w c n).vcIn = s.vcIn := rfl
@[simp] theorem logEvent_deadLinks (w : Word) (c : Cause) (n : Nat) : (logEvent s w c n).deadLinks = s.deadLinks := rfl
@[simp] theorem logEvent_out (w : Word) (c : Cause) (n : Nat) : (logEvent s w c n).out = s.out := rfl
@[simp] theorem logEvent_discards (w : Word) (c : Cause) (n : Nat) : (logEvent s w c n).discards = s.discards := rfl
@[simp] theorem logEvent_tickets (w : Word) (c : Cause) (n : Nat) : (logEvent s w c n).tickets = s.tickets := rfl
@[simp] theorem logEvent_boot (w : Word) (c : Cause) (n : Nat) : (logEvent s w c n).boot = s.boot := rfl
@[simp] theorem logEvent_mboxReq (w : Word) (c : Cause) (n : Nat) : (logEvent s w c n).mboxReq = s.mboxReq := rfl
@[simp] theorem logEvent_mboxRep (w : Word) (c : Cause) (n : Nat) : (logEvent s w c n).mboxRep = s.mboxRep := rfl
@[simp] theorem logEvent_mboxBusy (w : Word) (c : Cause) (n : Nat) : (logEvent s w c n).mboxBusy = s.mboxBusy := rfl
@[simp] theorem logEvent_sensors (w : Word) (c : Cause) (n : Nat) : (logEvent s w c n).sensors = s.sensors := rfl
@[simp] theorem logEvent_sensorTime (w : Word) (c : Cause) (n : Nat) : (logEvent s w c n).sensorTime = s.sensorTime := rfl
@[simp] theorem logEvent_msix (w : Word) (c : Cause) (n : Nat) : (logEvent s w c n).msix = s.msix := rfl
@[simp] theorem logEvent_deadPkgs (w : Word) (c : Cause) (n : Nat) : (logEvent s w c n).deadPkgs = s.deadPkgs := rfl
@[simp] theorem logEvent_barData (w : Word) (c : Cause) (n : Nat) : (logEvent s w c n).barData = s.barData := rfl
@[simp] theorem logEvent_cxl (w : Word) (c : Cause) (n : Nat) : (logEvent s w c n).cxl = s.cxl := rfl
@[simp] theorem logEvent_cxlFailed (w : Word) (c : Cause) (n : Nat) : (logEvent s w c n).cxlFailed = s.cxlFailed := rfl
@[simp] theorem logEvent_agenda (w : Word) (c : Cause) (n : Nat) : (logEvent s w c n).agenda = s.agenda := rfl
@[simp] theorem logEvent_turn (w : Word) (c : Cause) (n : Nat) : (logEvent s w c n).turn = s.turn := rfl
@[simp] theorem logEvent_cur (w : Word) (c : Cause) (n : Nat) : (logEvent s w c n).cur = s.cur := rfl
@[simp] theorem logEvent_uid (w : Word) (c : Cause) (n : Nat) : (logEvent s w c n).uid = s.uid := rfl
@[simp] theorem logEvent_free (w : Word) (c : Cause) (n : Nat) : (logEvent s w c n).free = s.free := rfl
@[simp] theorem logEvent_evseq (w : Word) (c : Cause) (n : Nat) : (logEvent s w c n).evseq = s.evseq + 1 := rfl

end Sys2Proof.Machine
end

