-- ==== Sys2Proof/Laws/Store.lean ====
section
/-! SUPPORT. Laws of the containers: association lists, canonical memory (read after write, canonical form kept), bytes. -/

namespace Sys2Proof.Machine

/-! Association lists. -/

@[simp] theorem aget_nil {α β : Type} [DecidableEq α] (k : α) : aget ([] : List (α × β)) k = none := rfl

@[simp] theorem aget_aset_same {α β : Type} [DecidableEq α] (l : List (α × β)) (k : α) (v : β) :
    aget (aset l k v) k = some v := by
  induction l with
  | nil => simp [aset, aget]
  | cons x t ih => simp only [aset]; split <;> simp_all [aget]

theorem aget_aset_other {α β : Type} [DecidableEq α] (l : List (α × β)) {k j : α} (v : β) (h : j ≠ k) :
    aget (aset l k v) j = aget l j := by
  induction l with
  | nil => simp [aset, aget, Ne.symm h]
  | cons x t ih =>
    simp only [aset]; split
    · subst_vars; simp [aget, Ne.symm h]
    · simp [aget, ih]

@[simp] theorem aset_aset {α β : Type} [DecidableEq α] (l : List (α × β)) (k : α) (v w : β) :
    aset (aset l k v) k w = aset l k w := by
  induction l with
  | nil => simp [aset]
  | cons x t ih => by_cases h : x.1 = k <;> simp [aset, h, ih]

theorem aset_aget_same {α β : Type} [DecidableEq α] (l : List (α × β)) (k : α) (v : β) (h : aget l k = some v) :
    aset l k v = l := by
  induction l with
  | nil => simp at h
  | cons x t ih =>
    simp only [aget] at h; simp only [aset]
    split at h
    · rename_i e; cases h; rw [if_pos e, ← e]
    · rename_i e; rw [if_neg e, ih h]

theorem aget_adel_same {α β : Type} [DecidableEq α] (l : List (α × β)) (k : α) : aget (adel l k) k = none := by
  induction l with
  | nil => rfl
  | cons x t ih => by_cases h : x.1 = k <;> simp_all [adel, List.filter, aget]

theorem aget_adel_other {α β : Type} [DecidableEq α] (l : List (α × β)) {k j : α} (h : j ≠ k) :
    aget (adel l k) j = aget l j := by
  induction l with
  | nil => rfl
  | cons x t ih =>
    by_cases e : x.1 = k
    · simp_all [adel, List.filter, aget, Ne.symm h]
    · by_cases g : x.1 = j <;> simp_all [adel, List.filter, aget]

/-- What holds of every listed value holds after a value with it is set. -/
theorem all_aset {α β : Type} [DecidableEq α] (p : α × β → Bool) (l : List (α × β)) (k : α) (v : β)
    (h : l.all p = true) (hv : p (k, v) = true) : (aset l k v).all p = true := by
  induction l with
  | nil => simp [aset, hv]
  | cons x t ih =>
    simp only [List.all_cons, Bool.and_eq_true] at h
    simp only [aset]; split
    · subst_vars; simp [hv, h.2]
    · simp [h.1, ih h.2]

theorem all_aget {α β : Type} [DecidableEq α] (p : α × β → Bool) (l : List (α × β)) (k : α) (v : β)
    (h : l.all p = true) (hv : aget l k = some v) : p (k, v) = true := by
  induction l with
  | nil => simp at hv
  | cons x t ih =>
    simp only [List.all_cons, Bool.and_eq_true] at h
    simp only [aget] at hv
    split at hv
    · subst_vars; cases hv; exact h.1
    · exact ih h.2 hv

/-! Canonical memory. -/

theorem memWfFrom_mono {lo lo' : Nat} {m : Mem} (h : memWfFrom lo m = true) (hl : lo' ≤ lo) : memWfFrom lo' m = true := by
  cases m with
  | nil => rfl
  | cons x t =>
    simp only [memWfFrom, Bool.and_eq_true, decide_eq_true_eq] at h ⊢
    exact ⟨⟨by omega, h.1.2⟩, h.2⟩

theorem memWrite_wfFrom (m : Mem) (a : Nat) (b : Byte) : ∀ lo, lo ≤ a → memWfFrom lo m = true → memWfFrom lo (memWrite m a b) = true := by
  induction m with
  | nil => intro lo hl _; simp only [memWrite]; split <;> simp_all [memWfFrom]
  | cons x t ih =>
    obtain ⟨k, c⟩ := x
    intro lo hl h
    simp only [memWfFrom, Bool.and_eq_true, decide_eq_true_eq] at h
    simp only [memWrite]
    split
    · rename_i hk
      split
      · simp [memWfFrom, h.1.1, h.1.2, h.2]
      · rename_i hb; simp [memWfFrom, hl, hb, h.1.2, h.2]; omega
    · split
      · rename_i _ hk; subst hk
        split
        · exact memWfFrom_mono h.2 (by omega)
        · rename_i hb; simp [memWfFrom, hl, hb, h.2]
      · rename_i h1 h2
        simp only [memWfFrom, Bool.and_eq_true, decide_eq_true_eq]
        exact ⟨h.1, ih (k + 1) (by omega) h.2⟩

/-- A write keeps the canonical form. -/
theorem memWrite_wf (m : Mem) (a : Nat) (b : Byte) (h : Memory.wf m = true) : Memory.wf (memWrite m a b) = true :=
  memWrite_wfFrom m a b 0 (Nat.zero_le _) h

theorem memStore_wf (l : List Byte) : ∀ (m : Mem) (a : Nat), Memory.wf m = true → Memory.wf (memStore m a l) = true := by
  induction l with
  | nil => intro m a h; exact h
  | cons b t ih => intro m a h; exact ih _ _ (memWrite_wf m a b h)

theorem memStoreSome_wf (l : List (Option Byte)) : ∀ (m : Mem) (a : Nat), Memory.wf m = true → Memory.wf (memStoreSome m a l) = true := by
  induction l with
  | nil => intro m a h; exact h
  | cons b t ih =>
    intro m a h
    cases b with
    | none => exact ih _ _ h
    | some b => exact ih _ _ (memWrite_wf m a b h)

theorem memRead_below (m : Mem) (a : Nat) : ∀ lo, a < lo → memWfFrom lo m = true → memRead m a = 0#8 := by
  induction m with
  | nil => intros; rfl
  | cons x t ih =>
    obtain ⟨k, c⟩ := x
    intro lo hl h
    simp only [memWfFrom, Bool.and_eq_true, decide_eq_true_eq] at h
    simp only [memRead]
    rw [if_neg (by omega)]
    exact ih (k + 1) (by omega) h.2

theorem memRead_memWrite_from (m : Mem) (a c : Nat) (b : Byte) : ∀ lo, memWfFrom lo m = true →
    memRead (memWrite m a b) c = if c = a then b else memRead m c := by
  induction m with
  | nil =>
    intro lo _; simp only [memWrite]
    by_cases hb : b = 0#8
    · simp [hb, memRead]
    · by_cases hc : c = a
      · simp [hb, hc, memRead]
      · simp [hb, hc, Ne.symm hc, memRead]
  | cons x t ih =>
    obtain ⟨k, v⟩ := x
    intro lo h
    simp only [memWfFrom, Bool.and_eq_true, decide_eq_true_eq] at h
    have below : ∀ c, c ≤ k → memRead t c = 0#8 := fun c hc => memRead_below t c (k + 1) (by omega) h.2
    simp only [memWrite]
    split
    · rename_i hk
      split
      · rename_i hb
        by_cases hc : c = a
        · subst hc; simp [memRead, Nat.ne_of_gt hk, below c (by omega), hb]
        · simp [hc]
      · by_cases hc : c = a
        · simp [memRead, hc]
        · simp [memRead, hc, Ne.symm hc]
    · split
      · rename_i _ hk; subst hk
        split
        · rename_i hb
          by_cases hc : c = a
          · subst hc; simp [below c (Nat.le_refl _), hb]
          · simp [memRead, hc, Ne.symm hc]
        · by_cases hc : c = a
          · simp [memRead, hc]
          · simp [memRead, hc, Ne.symm hc]
      · rename_i h1 h2
        simp only [memRead]
        by_cases hkc : k = c
        · have : c ≠ a := by omega
          simp [hkc, this]
        · simp only [if_neg hkc]; exact ih (k + 1) h.2

/-- Read after write: the written byte at its address, every other byte as before. -/
theorem memRead_memWrite (m : Mem) (a c : Nat) (b : Byte) (h : Memory.wf m = true) :
    memRead (memWrite m a b) c = if c = a then b else memRead m c := memRead_memWrite_from m a c b 0 h

theorem memRead_memStore (l : List Byte) : ∀ (m : Mem) (a c : Nat), Memory.wf m = true →
    memRead (memStore m a l) c = if a ≤ c ∧ c < a + l.length then (l[c - a]?).getD 0 else memRead m c := by
  induction l with
  | nil => intro m a c _; simp [memStore]
  | cons b t ih =>
    intro m a c h
    rw [memStore, ih _ _ _ (memWrite_wf m a b h), memRead_memWrite m a c b h]
    simp only [List.length_cons]
    by_cases h1 : a + 1 ≤ c ∧ c < a + 1 + t.length
    · have e : c - a = (c - (a + 1)) + 1 := by omega
      rw [if_pos h1, if_pos (by omega), e, List.getElem?_cons_succ]
    · rw [if_neg h1]
      by_cases h2 : c = a
      · subst h2; simp
      · rw [if_neg h2, if_neg (by omega)]

theorem memRead_memStoreSome (l : List (Option Byte)) : ∀ (m : Mem) (a c : Nat), Memory.wf m = true →
    memRead (memStoreSome m a l) c =
      if a ≤ c ∧ c < a + l.length then (((l[c - a]?).getD none).getD (memRead m c)) else memRead m c := by
  induction l with
  | nil => intro m a c _; simp [memStoreSome]
  | cons b t ih =>
    intro m a c h
    have step : memRead (memStoreSome m a (b :: t)) c =
        if a + 1 ≤ c ∧ c < a + 1 + t.length then (((t[c - (a + 1)]?).getD none).getD (memRead m c))
        else if c = a then b.getD (memRead m c) else memRead m c := by
      cases b with
      | none =>
        rw [memStoreSome, ih _ _ _ h]; split <;> simp
      | some b =>
        rw [memStoreSome, ih _ _ _ (memWrite_wf m a b h), memRead_memWrite m a c b h]
        split
        · rw [if_neg (by omega)]
        · simp
    rw [step]
    simp only [List.length_cons]
    by_cases h1 : a + 1 ≤ c ∧ c < a + 1 + t.length
    · have e : c - a = (c - (a + 1)) + 1 := by omega
      rw [if_pos h1, if_pos (by omega), e, List.getElem?_cons_succ]
    · rw [if_neg h1]
      by_cases h2 : c = a
      · subst h2; simp
      · rw [if_neg h2, if_neg (by omega)]

/-! Bytes. -/

@[simp] theorem memBytes_length (m : Mem) (n : Nat) : ∀ a, (memBytes m a n).length = n := by
  induction n with
  | zero => intro a; rfl
  | succ k ih => intro a; simp [memBytes, ih]

@[simp] theorem leBytes_length (n : Nat) : ∀ x, (leBytes n x).length = n := by
  induction n with
  | zero => intro x; rfl
  | succ k ih => intro x; simp [leBytes, ih]

/-- Little-endian bytes give the value back, modulo their width. -/
theorem leNat_leBytes (n : Nat) : ∀ x, leNat (leBytes n x) = x % 256 ^ n := by
  induction n with
  | zero => intro x; simp [leBytes, leNat, Nat.mod_one]
  | succ k ih =>
    intro x
    have e : 256 ^ (k + 1) = 256 * 256 ^ k := by rw [Nat.pow_succ, Nat.mul_comm]
    rw [leBytes, leNat, ih, BitVec.toNat_ofNat, e, Nat.mod_mul]

@[simp] theorem leWord_word8 (w : Word) : leWord (word8 w) = w := by
  apply BitVec.eq_of_toNat_eq
  simp [leWord, word8, leNat_leBytes]
  omega

end Sys2Proof.Machine
end

