-- ==== Sys2Proof/Laws/Strand.lean ====
section
/-! SUPPORT. Reading a core, a strand, a cluster, a domain or a register after one was written (R13, R19, R102). -/

namespace Sys2Proof.Machine

@[simp] theorem getCore_setCore_same (s : State) (c : CoreId) (x : Core) : getCore (setCore s c x) c = x := by
  simp [getCore, setCore]

theorem getCore_setCore_other (s : State) {c d : CoreId} (x : Core) (h : d ≠ c) : getCore (setCore s c x) d = getCore s d := by
  simp [getCore, setCore, aget_aset_other _ _ h]

@[simp] theorem setCore_setCore (s : State) (c : CoreId) (x y : Core) : setCore (setCore s c x) c y = setCore s c y := by
  simp [setCore]

@[simp] theorem getClus_setClus_same (s : State) (d k : Nat) (x : Cluster) : getClus (setClus s d k x) d k = x := by
  simp [getClus, setClus]

@[simp] theorem getDie_setDie_same (s : State) (d : Nat) (x : Die) : getDie (setDie s d x) d = x := by simp [getDie, setDie]

@[simp] theorem getDom_setDom_same (s : State) (d : Nat) (x : Dom) : getDom (setDom s d x) d = x := by simp [getDom, setDom]

theorem getDom_setDom_other (s : State) {d e : Nat} (x : Dom) (h : e ≠ d) : getDom (setDom s d x) e = getDom s e := by
  simp [getDom, setDom, aget_aset_other _ _ h]

@[simp] theorem getStrand_setStrand_same (s : State) (r : StrandRef) (t : Strand) : getStrand (setStrand s r t) r = some t := by
  simp [getStrand, setStrand]

theorem getStrand_setStrand_other (s : State) {r q : StrandRef} (t : Strand) (h : q ≠ r) :
    getStrand (setStrand s r t) q = getStrand s q := by
  simp only [getStrand, setStrand]
  by_cases hc : q.core = r.core
  · have hs : q.slot ≠ r.slot := by
      intro hs; apply h; cases q; cases r; simp_all
    rw [hc, getCore_setCore_same, aget_aset_other _ _ hs]
  · rw [getCore_setCore_other _ _ hc]

@[simp] theorem setStrand_setStrand (s : State) (r : StrandRef) (t u : Strand) :
    setStrand (setStrand s r t) r u = setStrand s r u := by
  simp [setStrand]

/-- A core's other parts are as before when one of its strands is written. -/
theorem getCore_setStrand_same (s : State) (r : StrandRef) (t : Strand) :
    getCore (setStrand s r t) r.core = { getCore s r.core with strands := aset (getCore s r.core).strands r.slot t } := by
  simp [setStrand]

theorem getCore_setStrand_other (s : State) (r : StrandRef) (t : Strand) {c : CoreId} (h : c ≠ r.core) :
    getCore (setStrand s r t) c = getCore s c := by
  simp only [setStrand]; exact getCore_setCore_other _ _ h

theorem updStrand_some (s : State) (r : StrandRef) (f : Strand → Strand) (t : Strand) (h : getStrand s r = some t) :
    updStrand s r f = setStrand s r (f t) := by
  simp [updStrand, h]

@[simp] theorem updStrand_setStrand (s : State) (r : StrandRef) (f : Strand → Strand) (t : Strand) :
    updStrand (setStrand s r t) r f = setStrand s r (f t) := by
  simp [updStrand]

/-! Registers. -/

@[simp] theorem rd_zero (r : Regs) : rd r 0#5 = 0 := rfl

@[simp] theorem rdP_zero (r : Regs) : rdP r 0#5 = false := rfl

@[simp] theorem wr_zero (r : Regs) (x : Word) (p : Bool) : wr r 0#5 x p = r := rfl

theorem rd_wr_same (r : Regs) (n : BitVec 5) (x : Word) (p : Bool) (h : n ≠ 0) : rd (wr r n x p) n = x := by
  unfold rd wr; rw [if_neg h, if_neg h]; simp

theorem rd_wr_other (r : Regs) (n m : BitVec 5) (x : Word) (p : Bool) (h : m ≠ n) : rd (wr r n x p) m = rd r m := by
  unfold rd wr
  by_cases hm : m = 0
  · rw [if_pos hm, if_pos hm]
  · rw [if_neg hm, if_neg hm]
    by_cases hn : n = 0
    · rw [if_pos hn]
    · have e : n.toNat ≠ m.toNat := fun e => h (BitVec.eq_of_toNat_eq e.symm)
      rw [if_neg hn]; simp [e]

theorem rdP_wr_same (r : Regs) (n : BitVec 5) (x : Word) (p : Bool) (h : n ≠ 0) : rdP (wr r n x p) n = p := by
  have e : n.toNat < 32 := n.isLt
  unfold rdP wr; rw [if_neg h, if_neg h]
  cases p <;> simp [e]

theorem rdP_wr_other (r : Regs) (n m : BitVec 5) (x : Word) (p : Bool) (h : m ≠ n) : rdP (wr r n x p) m = rdP r m := by
  unfold rdP wr
  by_cases hm : m = 0
  · rw [if_pos hm, if_pos hm]
  · rw [if_neg hm, if_neg hm]
    by_cases hn : n = 0
    · rw [if_pos hn]
    · have e : m.toNat ≠ n.toNat := fun e => h (BitVec.eq_of_toNat_eq e)
      have l : m.toNat < 32 := m.isLt
      have f : (1#32 <<< n.toNat).getLsbD m.toNat = false := by
        rw [BitVec.getLsbD_shiftLeft]
        by_cases g : m.toNat < n.toNat
        · simp [g]
        · have : m.toNat - n.toNat ≠ 0 := by omega
          simp [g, BitVec.getLsbD_one, this]
      rw [if_neg hn]
      cases p <;> simp only [if_true, Bool.false_eq_true, if_false, BitVec.getLsbD_or, BitVec.getLsbD_and, BitVec.getLsbD_not, f, l] <;> simp

@[simp] theorem wr_fctl (r : Regs) (n : BitVec 5) (x : Word) (p : Bool) : (wr r n x p).fctl = r.fctl := by
  unfold wr; split <;> rfl

@[simp] theorem wr_p (r : Regs) (n : BitVec 5) (x : Word) (p : Bool) : (wr r n x p).p = r.p := by
  unfold wr; split <;> rfl

@[simp] theorem wr_v (r : Regs) (n : BitVec 5) (x : Word) (p : Bool) : (wr r n x p).v = r.v := by
  unfold wr; split <;> rfl

end Sys2Proof.Machine
end

