-- ==== Sys2Proof/Laws/Issue.lean ====
section
/-! SUPPORT. What the shared parts of an instruction do, said once: the checks before its effect, its completion, a stop
(R93, R97, R98, R101, R139, R323). -/

namespace Sys2Proof.Machine

/-- Windows that were all open before are all counted down. -/
theorem tickWindows_self (l : List Opener) : tickWindows l l = l.map tickOpener := by
  unfold tickWindows
  apply List.map_congr_left
  intro o ho
  rw [if_pos]
  exact List.any_eq_true.mpr ⟨o, ho, by simp⟩

/-- An instruction that keeps the pipe for one cycle leaves the core as it is. -/
theorem occupy_one (s : State) (c : CoreId) (i : Instr) (h : occupancy i ≤ 1) : occupy s c i = s := by simp [occupy, h]

/-- Occupying the pipe and replacing a strand of the core do not disturb each other. -/
theorem occupy_setStrand (s : State) (r : StrandRef) (t u : Strand) (i : Instr) :
    setStrand (occupy (setStrand s r t) r.core i) r u = setStrand (occupy s r.core i) r u := by
  unfold occupy
  split
  · simp
  · simp [setStrand, updCore]

/-- The strand after an instruction that goes on in sequence, outside run-ahead and single step. -/
theorem finish_seq (i : Instr) (s : State) (x : Ctx) (t : Strand) (h : getStrand s x.r = some t)
    (h1 : t.step1 = false) (h2 : t.shadow = none) :
    finish i s x .seq = setStrand (occupy s x.r.core i) x.r { t with
      pc := x.t.pc + BitVec.ofNat 64 x.len, target := false, from_ := some (x.t.pc, x.word0), status := .ready,
      readyAt := s.cycle + spacing i .seq, since := s.cycle + spacing i .seq, skipBp := false,
      openers := tickWindows x.t.openers t.openers, shadow := none, lat := newLat x.t.r i s.cycle t.lat, inside := false,
      saveNow := t.inside && t.preq.isSome && answers i } := by
  simp [finish, h, h1, h2]

/-- The strand after a transfer of control, outside run-ahead and single step. -/
theorem finish_goto (i : Instr) (s : State) (x : Ctx) (t : Strand) (a : Word) (h : getStrand s x.r = some t)
    (h1 : t.step1 = false) (h2 : t.shadow = none) :
    finish i s x (.goto a) = setStrand (occupy s x.r.core i) x.r { t with
      pc := a, target := true, from_ := some (x.t.pc, x.word0), status := .ready,
      readyAt := s.cycle + spacing i (.goto a), since := s.cycle + spacing i (.goto a), skipBp := false,
      openers := tickWindows x.t.openers t.openers, shadow := none, lat := newLat x.t.r i s.cycle t.lat, inside := false,
      saveNow := t.inside && t.preq.isSome && answers i } := by
  simp [finish, h, h1, h2]

theorem finish_stay (i : Instr) (s : State) (x : Ctx) (t : Strand) (h : getStrand s x.r = some t) : finish i s x .stay = s := by
  simp [finish, h]

theorem finish_hold (i : Instr) (s : State) (x : Ctx) (t : Strand) (w : Wait) (h : getStrand s x.r = some t) :
    finish i s x (.hold w) = setStrand s x.r { t with status := .waiting w, inside := true } := by
  simp [finish, h]

/-- An instruction whose strand passes the shared checks, outside run-ahead, is its own effect. -/
theorem issue_body (i : Instr) (s : State) (t : Strand) (body : State → Ctx → Except Stop (State × Next))
    (here : getStrand s s.cur = some t) (sh : t.shadow = none) (open_ : ∀ o ∈ t.openers, o.isOpen = true)
    (cl : (need i).closes = true → t.openers = []) (sf : sharedFault t (need i) = none) :
    issue i s body = (match body s ⟨s.cur, t, i.len, i.word0⟩ with
      | .ok (s', nx) => .next (finish i s' ⟨s.cur, t, i.len, i.word0⟩ nx)
      | .error e => stopped s ⟨s.cur, t, i.len, i.word0⟩ e) := by
  have os : ((if (need i).closes = true then t.openers.map (fun o => { o with isOpen := false }) else t.openers).any
      (fun o => !o.isOpen)) = false := by
    split
    · rename_i h; simp [cl h]
    · simp only [List.any_eq_false, Bool.not_eq_true', Bool.not_eq_false]
      exact fun o ho => open_ o ho
  unfold issue
  simp only [here, os, sf, sh, Bool.false_eq_true, if_false] <;> rfl

/-- An instruction never answers a refusal. -/
theorem stopped_not_refused (s : State) (x : Ctx) (e : Stop) (r : Refusal) : stopped s x e ≠ .refused r := by
  unfold stopped; intro h; split at h <;> (try split at h) <;> cases h

theorem issue_not_refused (i : Instr) (s : State) (body : State → Ctx → Except Stop (State × Next)) (r : Refusal) :
    issue i s body ≠ .refused r := by
  unfold issue
  cases getStrand s s.cur with
  | none => simp
  | some t =>
    dsimp only
    generalize (if (need i).closes then _ else _ : List Opener) = os
    by_cases h1 : os.any (fun o => !o.isOpen) = true
    · rw [if_pos h1]; simp
    · rw [if_neg h1]
      split
      · exact stopped_not_refused _ _ _ _
      · split
        · exact stopped_not_refused _ _ _ _
        · simp
        · split
          · simp
          · exact stopped_not_refused _ _ _ _

/-- The registers of a computing instruction, outside run-ahead and single step. -/
theorem compute_ok (i : Instr) (s : State) (t : Strand) (f : Ctx → Except Stop Regs) (r : Regs)
    (here : getStrand s s.cur = some t) (sh : t.shadow = none) (st : t.step1 = false)
    (open_ : ∀ o ∈ t.openers, o.isOpen = true) (cl : (need i).closes = true → t.openers = [])
    (sf : sharedFault t (need i) = none) (hf : f ⟨s.cur, t, i.len, i.word0⟩ = .ok r) :
    compute i s f = .next (setStrand (occupy s s.cur.core i) s.cur { t with
      r := r, pc := t.pc + BitVec.ofNat 64 i.len, target := false, from_ := some (t.pc, i.word0), status := .ready,
      readyAt := s.cycle + spacing i .seq, since := s.cycle + spacing i .seq, skipBp := false,
      openers := t.openers.map tickOpener, lat := newLat t.r i s.cycle t.lat, inside := false,
      saveNow := t.inside && t.preq.isSome && answers i }) := by
  unfold compute
  rw [issue_body i s t _ here sh open_ cl sf]
  simp only [hf, Except.map]
  rw [finish_seq i _ _ { t with r := r } (by simp [setRegs]) st sh]
  simp [setRegs, tickWindows_self, sh, occupy_setStrand]

end Sys2Proof.Machine
end

