-- ==== Sys2Proof/Machine/Wire.lean ====
section
/-! DEFINITION. Packets as bytes on a Turbery link (R376): the header's bit layout, the trailer of CRC-32C checks, and the flits. The
rows of packets name a packet already read; what its bits mean stands here. -/

namespace Sys2Proof.Machine

/-- One byte taken into a CRC-32C (R376, R389: the Castagnoli polynomial 0x1EDC_6F41; bits reflected, as that name implies, log 17). -/
def crcByte (c : Nat) (b : Byte) : Nat :=
  (List.range 8).foldl (fun c _ => if c % 2 = 1 then c / 2 ^^^ 0x82F63B78 else c / 2) (c ^^^ b.toNat)

/-- The CRC-32C of some bytes. -/
def crc32c (l : List Byte) : Nat := l.foldl crcByte 0xFFFFFFFF ^^^ 0xFFFFFFFF

/-- The 16 bytes of a header (R376). -/
def headBytes (p : Packet) : List Byte :=
  leBytes 8 (p.dst.toNat * 2 ^ 52 + p.src.toNat * 2 ^ 40 + p.vc.toNat * 2 ^ 37 + p.type.toNat * 2 ^ 32 + p.len.toNat * 2 ^ 24 +
    p.rid.toNat * 2 ^ 8 + p.rt.toNat * 2 ^ 7 + p.hops.toNat * 2 ^ 5 + p.rdr.toNat * 2 ^ 4) ++
  leBytes 8 (p.srcid.toNat * 2 ^ 36 + p.born.toNat * 2 ^ 24 + p.cause.toNat * 2 ^ 16)

/-- The lines of a payload: 64 bytes, the last one 64 or 32. -/
def payLines (l : List Byte) : List (List Byte) := (List.range ((l.length + 63) / 64)).map (fun i => (l.drop (64 * i)).take 64)

/-- The trailer (R376): a check for each line, 4 bytes, padded to steps of 32 bytes. The check of a line that leaves poisoned does not
match (R381). -/
def trailerBytes (p : Packet) : List Byte :=
  padStep ((payLines p.payload).zipIdx.flatMap (fun x =>
    leBytes 4 (if p.badLines.contains x.2 then crc32c x.1 ^^^ 0xFFFFFFFF else crc32c x.1)))

/-- The flits that carry a packet: its bytes padded with zeros to 64 (R376). -/
def flitBytes (p : Packet) : List Byte :=
  let l := headBytes p ++ p.payload ++ trailerBytes p
  l ++ List.replicate ((64 - l.length % 64) % 64) 0#8

/-- The packet whose flits begin a list of bytes, with the lines whose check does not match (R376, R381); none while bytes are
missing. -/
def readPacket (port : Nat) (l : List Byte) : Option Packet :=
  let (w0, w1) := (wordAt l 0, wordAt l 1)
  let n := 32 * bitsOf w0 24 8
  let pay := (l.drop 16).take n
  let ls := payLines pay
  let check (i : Nat) : Nat := leNat ((l.drop (16 + n + 4 * i)).take 4)
  if l.length < 16 + n + (4 * ls.length + 31) / 32 * 32 then none
  else some
    { dst := BitVec.ofNat 12 (bitsOf w0 52 12), src := BitVec.ofNat 12 (bitsOf w0 40 12), vc := BitVec.ofNat 3 (bitsOf w0 37 3),
      type := BitVec.ofNat 5 (bitsOf w0 32 5), len := BitVec.ofNat 8 (bitsOf w0 24 8), rid := BitVec.ofNat 16 (bitsOf w0 8 16),
      rt := BitVec.ofNat 1 (bitsOf w0 7 1), hops := BitVec.ofNat 2 (bitsOf w0 5 2), rdr := BitVec.ofNat 1 (bitsOf w0 4 1),
      srcid := BitVec.ofNat 28 (bitsOf w1 36 28), born := BitVec.ofNat 12 (bitsOf w1 24 12), cause := BitVec.ofNat 7 (bitsOf w1 16 7),
      resv := bitsOf w0 0 4 != 0 || bitsOf w1 23 1 != 0 || bitsOf w1 0 16 != 0, payload := pay,
      badLines := (ls.zipIdx.filter (fun x => crc32c x.1 != check x.2)).map (fun x => x.2), port := port }

end Sys2Proof.Machine
end

