-- ==== Sys2Proof/Tests/Bench.lean ====
section
/-! SUPPORT. The small states that the tests run on. -/

namespace Sys2Proof.Tests

set_option Elab.async false

open Sys2Proof.Machine Sys2Proof.Says

/-- A register file: scalar registers by number and value, four vector registers. -/
def regs (l : List (Nat × Nat)) : Regs :=
  l.foldl (fun r x => wr r (BitVec.ofNat 5 x.1) (BitVec.ofNat 64 x.2) false)
    { Regs.zero with v := [⟨0, 5, 0⟩, ⟨0, 5, 0⟩, ⟨0, 12, 0⟩, ⟨0, 12, 0⟩] }

/-- A strand of privilege H in domain 1 with those registers, four tiles and two table slots. -/
def hand (l : List (Nat × Nat)) : Strand :=
  { uid := 1, dom := 1, priv := .h, pc := 0x1000, target := false, from_ := none, r := regs l,
    tiles := List.replicate 4 ⟨0, false, false⟩, tabs := List.replicate 2 ⟨false, 0, 0, false, false, 0, .unbuilt, 0, 0⟩,
    status := .ready, since := 0, readyAt := 0, prio := 0, kind := 0, pat := 0, entry := 0x1000, sbase := 0, sstride := 0,
    serial := false, path := 0, origin := .pattern 0 0, openers := [], shadow := none, floor := 0, step1 := false,
    skipBp := false, preq := none, halt := false, absent := [], ticket := none, noted := false, phase := none }

/-- Slot 0 of the first core. -/
def here : StrandRef := ⟨computeId 0 0 0, 0⟩

/-- The first core, in domain 1, with one strand, whose turn it is. -/
def lab (t : Strand) : State :=
  { State.reset with cores := [(here.core, { Core.reset with dom := some 1, strands := [(0, t)] })], cur := here, uid := 10 }

/-- A local page, open to all, of domain 1. -/
def page (v f : Nat) : TlbEntry := ⟨1, v, 0, v, false, 0, 0, true, true, true, f⟩

/-- Pages 0x20 and 0x21 in the core's L1 TLB, at frames 0x100000 and 0x110000; home slice 0 of die 0 admits the domain. -/
def paged (s : State) : State :=
  { updCore s here.core (fun k => { k with tlb := [page 0x20 0x100000, page 0x21 0x110000] }) with
    access := [((0, 0, 1), 15)] }

/-- The trap area of domain 1: two slots at 0x200000; its trap and report channels. -/
def areas (s : State) : State :=
  setDom s 1 { getDom s 1 with trarea := 0x200001, trapch := 0x10000000000, pagerch := 0x20000000000, repch := 0x30000000000 }

/-- Domain 1's channel table, 1,024 entries in page 0x21, which the table agent of die 0 translates. -/
def tabled (s : State) : State :=
  setClus (setDom s 1 { getDom s 1 with chtab := 0x21000A }) 0 0 { getClus s 0 0 with engTlb := [(2, page 0x21 0x110000)] }

/-- Doublewords written to memory from an address. -/
def poke (s : State) (a : Nat) (l : List Nat) : State := { s with mem := memStore s.mem a (l.flatMap (leBytes 8)) }

/-- The outcome is that next state. -/
def ends (o : Host.Outcome State Fault Refusal) (s : State) : Bool :=
  match o with | .next x => decide (x = s) | _ => false

/-- The instruction is admitted and ends in that next state. -/
def runs (s : State) (t : Strand) (i : Instr) (s' : State) : Bool := decide (Admits s t i) && ends (exec i s) s'

/-- The instruction is admitted and writes that value to that register. -/
def gave (s : State) (t : Strand) (i : Instr) (d : BitVec 5) (v : Word) (gap : Nat := 1) : Bool :=
  runs s t i (goesOn s t i (wr t.r d v false) gap)

/-- The instruction is admitted and raises that cause. -/
def trapped (s : State) (t : Strand) (i : Instr) (c : Cause) (detail daddr : Word) : Bool :=
  runs s t i (raiseTrap s s.cur t (trapReq s c detail daddr t.pc t.pc i.word0))

/-- A computation answered that value. -/
def isOk {ε α : Type} [DecidableEq α] (o : Except ε α) (x : α) : Bool := match o with | .ok y => decide (y = x) | _ => false
theorem isOk_eq {ε α : Type} [DecidableEq α] {o : Except ε α} {x : α} (h : isOk o x = true) : o = .ok x := by
  unfold isOk at h
  split at h
  · exact congrArg _ (of_decide_eq_true h)
  · cases h

/-- What `takesSlot` asks, slot by slot, in a form that computes. -/
def slotAt (s : State) (r : StrandRef) (uid dom base pa k : Nat) : Bool :=
  let d := getDom s dom
  let total := 2 ^ areaLog d.trarea
  let first := match d.lastSlot with | none => 0 | some n => n + 1
  let free (n : Nat) : Prop := bitsOf (leWord (memBytes s.mem (pa + 512 * (n % total)) 8)) 16 2 ≠ 1 ∧ ∀ x ∈ d.kept, x.2 ≠ base + 512 * (n % total)
  decide (areaBase d.trarea = base ∧ base ≠ 0 ∧ pa % 512 = 0 ∧ s.memBad = [] ∧ Memory.wf s.mem = true ∧ k < total) &&
  (decide (aget d.kept uid = some (base + 512 * k)) || decide (aget d.kept uid = none ∧ recBehind s dom uid = false ∧ ∃ j < total, k = (first + j) % total ∧
    free (first + j) ∧ ∀ n < j, ¬ free (first + n))) &&
  decide (∀ n < total, isOk (devXlate s (recAgent r dom) (BitVec.ofNat 64 (base + 512 * n)) .load) (pa + 512 * n, s) = true ∧
    isOk (devXlate s (recAgent r dom) (BitVec.ofNat 64 (base + 512 * n)) .store) (pa + 512 * n, s) = true)

theorem slotAt_takes {s : State} {r : StrandRef} {uid dom base pa k : Nat} (h : slotAt s r uid dom base pa k = true) :
    takesSlot s r uid dom base pa k := by
  simp only [slotAt, Bool.and_eq_true, Bool.or_eq_true, decide_eq_true_eq] at h
  obtain ⟨⟨⟨h1, h2, h3, h4, h5, h6⟩, h7⟩, h8⟩ := h
  exact ⟨h1, h2, h3, h4, h5, h6, h7, fun n hn => ⟨isOk_eq (h8 n hn).1, isOk_eq (h8 n hn).2⟩⟩

/-- A computation answers a value and a state of which that holds. -/
def okThen {ε α : Type} (o : Except ε (α × State)) (f : α → State → Bool) : Bool := match o with | .ok (x, s) => f x s | .error _ => false
theorem okThen_eq {ε α : Type} {o : Except ε (α × State)} {f : α → State → Bool} (h : okThen o f = true) : ∃ x s, o = .ok (x, s) ∧ f x s = true := by
  match o, h with
  | .ok (x, s), h => exact ⟨x, s, rfl, h⟩

/-- The next state has that property. -/
def nextIs (o : Host.Outcome State Fault Refusal) (f : State → Bool) : Bool := match o with | .next s => f s | _ => false

/-- A ready strand waits for no trap slot. -/
theorem ready_not_trapping {t : Strand} (h : t.status = .ready) : ∀ q, t.status ≠ .trapping q := by simp [h]

/-- A domain that talks: pages, areas, a channel table; the home slices of both pages admit it. -/
def talk (t : Strand) : State := { areas (tabled (paged (lab t))) with access := [((0, 0, 1), 15), ((0, 2, 1), 15)], cycle := 50 }

end Sys2Proof.Tests
end

