-- ==== Sys2Proof/Tests/Access.lean ====
section
/-! SUPPORT. Witnesses and tests of the statements on loads, stores, fences and atomics. -/

namespace Sys2Proof.Tests

set_option Elab.async false

open Sys2Proof.Machine Sys2Proof.Says

/-- Addresses in page 0x20 and in the own scratchpad; the last store, atomic and float operands. -/
def tM : Strand := hand [(1, 0x200008), (2, 0xFF00000000000108), (3, 0x1122334455667788), (4, 0xFFFFFFFF), (5, 3), (6, 0xFF10000000000108), (7, 0x40400000)]

/-- Words at both places; cycle 50. -/
def full (t : Strand) : State :=
  let s := updCore (paged (lab t)) here.core (fun k => { k with spad := memStore [] 0x108 (leBytes 8 0x80000005FFFFFFF9) })
  { s with mem := memStore [] 0x100008 (leBytes 8 0x80000005FFFFFFF9), cycle := 50 }
def sM : State := full tM

/-! Places (R122 to R128, R133). -/

/-- The outcome is that trap. -/
def errs (o : Except Stop (Loc × State)) (c : Cause) (va : Word) : Bool :=
  match o with | .error (.trap x 0 v) => decide (x = c ∧ v = va) | _ => false
def ask (va : Word) (n al : Nat) : Except Stop (Loc × State) := locate sM here tM va n al .load

/-- The worked addresses of 06_memory.md, seen by core 3 of its cluster: S is 0xE0000. -/
theorem witness_windows : errs (ask 0x100000000000000 8 8) .windowUnmapped 0x100000000000000 = true ∧ errs (ask 0xFEFFFFFFFFFFFFFF 1 1) .windowUnmapped 0xFEFFFFFFFFFFFFFF = true ∧
    errs (ask 0xFF00000000200000 1 1) .windowUnmapped 0xFF00000000200000 = true ∧ errs (ask 0xFF0FFFFFFFFFFFFF 1 1) .windowUnmapped 0xFF0FFFFFFFFFFFFF = true ∧
    errs (ask 0xFF10000002000000 8 8) .windowUnmapped 0xFF10000002000000 = true ∧ errs (ask 0xFFFFFFFFFFFFFFFF 1 1) .windowUnmapped 0xFFFFFFFFFFFFFFFF = true ∧
    watchHit sM tM 0xFFFFFFFFFFFFFFFF .load = none := by decide +kernel
theorem witness_own_scratchpad : isOk (ask 0xFF000000000DFFF8 8 8) (.spad here.core 0xDFFF8, sM) = true ∧
    errs (ask 0xFF000000000E0000 1 1) .scratchpadBeyondPartition 0xFF000000000E0000 = true ∧ errs (ask 0xFF00000000000004 8 8) .misaligned 0xFF00000000000004 = true ∧
    errs (ask 0xFF000000001FFFC0 128 64) .windowCrossing 0xFF000000001FFFC0 = true ∧ isOk (ask 0xFF00000000000000 1 1) (.spad here.core 0, sM) = true ∧
    spadSize here.core (getCore sM here.core) = 0xE0000 := by decide +kernel
theorem witness_cluster_window : errs (ask 0xFF10000000000004 8 8) .misaligned 0xFF10000000000004 = true ∧
    errs (ask 0xFF100000001FFFC0 128 64) .windowCrossing 0xFF100000001FFFC0 = true ∧ errs (ask 0xFF10000000200000 8 8) .neighbourUnavailable 0xFF10000000200000 = true ∧
    isOk (ask 0xFF10000000000108 8 8) (.spad here.core 0x108, sM) = true ∧ (getCore sM (computeId 0 0 1)).dom ≠ some 1 ∧
    errs (ask 0xFF100000000E0000 1 1) .scratchpadBeyondPartition 0xFF100000000E0000 = true := by decide +kernel

/-- The entry that serves page 0x20, with other fields. -/
def sPage (e : TlbEntry) : State := updCore sM here.core (fun k => { k with tlb := [e] })
def tMu : Strand := { tM with priv := .u }
theorem witness_page_entries : (∀ e ∈ [page 0x20 0x100000, { page 0x20 0x100000 with loc := 2 }, { page 0x20 0x100000 with loc := 1 }, { page 0x20 0x100000 with r := false },
      { page 0x20 0x100000 with w := false }, { page 0x20 0x100000 with priv := 2 }],
    (getCore (sPage e) here.core).tlb.find? (tlbHit 1 0x20) = some e) ∧ watchHit sM tM 0x200008 .store = none ∧ 0x20 ∉ tM.absent ∧
    errs (locate (sPage { page 0x20 0x100000 with r := false }) here tM 0x200008 8 8 .load) .permissionRead 0x200008 = true ∧
    errs (locate (sPage { page 0x20 0x100000 with w := false }) here tM 0x200008 8 8 .store) .permissionWrite 0x200008 = true ∧
    errs (locate (sPage { page 0x20 0x100000 with priv := 1 }) here tMu 0x200008 8 8 .load) .permissionRead 0x200008 = true := by decide +kernel
theorem witness_home_denied : frameExists sM 0x100008 = true ∧
    errs (locate { sM with access := [((0, 0, 1), 1)] } here tM 0x200008 8 8 .store) .accessTableDenied 0x200008 = true ∧
    errs (locate { sM with access := [((0, 0, 1), 3)] } here tM 0x200008 8 8 .atomic) .accessTableDenied 0x200008 = true ∧
    isOk (locate sM here tM 0x200008 8 8 .atomic) (.mem 0x100008, sM) = true ∧ accessBits sM 0 ((homeOf 0x100008).1 * 16 + (homeOf 0x100008).2) 1 = 15 := by
  decide +kernel

/-! Loads and stores. -/

theorem witness_loads : (∀ i ∈ [Instr.ld 9 1 3 0 0, .ld 9 2 6 0x7F 0, .ldacq 9 1 3 0 0, .ldacq 9 1 2 3 0], Admits sM tM i) ∧ rdP tM.r 1 = false ∧ tM.openers = [] ∧
    isOk (locate sM here tM 0x200008 8 8 .load) (.mem 0x100008, sM) = true ∧ ownAtomic sM 1 sM.uid (.mem 0x100008) 8 = false ∧
    openerOn tM (.mem 0x100008) 8 = false ∧ loadDenied sM here.core 1 0 (.mem 0x100008) = false ∧
    (readLoc sM here.core 1 sM.uid 0 (.mem 0x100008) 8).1 = leBytes 8 0x80000005FFFFFFF9 ∧ (readLoc sM here.core 1 sM.uid 0 (.mem 0x100008) 8).2.2.1 = none := by
  decide +kernel

/-- R136: sign- and zero-extension of each width. -/
theorem test_load_values : [(Instr.ld 9 2 0 0, 0xFFFFFFFFFFFFFFF9), (.ld 9 2 4 0, 0xF9), (.ld 9 2 1 0, 0xFFFFFFFFFFFFFFF9), (.ld 9 2 5 0, 0xFFF9),
    (.ld 9 2 2 0, 0xFFFFFFFFFFFFFFF9), (.ld 9 2 6 0, 0xFFFFFFF9), (.ld 9 2 3 0, 0x80000005FFFFFFF9), (.ld 9 2 2 1, 0xFFFFFFFF80000005)].all
      (fun x => gave sM tM (x.1 0) 9 x.2) = true := by decide +kernel

/-- A line of the caches, filled at cycle 10. -/
def line0 : CLine := ⟨0xABCDEF0123456789, true, 10, false⟩
def sL (l1 cc : Bool) (acq : Nat) : State :=
  let s := updCore { sM with memPois := [0x4001] } here.core (fun k => { k with l1 := if l1 then [(0x4000, line0)] else [], acq := acq, spadPois := [0x22] })
  setClus s 0 0 { getClus s 0 0 with cc := if cc then [(0x4000, line0)] else [] }
theorem witness_read_path : (∀ x ∈ [(true, false, 0), (false, true, 10), (false, true, 11), (false, false, 0)],
      let s := sL x.1 x.2.1 x.2.2
      (∀ p ∈ s.pend, p.uid ≠ 1) ∧ (getCore s here.core).spadBad = [] ∧ s.memBad = []) ∧ 0x3F % 64 + 1 ≤ 64 ∧ 0 + 64 ≤ 64 ∧
    aget (getCore (sL true false 0) here.core).l1 0x4000 = some line0 ∧ aget (getClus (sL false true 10) 0 0).cc 0x4000 = some line0 ∧
    (sL false true 11).pend = [] ∧ (getCore (sL false true 10) here.core).acq ≤ line0.fill ∧ line0.fill < (getCore (sL false true 11) here.core).acq := by decide +kernel

/-- A posted store of the strand. -/
def posted (l : Loc) (w : PWork) (floor : Nat) : PWrite := ⟨5, 5, here, 1, floor, 0x1000, 0x200008, l, w, 0, 0⟩
def bytes2 : List (Option (Byte × Bool)) := [some (0x12, false), some (0x34, true)]
theorem witness_own_store : let s := { sM with pend := [posted (.mem 0x100008) (.store bytes2) 0] }
    s.pend = [] ++ [posted (.mem 0x100008) (.store bytes2) 0] ∧ 5 < 9 ∧ bytes2 = [((0x12 : Byte), false), (0x34, true)].map some ∧ blockOff (.mem 0x100008) + 2 ≤ 64 ∧
    (readLoc s here.core 1 9 0 (.mem 0x100008) 2).1 = [0x12, 0x34] := by decide +kernel
theorem witness_stores : (∀ i ∈ [Instr.st 3 1 3 0, .st 3 2 0 0x40, .strel 3 1 3 2 0], Admits sM tM i) ∧ rdP tM.r 1 = false ∧ outstanding sM 1 < 32 ∧
    isOk (locate sM here tM 0x200008 8 8 .store) (.mem 0x100008, sM) = true ∧ blockOff (.mem 0x100008) + 8 ≤ 64 ∧
    runs sM tM (.st 3 1 3 0) (goesOn { sM with uid := sM.uid + 2, pend := [⟨11, 10, here, 1, 0, 0x1000, 0x200008, .mem 0x100008, .store (dataBytes tM.r 3 8), 0, 0⟩] }
      tM (.st 3 1 3 0) tM.r) = true := by decide +kernel
theorem witness_store_lands : ∀ l ∈ [Loc.mem 0x100008, .spad here.core 0x108],
    let p := posted l (.store bytes2) 0
    let s := { sM with pend := [p] }
    s.memWf = true ∧ s.pend.find? (fun q => q.seq == 5) = some p ∧ canLand s p = true ∧ (∃ x ∈ bytes2, x ≠ none) ∧ blockOff p.loc + bytes2.length ≤ 64 ∧ s.memBad = [] := by
  decide +kernel

/-! Openers. -/

theorem witness_opener_issue : (∀ i ∈ [Instr.ld 9 1 3 0 15, .ld 0 1 0 0 1, .div 9 3 5 1, .rem 9 3 0 15, .divn 9 3 5 4, .remn 0 3 5 4], Admits sM tM i) ∧ tM.openers.length < 8 ∧
    isOk (locate sM here tM 0x200008 8 8 .load) (.mem 0x100008, sM) = true ∧ loadDenied sM here.core 1 0 (.mem 0x100008) = false ∧ (∀ q ∈ tM.openers, q.id < sM.uid) ∧
    runs sM tM (.div 9 3 5 1) (opened sM tM (.div 9 3 5 1) (pends 9) 1 (.div 0x05B61116C72227D8 false (sM.cycle + 24))) = true := by decide +kernel

/-- A strand with that opener, ready. -/
def tO (d : BitVec 5) (w : OpenerWork) : Strand := { tM with openers := [⟨7, 0x1000, pends d, 3, true, 8, 0, w, 0⟩] }
theorem witness_opener_complete : (∀ d ∈ [(0 : BitVec 5), 9, 31], ∀ w ∈ [OpenerWork.div 5 false 50, .ld (.mem 0x100008) 0x200008 8 true],
      let t := tO d w
      getStrand (full t) here = some t ∧ (t.openers.find? (fun o => o.id == 7)).isSome = true ∧ t.status = .ready ∧ relayedOf (full t) 7 = none ∧
        t.openers.all (fun o => openerReady (full t) here.core t o) = true) ∧ (full tM).cycle < 51 ∧
    ends (exec (.lookaheadOpenerComplete here 7) (full (tO 9 (.div 5 true 50)))) (setStrand (full (tO 9 (.div 5 true 50))) here { tM with r := wr tM.r 9 5 true }) = true := by
  decide +kernel

/-! Prefetches and fences. -/

theorem witness_prefetch : (∀ i ∈ [Instr.pref 1 0 0, .pref 1 2 0x40, .pref 2 0 0], Admits sM tM i) ∧ rdP tM.r 1 = false ∧ here.core.kind = .compute ∧ sM.memBad = [] ∧
    (getCore sM here.core).tlb.find? (tlbHit 1 0x20) = some (page 0x20 0x100000) ∧ homeAdmits sM 0x100008 1 .load = true ∧
    tlbLookup sM (strandAgent here tM) 0x22 = none ∧ 2 ^ 56 ≤ (rd tM.r 2).toNat := by decide +kernel

/-- A strand with or without its ticket, at a hub core too. -/
def tK (k : Option Bool) : Strand := { tM with ticket := k }
def hub0 : CoreId := ⟨.hub, 0, 15, 2⟩
def sHub (t : Strand) : State := { full t with cores := (full t).cores.map (fun x => (hub0, x.2)), cur := ⟨hub0, 0⟩ }
theorem witness_fences : (∀ i ∈ [Instr.fence 0 0, .fence 0 3, .fence 1 1, .fence 2 2, .fence 3 3], Admits sM tM i) ∧ tM.openers = [] ∧
    (∀ k ∈ [none, some true, some false], readsDone (full (tK k)) (tK k) = true ∧ belowDone (full (tK k)) here.core 1 (full (tK k)).uid [] 3 = true) ∧ sM.tickets = [] ∧ Admits (sHub tM) tM (.fence 2 2) ∧
    (getDom (setDom sM 1 { getDom sM 1 with roothub := 0x1000 }) 1).roothub.getLsbD 12 = true := by decide +kernel
theorem witness_fence_ticket : let q : Ticket := ⟨3, sequencerOf here.core 3, here, 0, 0⟩
    let s := { full { tM with status := .waiting (.ticket 3 0) } with tickets := [q], cys := { sM.cys with now := 100000 } }
    (getStrand s here).isSome = true ∧ s.tickets.find? (fun p => p.ref == here) = some q ∧ (∀ p ∈ s.tickets, p.inst = q.inst → ticketBefore s p q = false) ∧
      q.scope = 3 ∧ q.time + 100000 ≤ s.cys.now := by decide +kernel

/-! Atomics: the word there is 0xFFFFFFF9, or 0x80000005FFFFFFF9. -/

/-- The atomic leaves that word, and D holds that value. -/
def atom (fn : Nat) (size : BitVec 1) (b c : BitVec 5) (new : Nat) (ret : Word) : Bool :=
  let i := (amoForms 9 2 b c 2 size 0 0)[fn]?.getD .nop
  let n : Nat := if size = 1 then 8 else 4
  decide (Admits sM tM i) && match exec i sM with
  | .next s => decide (leNat (memBytes (getCore s here.core).spad 0x108 n) = new) &&
      (match getStrand s here with | some u => decide (u.r = wr tM.r 9 ret false ∧ u.pc = 0x100C) | none => false)
  | _ => false
theorem witness_atomics : atom 0 0 5 0 0xFFFFFFFC 0xFFFFFFFFFFFFFFF9 = true ∧ atom 1 0 5 0 0xFFFFFFF9 0xFFFFFFFFFFFFFFF9 = true ∧
    atom 2 0 5 0 3 0xFFFFFFF9 = true ∧ atom 3 0 5 0 3 0xFFFFFFFFFFFFFFF9 = true ∧ atom 4 0 5 0 0xFFFFFFF9 0xFFFFFFF9 = true ∧
    atom 5 0 5 0 1 0xFFFFFFFFFFFFFFF9 = true ∧ atom 6 1 5 0 0x80000005FFFFFFFB 0x80000005FFFFFFF9 = true ∧ atom 7 0 4 0 6 0xFFFFFFFFFFFFFFF9 = true ∧
    atom 8 1 3 0 0x1122334455667788 0x80000005FFFFFFF9 = true := by decide +kernel
theorem witness_atomics_more : atom 9 0 5 3 0xFFFFFFF9 0xFFFFFFFFFFFFFFF9 = true ∧ atom 10 0 7 0 0x7FC00000 0xFFFFFFF9 = true ∧
    atom 11 0 7 0 0x7FC00000 0xFFFFFFF9 = true ∧ atom 12 0 7 0 0x7FC00000 0xFFFFFFF9 = true ∧ atom 13 0 5 4 3 0xFFFFFFFFFFFFFFF9 = true ∧
    atom 14 0 4 0 0xFFFFFFFB 1 = true ∧ atom 14 0 0 0 0xFFFFFFF9 0xFFFFFFFFFFFFFFFF = true ∧ atom 15 0 5 5 0xFFFFFFF9 0xFFFFFFFFFFFFFFF9 = true := by decide +kernel

/-- The worked results of 07_atomics.md: operation, width, old word, B and C give the new word and D. -/
theorem test_atomics_worked : ([(14, 32, 0xF7, 0xFF, 0, 0xFF, 3), (14, 32, 0xFF, 0xFF, 0, 0xFF, 0xFFFFFFFFFFFFFFFF), (14, 32, 0xF7, 0xF0, 0, 0xF7, 0xFFFFFFFFFFFFFFFF),
      (15, 64, 0x0F, 0x30, 5, 0x0F, 0x0F), (15, 64, 0x0F, 0x30, 6, 0x3F, 0x0F), (13, 32, 0x12345678, 0xAB00, 0xFF00, 0x1234AB78, 0x12345678),
      (9, 32, 0x80000000, 0xFFFFFFFF80000000, 1, 1, 0xFFFFFFFF80000000), (2, 32, 0x80000000, 7, 0, 7, 0x80000000), (10, 32, 0x3F800000, 0x33800000, 0, 0x3F800000, 0x3F800000),
      (12, 32, 0x80000000, 0, 0, 0, 0x80000000), (11, 32, 0x3F800000, 0x7FC00001, 0, 0x7FC00000, 0x3F800000)] : List (Nat × Nat × Nat × Nat × Nat × Nat × Nat)).all
    (fun x => let old := BitVec.ofNat x.2.1 x.2.2.1
              let b := BitVec.ofNat x.2.1 x.2.2.2.1
              decide ((atomicWord x.1 x.2.1 old b (BitVec.ofNat x.2.1 x.2.2.2.2.1) (BitVec.ofNat 64 x.2.2.2.2.1)).toNat = x.2.2.2.2.2.1 ∧
                atomicReturn x.1 x.2.1 old b = BitVec.ofNat 64 x.2.2.2.2.2.2)) = true := by decide +kernel
theorem witness_atomic_hypotheses : tM.openers = [] ∧ (∀ p ∈ sM.pend, p.uid ≠ 1) ∧ (∀ x ∈ sM.seen, x.id ≠ .next 1) ∧ amoBlocked sM here.core tM (.mem 0x100008) 8 = false ∧
    amoBlocked sM here.core tM (.spad here.core 0x108) 4 = false ∧ flushed sM here.core (.mem 0x100008) = sM ∧ sM.memWf = true ∧ rdP tM.r 1 = false ∧
    here.core.kind = .compute ∧ isOk (locate sM here tM 0x200008 8 8 .atomic) (.mem 0x100008, sM) = true ∧ blockOff (.mem 0x100008) % 8 = 0 ∧
    isOk (locate sM here tM 0xFF00000000000108 4 4 .atomic) (.spad here.core 0x108, sM) = true ∧ sound sM (.mem 0x100008) ∧ sound sM (.spad here.core 0x108) := by
  simp only [sound]; decide +kernel

/-- A posted atomic that may execute, and one with a window. -/
theorem witness_atomic_posted : Admits sM tM (.amoAdd 0 1 5 0 2 1 1 0) ∧ Admits sM tM (.amoCas 9 1 5 3 2 1 0 15) ∧ outstanding sM 1 < 32 ∧ tM.openers.length < 8 ∧
    (let p := posted (.mem 0x100008) (.atomic 0 true 2 5 0) 0
     let s := { sM with pend := [p] }
     s.memWf = true ∧ s.pend.find? (fun q => q.seq == 5) = some p ∧ canLand s p = true ∧ relayedOf s p.seq = none ∧ (∀ z ∈ s.seen, z.id ≠ .own p.seq) ∧
       flushed { s with pend := s.pend.filter (fun q => q.seq != p.seq) } p.ref.core p.loc = sM ∧ blockOff p.loc % 8 = 0) ∧
    (let t := tO 9 (.amo (.mem 0x100008) 0x200008 0 true 2 5 0)
     getStrand (full t) here = some t ∧ t.openers.all (fun o => openerReady (full t) here.core t o) = true ∧ t.status = .ready ∧
       relayedOf (full t) 7 = none ∧ (∀ z ∈ (full t).seen, z.id ≠ .own 7) ∧ flushed (full t) here.core (.mem 0x100008) = full t ∧ (full t).memWf = true) := by decide +kernel

end Sys2Proof.Tests
end

