-- ==== Sys2Proof/Tests/Engines.lean ====
section
/-! SUPPORT. Witnesses and tests of the statements on the tile, lookup and copy engines. -/

namespace Sys2Proof.Tests

set_option Elab.async false

open Sys2Proof.Machine Sys2Proof.Says

/-- An operand that passes with one fault for the global window passes with every other. -/
theorem engCheck_any {s : State} {x : Ctx} {e : Stop} {va : Word} {len al : Nat} {ok : Bool} (h : engCheck s x e va len al ok = .ok ()) (e' : Stop) :
    engCheck s x e' va len al ok = .ok () := by
  unfold engCheck at h ⊢
  split at h
  · exact h
  · cases h
  · exact h

/-! Tiles. -/

/-- Tile 1 of each kind; rows of e4m3, e5m2, bf16 and i8 at 0xFF00000000000000; K is 64, the strides 128. -/
def tT (f32 : Bool) : Strand :=
  let t := hand [(1, 0xFF00000000000000), (2, 0xFF00000000004000), (3, 64 + 128 * 2 ^ 16 + 128 * 2 ^ 40), (4, 0xFF00000000008000), (5, 0x200000), (6, 31),
    (7, 33), (8, 0x80), (10, 0x1000000), (11, 32)]
  { t with tiles := t.tiles.set 1 ⟨0x4048F5C3, f32, false⟩,
           r := { t.r with v := [⟨0x3F800000, 12, 0⟩, ⟨0x40000000, 12, 0⟩, ⟨7, 5, 0⟩, ⟨9, 5, 0⟩] } }
def sT (f32 : Bool) : State := lab (tT f32)
def okFor (f32 : Bool) (i : Instr) (va : Word) (len al : Nat) (ok : Bool) : Bool :=
  match engCheck (sT f32) ⟨here, tT f32, i.len, i.word0⟩ .endShadow va len al ok with | .ok () => true | _ => false
def tileTraps (f32 : Bool) (i : Instr) (c : Cause) : Bool := trapped (sT f32) (tT f32) i c 0x100 0
theorem witness_tmma : (∀ i ∈ [Instr.tmma 1 1 2 3 4 8 9 0 9, .tmma 1 1 2 3 4 13 13 1 9, .tmma 1 1 2 3 4 11 11 0 9], Admits (sT true) (tT true) i) ∧
    Admits (sT false) (tT false) (.tmma 1 1 2 3 0 1 1 0 9) ∧ futureTag (getCore (sT true) here.core) 1 1 (tileOf (tT true) 1) = 12 ∧
    futureTag (getCore (sT false) here.core) 1 1 (tileOf (tT false) 1) = 5 ∧ tileBusy (getCore (sT true) here.core).kuduq true 1 [1] = none ∧
    okFor true (.tmma 1 1 2 3 4 8 9 0 9) 0xFF00000000000000 (31 * 128 + 64) 16 true = true ∧ okFor true (.tmma 1 1 2 3 4 8 9 1 9) 0xFF00000000008000 128 1 true = true ∧
    (getCore (sT true) here.core).dteq.length < 16 := by decide +kernel
theorem witness_tmma_traps : tileTraps true (.tmma 1 1 2 3 4 8 13 0 9) .tileKindUnsupported = true ∧ tileTraps true (.tmma 1 1 2 3 4 11 11 1 9) .tileKindUnsupported = true ∧
    tileTraps false (.tmma 1 1 2 3 4 8 8 0 9) .accumulatorFormat = true ∧ tileTraps true (.tmma 1 1 2 7 4 8 8 0 9) .tileShape = true ∧
    tileTraps true (.tmma 1 5 2 3 4 8 8 0 9) .tileOperandRange = true := by decide +kernel
theorem witness_tile_forms : (∀ i ∈ [Instr.tzero 1 12 9, .tst 1 1 8 8 1 9, .tscl 1 0 1 9, .tget 2 1 6, .tset 1 0 6 0, .tset 1 2 0 1], Admits (sT true) (tT true) i) ∧
    okFor true (.tst 1 1 8 8 1 9) 0xFF00000000000000 (31 * 128 + 32) 1 true = true ∧ tileBusy (getCore (sT true) here.core).dteq false 1 [1] = none ∧
    tileTraps true (.tzero 1 8 9) .accumulatorFormat = true ∧ tileTraps true (.tst 1 1 8 5 0 9) .tileKindUnsupported = true ∧
    tileTraps true (.tst 1 1 10 12 0 9) .tileOperandRange = true ∧ tileTraps false (.tscl 1 0 1 9) .accumulatorFormat = true ∧
    trapped (sT true) (tT true) (.tget 2 1 11) .operandRange 0 0 = true ∧ trapped (sT true) (tT true) (.tset 1 2 6 0) .formatMismatch 0 0 = true ∧
    trapped (sT true) (tT true) (.tset 1 2 6 1) .operandRange 0 0 = true := by decide +kernel
theorem test_tile_rows : nextIs (exec (.tset 1 0 6 0) (sT true)) (fun s => match getStrand s here with
      | some u => decide (tileElem (tileOf u 1).bits 31 0 = 0x3F800000 ∧ tileElem (tileOf u 1).bits 31 16 = 0x40000000 ∧ tileElem (tileOf u 1).bits 0 0 = 0x4048F5C3)
      | none => false) = true ∧
    nextIs (exec (.tget 2 1 0) (sT true)) (fun s => match getStrand s here with
      | some u => decide (vreg u.r 2 = ⟨0x4048F5C3, 12, 0⟩ ∧ vreg u.r 3 = ⟨0, 12, 0⟩) | none => false) = true ∧
    nextIs (exec (.tzero 1 12 9) (sT true)) (fun s => decide ((getCore s here.core).dteq.length = 1 ∧ (tlOf (getCore s here.core) 4).posted = 1)) = true := by decide +kernel

/-- A full queue waits. -/
def idleCmd : EngCmd := ⟨0, 0, 0, 0, 0, 0, 0, 0, 3, 0, 0, ⟨77, 0, 1, .s, 0, 0⟩, false, none, 0, []⟩
theorem witness_queue_full : let s := updCore (sT true) here.core (fun k => { k with dteq := List.replicate 16 idleCmd, kuduq := List.replicate 16 idleCmd })
    runs s (tT true) (.tzero 1 12 9) (setStrand s here { tT true with status := .waiting (.queue 4), inside := false }) = true ∧
    runs s (tT true) (.linv 1 9) (setStrand s here { tT true with status := .waiting (.queue 5), inside := false }) = true := by decide +kernel

/-- Word 1 of an instruction's encoding. -/
def w1Of (i : Instr) : BitVec 32 := match encode i with | some e => e.w1 | none => 0

/-- A queued command of the strand, at a step. -/
def cmd (i : Instr) (w1 : BitVec 32) (a c : Word) (step : Nat) : EngCmd := ⟨i.word0, w1, 9, a, 0xFF00000000004000, c, 0xFF00000000008000, 0x3F800000, 1, step, 0, ⟨1, 0, 1, .h, 0x1000, 0⟩, false, none, 0, []⟩
def sStep (f32 : Bool) (q : EngCmd) : State := updCore (sT f32) here.core (fun k => { k with dteq := [q], tls := k.tls.setIfInBounds 4 ⟨1, 0, [], false, 0⟩ })
def rowsAt (s : State) (a : Word) (stride n m : Nat) : Bool :=
  isOk (engRows s here.core 1 m ((List.range n).map (fun i => a + BitVec.ofNat 64 (i * stride)))) (List.replicate n (List.replicate m 0), s)

/-- The commands of each function: formats e4m3 and e5m2; i8; clear; scale; store. -/
def qMma : EngCmd := cmd (.tmma 1 1 2 3 4 8 9 0 9) (w1Of (.tmma 1 1 2 3 4 8 9 0 9)) 0xFF00000000000000 (64 + 128 * 2 ^ 16 + 128 * 2 ^ 40) 1
def qInt : EngCmd := cmd (.tmma 1 1 2 3 4 1 1 0 9) (w1Of (.tmma 1 1 2 3 4 1 1 0 9)) 0xFF00000000000000 (64 + 128 * 2 ^ 16 + 128 * 2 ^ 40) 1
def qZero : EngCmd := cmd (.tzero 1 12 9) (w1Of (.tzero 1 12 9)) 0 0 0
def qScl : EngCmd := cmd (.tscl 1 0 1 9) (w1Of (.tscl 1 0 1 9)) 0 0 0
def qSt : EngCmd := cmd (.tst 1 1 8 8 1 9) (w1Of (.tst 1 1 8 8 1 9)) 0xFF00000000000000 0x80 3
theorem witness_tile_steps : [(qMma, true), (qInt, false), (qZero, true), (qScl, true), (qSt, true)].all (fun x => decide (x.1.step < dteSteps x.1) &&
      decide (engStrand (sStep x.2 x.1) here.core 1 = some (here, tT x.2)) && released (sStep x.2 x.1) here.core x.1.who && decide (engD x.1 = 1)) = true ∧
    [qMma, qInt, qZero, qScl, qSt].map engFn = [0, 0, 1, 3, 2] ∧ engFa qMma = 8 ∧ engFb qMma = 9 ∧ engFa qInt = 1 ∧ engFb qInt = 1 ∧ engFa qZero = 12 ∧
    rowsAt (sStep true qMma) 0xFF00000000000020 128 32 32 = true ∧ rowsAt (sStep true qMma) 0xFF00000000004020 128 32 32 = true := by decide +kernel
theorem witness_tile_store : (List.range 8).all (fun i => match engPlace (sStep true qSt) here.core 1 (0xFF00000000000000 + BitVec.ofNat 64 ((24 + i) * 0x80)) 32 with
    | .ok x => decide (x = (here.core, (24 + i) * 0x80)) | _ => false) = true ∧ (sStep true qSt).memWf = true := by decide +kernel
theorem witness_tile_step_fault : (match engRows (updCore (sStep true qMma) here.core (fun k => { k with spadPois := [4] })) here.core 1 32
      ((List.range 32).map (fun i => 0xFF00000000000020 + BitVec.ofNat 64 (i * 128))) with
    | .error (_, s) => decide (s = updCore (sStep true qMma) here.core (fun k => { k with spadPois := [4] })) | _ => false) = true := by decide +kernel
theorem test_tile_zero_step : nextIs (exec (.dteStep here.core) (sStep false qZero)) (fun s => match getStrand s here with
      | some u => decide (tileOf u 1 = ⟨0, true, false⟩ ∧ (getCore s here.core).dteq.map (fun q => q.step) = [1]) | none => false) = true := by decide +kernel

/-- R290: the next step waits for the one under way, and for a cycle that is no bubble; B in a neighbour takes 16 cycles for 1 KiB. -/
theorem witness_tile_times : (∀ b ∈ [0, 15], ∀ left ∈ [0, 3], let s := updCore (sStep false { qZero with left := left }) here.core (fun k => { k with bubble := b })
      (ends (exec (.dteStep here.core) s) s = decide (b ≠ 0 ∨ left ≠ 0))) ∧
    dteTime here.core qMma = 8 ∧ dteTime here.core { qMma with b := 0xFF10000000200000 } = 16 ∧ dteTime here.core { qMma with b := 0xFF10000000000000 } = 8 ∧
    dteTime here.core (cmd (.tmma 1 1 2 3 4 13 13 1 9) (w1Of (.tmma 1 1 2 3 4 13 13 1 9)) 0 0 0) = 4 ∧
    dteTime here.core (cmd (.tmma 1 1 2 3 4 11 11 0 9) (w1Of (.tmma 1 1 2 3 4 11 11 0 9)) 0 0 0) = 16 ∧ [qZero, qScl, qSt].map (dteTime here.core) = [4, 8, 4] := by decide +kernel

/-- A command after its last step, the next number of its timeline. -/
def sLast (q : EngCmd) : State := sStep true { q with step := dteSteps q }
theorem witness_tile_complete : (tlOf (getCore (sLast qZero) here.core) 4).value + 1 = qZero.num ∧ (tlOf (getCore (sLast qZero) here.core) 4).ahead = [] ∧
    nextIs (exec (.dteComplete here.core) (sLast qZero)) (fun s => decide ((getCore s here.core).dteq = [] ∧ (tlOf (getCore s here.core) 4).value = 1)) = true := by decide +kernel

/-! Lookup. -/

def table (mode : Bool) (fmt : BitVec 5) (st : TabState) (pol : Bool) : Table := ⟨true, 0xFF00000000000000, 0x80, pol, mode, fmt, st, 3, 0⟩
def tL (x y : Table) (f32 : Bool) : Strand :=
  let t := hand [(1, 0xFF00000000000000), (2, 0x80), (3, 0x100), (4, 0x1000000), (5, 0x200000), (6, 0xFF10000000200000)]
  { t with tabs := [x, y], tiles := List.replicate 4 ⟨5, f32, false⟩ }
def blank : Table := ⟨false, 0, 0, false, false, 0, .unbuilt, 0, 0⟩
def live : Table := table true 1 .valid false
def tabTraps (x y : Table) (f32 : Bool) (i : Instr) (c : Cause) (n : Nat) : Bool := trapped (lab (tL x y f32)) (tL x y f32) i c (BitVec.ofNat 64 (n * 256)) 0
def okTab (i : Instr) (va : Word) (len al : Nat) : Bool :=
  match engCheck (lab (tL live live false)) ⟨here, tL live live false, i.len, i.word0⟩ .endShadow va len al true with | .ok () => true | _ => false
theorem witness_lbld : (∀ i ∈ [Instr.lbld 1 1 2 1 0 0 9, .lbld 1 1 2 11 1 1 9], Admits (lab (tL live live false)) (tL live live false) i) ∧
    okTab (.lbld 1 1 2 1 1 1 9) 0xFF00000000000000 (31 * 0x80 + 128) 16 = true ∧ trapped (lab (tL live live false)) (tL live live false) (.lbld 1 1 2 5 1 1 9) .formatUnsupported 0 0 = true ∧
    tabTraps live live false (.lbld 1 1 4 1 1 1 9) .tileShape 1 = true ∧ tabTraps live live false (.lbld 1 5 2 1 1 1 9) .tableSourceNotLocal 1 = true ∧
    tabTraps live live false (.lbld 1 6 2 1 1 1 9) .tableSourceNotLocal 1 = true := by decide +kernel
theorem witness_lmm : Admits (lab (tL live live false)) (tL live live false) (.lmm 0 1 0 3 15 1 9) ∧ tileBusy (getCore (lab (tL live live false)) here.core).dteq false 1 [0, 1, 2, 3] = none ∧
    okTab (.lmm 0 1 0 3 15 1 9) 0xFF00000000000000 (127 * 0x100 + 128) 8 = true ∧
    [0, 1].all (fun n => let v := futureTab (getCore (lab (tL live live false)) here.core) 1 n live; v.recd && v.mode && !v.bf && decide (v.st = .valid)) = true ∧
    nextIs (exec (.lmm 0 1 0 3 15 1 9) (lab (tL live live false))) (fun s => decide ((getCore s here.core).kuduq.length = 1)) = true := by decide +kernel
theorem witness_lmm_traps : tabTraps live live false (.lmm 0 1 0 3 15 2 9) .tableFrame 0 = true ∧ tabTraps live blank false (.lmm 0 1 0 3 15 1 9) .tableNotBuilt 1 = true ∧
    tabTraps live live false (.lmm 0 1 0 3 18 1 9) .tableModeMismatch 0 = true ∧ tabTraps live (table true 1 .restored false) false (.lmm 0 1 0 3 17 1 9) .tableStaleRestored 1 = true ∧
    tabTraps (table true 1 .written false) live false (.lmm 0 1 0 3 16 1 9) .tableStaleWritten 0 = true := by decide +kernel
theorem witness_table_forms : (∀ i ∈ [Instr.linv 0 9, .lrbld 0 9, .lstat 9 0 0], Admits (lab (tL live live false)) (tL live live false) i) ∧
    (getCore (lab (tL live live false)) here.core).kuduq = [] ∧ tabTraps live blank false (.lrbld 1 9) .tableNotBuilt 1 = true ∧
    gave (lab (tL live blank false)) (tL live blank false) (.lstat 9 1 0) 9 0 = true ∧ gave (lab (tL live blank false)) (tL live blank false) (.lstat 9 0 1) 9 0xFF00000000000000 = true ∧
    gave (lab (tL live blank false)) (tL live blank false) (.lstat 9 0 0) 9 0x8A10000080000003 = true := by decide +kernel

/-- Sources at the edges of the own window, whose scratchpad has 0xE0000 bytes; a row step of 8; an operand frame of three tiles. -/
def tS : Strand := { tL live live false with r := regs [(1, 0x100000000000000), (2, 0xFF00000000000008), (3, 0xFF000000001FF010), (4, 0xFF000000000DF000),
  (5, 0x80), (6, 0xFF000000000DF010), (7, 8), (8, 0xFF0000000000DF00), (10, 0xFF00000000200000)] }
def lbldTraps (a b : BitVec 5) (c : Cause) : Bool := trapped (lab tS) tS (.lbld 1 a b 1 1 0 9) c 0 (rd tS.r a)
theorem witness_lbld_sources : lbldTraps 1 5 .windowUnmapped = true ∧ lbldTraps 10 5 .windowUnmapped = true ∧ lbldTraps 2 5 .misaligned = true ∧ lbldTraps 8 7 .misaligned = true ∧
    lbldTraps 3 5 .windowCrossing = true ∧ lbldTraps 6 5 .scratchpadBeyondPartition = true ∧ 0xDF000 + (31 * 0x80 + 128) = 0xE0000 ∧
    spadSize here.core (getCore (lab tS) here.core) = 0xE0000 ∧ Admits (lab tS) tS (.lbld 1 4 5 1 1 0 9) := by decide +kernel

/-- A product of the strand's own queued DTE command on tile 3, a frame too short, a table format, a bf16 tile; `lstat` behind a command on slot 0. -/
def tF (n : Nat) : Strand := { tL live (table true 11 .valid false) false with tiles := List.replicate n ⟨5, false, false⟩ }
def busy (n : Nat) : State := updCore (lab (tF n)) here.core (fun k => { k with dteq := [{ idleCmd with w0 := (Instr.tzero 3 12 9).word0, w1 := w1Of (.tzero 3 12 9), who := ⟨1, 0, 1, .h, 0, 0⟩ }] })
def asked : State := updCore (lab (tL live live false)) here.core (fun k => { k with kuduq := [{ idleCmd with w0 := (Instr.linv 0 9).word0, w1 := w1Of (.linv 0 9), who := ⟨1, 0, 1, .h, 0, 0⟩ }] })
theorem witness_lmm_frames : trapped (lab (tF 3)) (tF 3) (.lmm 0 1 0 3 15 0 9) .frameRegister 0 0 = true ∧ trapped (lab (tF 4)) (tF 4) (.lmm 1 1 0 3 15 0 9) .frameRegister 0 0 = true ∧
    tileBusy (getCore (busy 4) here.core).dteq false 1 (rangeFrom 0 4) = some 3 ∧ trapped (busy 4) (tF 4) (.lmm 0 1 0 3 15 0 9) .accumulatorFrame 0x300 0 = true ∧
    trapped (lab (tF 4)) (tF 4) (.lmm 0 1 0 3 14 0 9) .formatUnsupported 0 0 = true ∧ trapped (lab (tF 4)) (tF 4) (.lmm 0 1 1 3 15 0 9) .accumulatorFormat 0 0 = true ∧
    trapped (lab (tF 4)) (tF 4) (.lmm 0 1 0 3 15 1 9) .tableModeMismatch 0x100 0 = true ∧ trapped (lab (tF 4)) (tF 4) (.lmm 0 1 0 4 15 0 9) .tileShape 0 0 = true ∧
    trapped (lab (tF 4)) (tF 4) (.lmm 0 5 0 3 15 0 9) .tileOperandRange 0 0 = true := by decide +kernel
theorem witness_lstat_waits : runs asked (tL live live false) (.lstat 9 0 0) (setStrand asked here { tL live live false with status := .waiting (.engine [] [0] false), inside := true }) = true ∧
    runs asked (tL live live false) (.lstat 9 1 1) (goesOn asked (tL live live false) (.lstat 9 1 1) (wr (tL live live false).r 9 0xFF00000000000000 false)) = true := by decide +kernel

/-- A command on table 0: build, product, invalidation, rebuild. -/
def kcmd (i : Instr) (a c : Word) (step : Nat) : EngCmd := ⟨i.word0, w1Of i, 9, a, 0x80, c, 0, 0, 1, step, 0, ⟨1, 0, 1, .h, 0x1000, 0⟩, false, none, 0, []⟩
def sKudu (x : Table) (q : EngCmd) : State := updCore (lab (tL x live false)) here.core (fun k => { k with kuduq := [q], tls := k.tls.setIfInBounds 5 ⟨1, 0, [], false, 0⟩ })
def qBuild : EngCmd := kcmd (.lbld 0 1 2 1 1 0 9) 0xFF00000000000000 0 0
def qLmm : EngCmd := kcmd (.lmm 0 1 0 3 15 0 9) 0xFF00000000000000 0x100 0
def qTern : EngCmd := kcmd (.lmm 0 1 0 3 18 0 9) 0xFF00000000000000 0x100 0
theorem witness_lookup_steps : [(blank, qBuild), (live, kcmd (.linv 0 9) 0 0 0), (live, kcmd (.lrbld 0 9) 0 0 0), (blank, kcmd (.lrbld 0 9) 0 0 0), (live, qLmm),
      (table false 1 .valid false, qTern), (table true 1 .written false, qLmm)].all (fun x => decide (engStrand (sKudu x.1 x.2) here.core 1 = some (here, tL x.1 live false)) &&
      decide (x.2.step < kuduSteps (tL x.1 live false) x.2) && released (sKudu x.1 x.2) here.core x.2.who && decide (engD x.2 = 0)) = true ∧
    [qBuild, kcmd (.linv 0 9) 0 0 0, kcmd (.lrbld 0 9) 0 0 0, qLmm].map engFn = [0, 2, 4, 1] ∧ engFmt qLmm = 15 ∧ engFmt qTern = 18 := by decide +kernel
theorem witness_lookup_sources : rowsAt (sKudu blank qBuild) 0xFF00000000000000 0x80 32 128 = true ∧ rowsAt (sKudu live qLmm) 0xFF00000000000000 0x100 128 16 = true := by decide +kernel

/-- A rebuild begun, met by a write or not; a slot without a record; a slot under the rebuild policy before a step; a tq4 byte of 81. -/
def qMid (hit : Bool) : EngCmd := { kcmd (.lrbld 0 9) 0 0 0 with build := some (0, 7), hit := hit }
def policy : Table := table true 1 .written true
theorem witness_rebuilds : nextIs (exec (.kuduStep here.core) (sKudu live (kcmd (.lrbld 0 9) 0 0 0))) (fun s =>
      decide ((getCore s here.core).kuduq.map (fun q => (q.build.isSome, q.step)) = [(true, 0)])) = true ∧
    (∀ hit ∈ [true, false], nextIs (exec (.kuduStep here.core) (sKudu live (qMid hit))) (fun s => (getStrand s here).map (fun u => ((tabOf u 0).st, (tabOf u 0).rebuilds)) ==
      some ((if hit then .written else .valid), 4)) = true) ∧
    nextIs (exec (.kuduStep here.core) (sKudu blank (kcmd (.lrbld 0 9) 0 0 0))) (fun s => decide ((getCore s here.core).kuduq = [])) = true ∧
    nextIs (exec (.kuduStep here.core) (sKudu policy qLmm)) (fun s => decide ((getCore s here.core).kuduq.map (fun q => (q.build.isSome, q.step)) = [(true, 0)])) = true ∧
    nextIs (exec (.kuduStep here.core) (sKudu (table true 1 .written false) qLmm)) (fun s => decide ((getCore s here.core).kuduq = [])) = true ∧
    kuduSteps (tL policy live false) qLmm = 4 ∧ (tabOf (tL policy live false) 0).recd = true := by decide +kernel
/-- R313, and the build times of the worked run: 4 cycles of reads and 41 of building. -/
theorem witness_lookup_times : lmmTime here.core qTern false 8 = 8 ∧ lmmTime here.core { qTern with a := 0xFF10000000200000 } false 8 = 16 ∧ lmmTime here.core qLmm true 4 = 64 ∧
    lmmTime here.core qLmm false 8 = 32 ∧ buildTime (table false 1 .valid false) = 45 ∧ buildTime (table true 11 .valid false) = 88 ∧
    (let s := updCore (sKudu live { qLmm with left := 1 }) here.core (fun k => { k with bubble := 0 }); ends (exec (.kuduStep here.core) s) s) = true := by decide +kernel
theorem witness_trits : let s := updCore (sKudu (table false 1 .valid false) qTern) here.core (fun k => { k with spad := [(0x100, 81)] })
    (match engRows s here.core 1 8 ((List.range 128).map (fun j => 0xFF00000000000000 + BitVec.ofNat 64 (j * 0x100))) with
      | .ok (l, s2) => decide (s2 = s ∧ 81 ≤ leNat ((l[1]?).getD []) % 256) | _ => false) = true ∧ 8 ≤ kuduSteps (tL (table false 1 .valid false) live false) qTern * 8 := by decide +kernel
theorem test_write_meets_linv : let s := updCore (sKudu live (kcmd (.linv 0 9) 0 0 0)) here.core (fun k => { k with tabHits := [((1, 0), 0)] })
    nextIs (exec (.kuduStep here.core) s) (fun s => (getStrand s here).map (fun u => (tabOf u 0).st) == some .written) = true := by decide +kernel
theorem test_lookup_invalidates : nextIs (exec (.kuduStep here.core) (sKudu live (kcmd (.linv 0 9) 0 0 0))) (fun s =>
    (getStrand s here).map (fun u => (tabOf u 0).st) == some .cleared) = true := by decide +kernel
theorem witness_lookup_complete : let q := { kcmd (.linv 0 9) 0 0 1 with num := 1 }
    kuduSteps (tL live live false) q ≤ q.step ∧ (tlOf (getCore (sKudu live q) here.core) 5).value + 1 = q.num ∧
    nextIs (exec (.kuduComplete here.core) (sKudu live q)) (fun s => decide ((getCore s here.core).kuduq = [] ∧ (tlOf (getCore s here.core) 5).value = 1)) = true := by decide +kernel

/-! Copies. -/

def attr (strm : BitVec 2) (tge : BitVec 1) (tag : BitVec 6) (e : BitVec 5) (fence : BitVec 1) : CopyAttr := ⟨strm, tge, tag, e, fence⟩

/-- Source, destination, lengths, a record, a descriptor, an unmapped address. -/
def tCp : Strand := hand [(1, 0x200000), (2, 0x210000), (3, 64), (4, 0x1000000000), (5, 0x1000000001), (6, 0x200040), (7, 0x200400), (8, 2048), (10, 2047), (12, 0x10000000000)]
def queued (n num fn : Nat) : Copy := { Copy.blank ⟨1, 5, 1, .h, 0x1000, 3⟩ with strm := n, num := num, fn := fn }
def sCp (n : Nat) (l : List Nat) : State :=
  updCore (poke (talk tCp) 0x100400 l) here.core (fun k => { k with copies := (List.range n).map (fun m => queued 1 (m + 1) 0), tagA := 0x10, tagR := 0x20 })
/-- The same without a trap area. -/
def sCt (l : List Nat) : State := setDom (sCp 0 l) 1 { getDom (sCp 0 l) 1 with trarea := 0 }
def fits (i : Instr) (l : List (Word × Nat × Nat)) : Bool :=
  match copyRanges (sCp 0 []) ⟨here, tCp, i.len, i.word0⟩ l with | .ok () => true | _ => false
def at1 : CopyAttr := attr 1 1 5 6 1
def at0 : CopyAttr := attr 1 0 0 0 0
def at3 : CopyAttr := attr 3 1 63 6 1
def copyForms (x : CopyAttr) : List Instr :=
  [.cp 11 1 2 3 x, .cpfill 11 1 2 3 x, .cpredK0 11 1 2 3 x 0 1, .cpredK0 11 1 2 3 x 10 0, .cpredK1 11 1 x 0 0, .cpredK2 11 1 2 3 x 0 0, .cpredK3 11 2 x 0 0, .cpat 11 1 2 3 x 9 1,
   .cpsigIrq 11 10 x, .cpsigMsg 11 12 0 x, .cpsigMsg 11 12 28 x, .cpcan 11 3 1, .cpq 11 1]
theorem witness_copy_forms : (∀ i ∈ copyForms at3, Admits (sCp 0 []) tCp i) ∧ tCp.r.spois = 0 ∧ (rd tCp.r 6).toNat % 64 = 0 ∧ windowOf here.core (rd tCp.r 6) = .global ∧
    (getCore (sCp 0 []) here.core).tagA.getLsbD 63 = false ∧ (getCore (sCp 0 []) here.core).tagR.getLsbD 63 = false ∧
    fits (.cp 11 1 2 3 at3) [(0x200000, 64, 1), (0x210000, 64, 8), (0x200040, 128, 64)] = true := by decide +kernel
theorem witness_copy_traps : (rd tCp.r 4).toNat ≤ 2 ^ 36 ∧ trapped (sCt []) tCp (.cp 11 1 2 5 at0) .copyCommandInvalid 0 0 = true ∧
    trapped (sCt []) tCp (.cp 11 1 2 3 (attr 1 1 4 0 0)) .tagInUse 0 0 = true ∧ trapped (sCt []) tCp (.cp 11 1 2 3 at1) .tagInUse 0 0 = true ∧
    trapped (sCt []) tCp (.cpredK0 11 1 2 3 at0 12 1) .atomicNotSupported 0 0x210000 = true ∧ trapped (sCt []) tCp (.cpat 11 1 2 3 at0 10 1) .atomicNotSupported 0 0x200000 = true ∧
    trapped (sCt []) tCp (.cpsigIrq 11 8 at0) .copyCommandInvalid 0 0 = true := by decide +kernel
theorem test_copy_posts : nextIs (exec (.cp 11 1 2 3 at3) (sCp 0 [])) (fun s => let k := getCore s here.core
      decide (k.tagA = 0x8000000000000010 ∧ (tlOf k 3).posted = 1) && (match k.copies with
        | [q] => decide (q.strm = 3 ∧ q.a = 0x200000 ∧ q.b = 0x210000 ∧ q.w = 64 ∧ q.fence = true ∧ q.tag = some 63 ∧ q.recAddr = 0x200040) | _ => false)) = true ∧
    runs (sCp 64 []) tCp (.cp 11 1 2 3 at0) (setStrand (sCp 64 []) here { tCp with status := .waiting (.queue 1) }) = true := by decide +kernel

/-- No window; across the end of the global window; misaligned for 4 and 8 bytes, in memory and in the scratchpad; misplaced records. -/
def tCw : Strand := hand [(1, 0x200000), (2, 0x100000000000000), (3, 64), (4, 0xFFFFFFFFFFFFF0), (5, 0x200002), (6, 0xFF00000000000004), (7, 0x200020), (8, 0xFF000000001FFFC0), (10, 0)]
def sCw : State := lab tCw
def copyTraps (i : Instr) (c : Cause) (va : Word) : Bool := trapped sCw tCw i c 0 va
theorem witness_copy_ranges : copyTraps (.cp 11 2 1 3 at0) .windowUnmapped (rd tCw.r 2) = true ∧ copyTraps (.cp 11 1 4 3 at0) .windowCrossing (rd tCw.r 4) = true ∧
    copyTraps (.cpfill 11 1 8 5 at0) .windowCrossing (rd tCw.r 8) = true ∧ copyTraps (.cpredK0 11 1 6 3 at0 0 1) .misaligned (rd tCw.r 6) = true ∧
    copyTraps (.cpredK0 11 1 6 10 at0 0 1) .misaligned (rd tCw.r 6) = true ∧ copyTraps (.cpredK0 11 1 5 3 at0 0 1) .copyCommandInvalid 0 = true ∧
    copyTraps (.cpredK0 11 1 1 3 at0 8 0) .copyCommandInvalid 0 = true ∧ copyTraps (.cpredK1 11 6 at0 0 0) .misaligned (rd tCw.r 6) = true ∧
    copyTraps (.cpat 11 5 1 3 at0 0 0) .misaligned (rd tCw.r 5) = true ∧ copyTraps (.cpat 11 6 1 3 at0 0 0) .copyCommandInvalid 0 = true ∧
    copyTraps (.cp 11 1 1 3 (attr 0 0 0 7 0)) .copyCommandInvalid 0 = true ∧ copyTraps (.cp 11 1 1 3 (attr 0 0 0 2 0)) .copyCommandInvalid 0 = true ∧
    copyTraps (.cp 11 1 1 3 (attr 0 0 0 8 0)) .windowCrossing (rd tCw.r 8) = true ∧
    Admits sCw tCw (.cp 11 2 1 10 at0) ∧ Admits sCw tCw (.cpredK1 11 5 at0 0 0) := by decide +kernel

/-- A rectangle of 2 rows of 16 bytes; a box of 2 planes; a shape with a zero width. -/
def shape (w : Nat) (three : Bool) : List Nat := [w + 2 * 2 ^ 32, if three then 2 else 0, 32, 64, if three then 256 else 0, if three then 512 else 0, 0, 0]
theorem witness_copy_shapes : [(16, false), (16, true), (0, false)].all (fun x => let i : Instr := if x.2 then .cp3d 11 1 2 7 at0 else .cp2d 11 1 2 7 at0
      okThen (descLoad (sCp 0 (shape x.1 x.2)) ⟨here, tCp, i.len, i.word0⟩ 0x200400 8) (fun l _ => decide (l = (shape x.1 x.2).map (BitVec.ofNat 64)))) = true ∧
    fits (.cp3d 11 1 2 7 at0) [walkRange 0x200000 16 2 2 32 256, walkRange 0x210000 16 2 2 64 512] = true ∧
    trapped (sCt (shape 0 false)) tCp (.cp2d 11 1 2 7 at0) .copyCommandInvalid 0 0 = true := by decide +kernel
theorem witness_copy_members : Admits (sCp 0 [0x210000, 0xFF00000000000000]) tCp (.cpm 11 1 7 3 at0 1) ∧
    okThen (descLoad (sCp 0 [0x210000, 0xFF00000000000000]) ⟨here, tCp, 12, (Instr.cpm 11 1 7 3 at0 1).word0⟩ 0x200400 2) (fun l _ => decide (l = [0x210000, 0xFF00000000000000])) = true ∧
    windowOf here.core 0x210000 = .global ∧ fits (.cpm 11 1 7 3 at0 1) [(0x200000, 64, 1), (0x210000, 64, 1), (0xFF00000000000000, 64, 1)] = true := by decide +kernel

/-! Copy events. -/

/-- A command on stream 1 with pages that its engine translates; page 0x22 may not be read, page 0x23 is away. -/
def one (fn : Nat) (a b : Word) (start : Nat) : Copy := { queued 1 8 fn with a := a, b := b, w := 64, h := 1, pl := 1, start := start, tag := some 5 }
def sEv (q : Copy) : State :=
  let s := updCore (talk (hand [])) here.core (fun k => { k with copies := [q, queued 2 8 5], tagA := 0x20, tls := k.tls.setIfInBounds 1 ⟨9, 7, [], false, 0⟩ })
  let s := setClus s 0 0 { getClus s 0 0 with engTlb := [(0, page 0x20 0x100000), (0, page 0x21 0x110000), (0, { page 0x22 0x120000 with r := false })] }
  { s with mem := memStore [] 0x100000 (leBytes 8 0x1122334455667788), cys := { s.cys with now := 20000000 }, access := ((4, 0, 1), 15) :: s.access }
def startedS (q : Copy) : State := sEv { q with start := if q.start = 0 then 20000000 else q.start }
theorem witness_copy_block : [(one 0 0x200000 0x210000 0), (one 5 0x1122334455667788 0x210000 7)].all (fun q => decide (copyOf (sEv q) here.core 1 8 = some q) &&
      decide (0 < copyMembers q) && decide ((copyBlocks q 0)[0]? = some [(if q.fn = 5 then q.b else q.a, q.b, 64)]) && !blockOver q 0 0 && copyMayStart (sEv q) here.core q) = true ∧
    isOk (copyPlace (startedS (one 0 0x200000 0x210000 7)) here.core (one 0 0x200000 0x210000 7) 0x200000 64 .load .copySourceFault) (.here (.mem 0x100000), startedS (one 0 0x200000 0x210000 7)) = true ∧
    isOk (copyPlace (startedS (one 0 0x200000 0x210000 7)) here.core (one 0 0x200000 0x210000 7) 0x210000 64 .store .copyDestFault) (.here (.mem 0x110000), startedS (one 0 0x200000 0x210000 7)) = true ∧
    Memory.wf (sEv (one 0 0x200000 0x210000 7)).mem = true := by decide +kernel
theorem test_copy_block : nextIs (exec (.copyBlock here.core 1 8 0 0) (sEv (one 0 0x200000 0x210000 0))) (fun s => decide (leWord (memBytes s.mem 0x110000 8) = 0x1122334455667788) &&
    (match copyOf s here.core 1 8 with | some y => decide (y.done = [(0, 0)] ∧ y.bytes = 64 ∧ y.start = 20000000) | none => false)) = true := by decide +kernel
theorem witness_copy_fails : (match copyPlace (startedS (one 0 0x220000 0x210000 7)) here.core (one 0 0x220000 0x210000 7) 0x220000 64 .load .copySourceFault with
      | .error (.fail _, s) => decide (s = startedS (one 0 0x220000 0x210000 7)) | _ => false) = true ∧
    (let s := setDom (startedS (one 0 0x900000 0x210000 7)) 1 { getDom (sEv (one 0 0 0 7)) 1 with trarea := 0 }
     (match copyPlace s here.core (one 0 0x900000 0x210000 7) 0x900000 64 .load .copySourceFault with
      | .error (.absent _ _, s2) => decide (s2.cores = s.cores ∧ s2.doms = s.doms ∧ s2.mem = s.mem ∧ s2.cys = s.cys ∧ areaBase (getDom s 1).trarea = 0) | _ => false) = true) := by decide +kernel

/-- A `cpm` block reads page 0x200 of its source first; the same page was read before. -/
def qM (src : List (Nat × List (Byte × Bool) × List Nat)) : Copy := { one 3 0x200000 0 7 with members := [0x210000], src := src }
def dat8 : List (Byte × Bool) := (leBytes 64 0x99).map (fun b => (b, false))
theorem witness_copy_members_block : [qM [], qM [(0x200, dat8, [])]].all (fun q => decide (copyOf (sEv q) here.core 1 8 = some q) && decide (copyMembers q = 1) &&
      decide ((copyBlocks q 0)[0]? = some [(0x200000, 0x210000, 64)]) && !blockOver q 0 0 && copyMayStart (sEv q) here.core q) = true ∧
    isOk (copyPlace (startedS (qM [])) here.core (qM []) 0x200000 64 .load .copySourceFault) (.here (.mem 0x100000), startedS (qM [])) = true ∧
    [(qM [], 0x1122334455667788), (qM [(0x200, dat8, [])], 0x99)].all (fun x => nextIs (exec (.copyBlock here.core 1 8 0 0) (sEv x.1)) (fun s =>
      decide (leWord (memBytes s.mem 0x110000 8) = x.2))) = true := by decide +kernel
/-- A page of this package that the engine of the first cluster holds open. -/
def openPage (s : State) (q : Copy) (va : Word) (a : Acc) (e : TlbEntry) : Bool :=
  (accessBits s 4 (0 * 20 + 0 * 2 + q.engine) q.who.dom).getLsbD (accBit a) && decide (windowOf here.core va = .global) &&
    decide ((((getClus s 0 0).engTlb.filter (fun (x : Nat × TlbEntry) => x.1 == q.engine)).map (fun x => x.2)).find? (tlbHit q.who.dom (va.toNat / 65536)) = some e) &&
    (permFault e (privNum q.who.priv) a).isNone && decide (e.loc = 0) && frameExists s (paOf e va) && homeAdmits s (paOf e va) q.who.dom a
theorem copyPlace_open {s s0 : State} {q : Copy} {va : Word} {n : Nat} {a : Acc} {side : Cause} {e : TlbEntry} (hc : s.clusters = s0.clusters)
    (ha : s.access = s0.access) (hx : s.cxl = s0.cxl) (h : openPage s0 q va a e = true) : copyPlace s here.core q va n a side = .ok (.here (.mem (paOf e va)), s) := by
  simp only [openPage, Bool.and_eq_true, decide_eq_true_eq, Option.isNone_iff_eq_none] at h
  obtain ⟨⟨⟨⟨⟨⟨h1, h2⟩, h3⟩, h4⟩, h5⟩, h6⟩, h7⟩ := h
  have e1 (k i d : Nat) : accessBits s k i d = accessBits s0 k i d := by simp [accessBits, ha]
  have e2 : getClus s 0 0 = getClus s0 0 0 := by simp [getClus, hc]
  have e3 : homeAdmits s (paOf e va) q.who.dom a = true := by simpa [homeAdmits, e1] using h7
  have e4 : tlbLookup s ⟨here.core, some q.engine, false, q.who.dom, privNum q.who.priv⟩ (va.toNat / 65536) = some (e, s) := by
    simp only [tlbLookup, here, computeId, e2] at h3 ⊢
    simp [h3]
  have e5 : (accessBits s 4 (here.core.die * 20 + here.core.clus * 2 + q.engine) q.who.dom).getLsbD (accBit a) = true := by
    rw [e1]; exact h1
  have e6 : frameExists s (paOf e va) = true := by
    simp only [frameExists, tierBytes, tierPorts, hx] at h6 ⊢
    exact h6
  simp [copyPlace, h2, e4, h4, h5, e6, e3, e5]
theorem copy_place_tlb (z : List (Byte × Bool)) : copyPlace (updCopy (startedS (qM [])) here.core 1 8 (fun q => { q with src := aset q.src 0x200 (z, []) })) here.core (qM []) 0x210000 64 .store
      .copyDestFault = .ok (.here (.mem 0x110000), updCopy (startedS (qM [])) here.core 1 8 (fun q => { q with src := aset q.src 0x200 (z, []) })) := by
  exact copyPlace_open (e := page 0x21 0x110000) (s0 := startedS (qM [])) rfl rfl rfl (by decide +kernel)
theorem witness_copy_timeouts : let q := { one 0 0x200000 0x210000 7 with paused := some ⟨0, 0, 10000000, 0x200000, false, 0, none⟩ }
    let rq : Req := ⟨5, 0x40, mkPkt State.reset 0 0 0 0 0 .none [], some 3, 1, 19900000, 19900000, here.core, 1, 8, 0, 0, 1⟩
    let s := { sEv (one 0 0x200000 0x210000 7) with reqs := [rq] }
    copyOf (sEv q) here.core 1 8 = some q ∧ 10000000 + 10000000 ≤ (sEv q).cys.now ∧
    s.reqs.find? (fun r => r.core == here.core && r.strm == 1 && r.num == 8 && r.dst.isSome && decide (r.first + 100000 ≤ s.cys.now)) = some rq ∧ (pathOf s rq.gpn).holding = [] := by decide +kernel
theorem witness_copy_signal : ∀ kind ∈ [0, 1], let q := { one 6 77 0 0 with kind := kind, payload := 0x12 }
    copyOf (sEv q) here.core 1 8 = some q ∧ blockOver q 0 0 = false ∧ copyMayStart (sEv q) here.core q = true := by decide +kernel
theorem witness_copy_complete : let q := { one 0 0x200000 0x210000 7 with done := [(0, 0)] }
    allBlocks q = [(0, 0)] ∧ q.tag = some 5 ∧ (tlOf (getCore (sEv q) here.core) 1).value + 1 = 8 ∧ (tlOf (getCore (sEv q) here.core) 1).ahead = [] ∧
    nextIs (exec (.copyComplete here.core 1 8) (sEv q)) (fun s => decide ((getCore s here.core).tagR = 0x20 ∧ (getCore s here.core).tagA = 0 ∧ (tlOf (getCore s here.core) 1).value = 8)) = true := by
  decide +kernel

/-- A record in the own scratchpad; a block failed. -/
def qRec : Copy := { one 0 0x200000 0x210000 7 with done := [(0, 0)], hasRec := true, recAddr := 0xFF00000000000040 }
def qFail : Copy := { one 0 0x200000 0x210000 7 with fails := [(0, 0, .copySourceFault)] }
theorem witness_copy_record : (sEv qRec).memWf = true ∧ windowOf here.core qRec.recAddr = .spad here.core true 0x40 ∧ windowOf here.core (qRec.recAddr + 64) = .spad here.core true 0x80 ∧
    spadFault (sEv qRec) 1 here.core true 0x40 128 = none ∧ (accessBits (sEv qRec) 4 (here.core.die * 20 + here.core.clus * 2 + qRec.engine) 1).getLsbD 1 = true ∧
    nextIs (exec (.copyComplete here.core 1 8) (sEv qRec)) (fun s => decide (leWord (memBytes (getCore s here.core).spad 0x68 8) = 0x8080000000000000 ∧
      leWord (memBytes (getCore s here.core).spad 0x60 8) = 8 ∧ (getCore s here.core).tagR = 0x20)) = true := by decide +kernel
theorem witness_copy_failed : (∀ y ∈ allBlocks qFail, blockOver qFail y.1 y.2 = true) ∧ (∀ f ∈ qFail.fails, f.1 < 16) ∧
    nextIs (exec (.copyComplete here.core 1 8) (sEv qFail)) (fun s => decide ((tlOf (getCore s here.core) 1).err = true ∧ (getCore s here.core).tagR = 0x20)) = true := by decide +kernel

end Sys2Proof.Tests
end

