-- ==== Sys2Proof/Tests/Fabric.lean ====
section
/-! SUPPORT. Witnesses and tests of the statements on packets and on the fabric's time limits. -/

namespace Sys2Proof.Tests

set_option Elab.async false

open Sys2Proof.Machine Sys2Proof.Says

/-! Packets. -/

/-- A packet from package 7 for this one, and its payload in doublewords; types without a request id have none. -/
def pkt (vc type rid : Nat) (payload : List Byte) : Packet :=
  let l := padStep payload
  { dst := 0, src := 7, vc := BitVec.ofNat 3 vc, type := BitVec.ofNat 5 type, len := BitVec.ofNat 8 (l.length / 32), rid := if noRid type then 0 else BitVec.ofNat 16 rid, rt := 0, hops := 0,
    rdr := 0, srcid := 0x10, born := 19, cause := 0, resv := false, payload := l, badLines := [] }
def words (l : List Nat) : List Byte := l.flatMap (leBytes 8)

/-- A request for `n` bytes at an address: header, two operands, data. -/
def request (type gba n fn : Nat) (data : List Byte) : Packet := pkt 0 type 9 (if type = 2 then reqPayload gba n fn (n == 8) 5 6 data else reqPayload gba n 0 false 0 0 data)

/-- This package holds page 0x40 at frame 0x100000; the gateway and the home slice admit domain 1. -/
def sFab : State :=
  let s := { lab (hand []) with frames := [(0x40, (0, 0x100000))], access := [((0, 0, 1), 15), ((0, 57, 1), 15), ((1, 0, 1), 15)], cys := { State.reset.cys with now := 20000 }, powered := true, boot := { State.reset.boot with stage := 8 } }
  { s with mem := memStore s.mem 0x100000 (leBytes 8 0x0807060504030201) }

/-- `serves`, in a form that computes. -/
def serveB (s : State) (p : Packet) (a : Acc) (bit n pa : Nat) : Bool :=
  let gba := (pktWord p 0).toNat
  decide (reqOk s p = true ∧ n = bitsOf (pktWord p 1) 0 13 ∧ s.migs = [] ∧ isOwner s (pageKey s (gba / 65536)) = true ∧ p.hops = 0) &&
  decide (pa = frameOfUnit s (gba / 65536) + gba % 65536) && decide (frameExists s pa = true ∧ pa % 65536 + n ≤ 65536 ∧ (∀ k < n, tierDead s (pa + k) = false) ∧ (accessBits s 1 p.port (srcDom p.srcid)).getLsbD bit = true ∧
    homeAdmits s pa (srcDom p.srcid) a = true ∧ s.memBad = [] ∧ s.memPois = [] ∧ s.memWf = true)
theorem serveB_serves {s : State} {p : Packet} {a : Acc} {bit n pa : Nat} (h : serveB s p a bit n pa = true) : serves s p a bit n pa := by
  unfold serveB at h
  simp only [Bool.and_eq_true, decide_eq_true_eq] at h
  obtain ⟨⟨⟨h1, h2, h3, h4, h5⟩, h6⟩, h7⟩ := h
  exact ⟨h1, h2, h3, h4, h5, h6, h7⟩
theorem witness_read : passes sFab (request 0 0x400000 4 0 []) 0 0 ∧ serves sFab (request 0 0x400000 4 0 []) .load 0 4 0x100000 :=
  ⟨by simp only [passes]; decide +kernel, serveB_serves (by decide +kernel)⟩
theorem witness_write : passes sFab (request 1 0x40FFFF 1 0 [0xAB]) 0 1 ∧ serves sFab (request 1 0x40FFFF 1 0 [0xAB]) .store 1 1 0x10FFFF ∧
    sFab.halves = [] ∧ (request 1 0x40FFFF 1 0 [0xAB]).len.toNat = 1 + (1 + 31) / 32 :=
  ⟨by simp only [passes]; decide +kernel, serveB_serves (by decide +kernel), rfl, by decide +kernel⟩
/-- A part of a write, with one step more than its bytes need: it is kept until the last part comes (log 74). -/
def part (gba n : Nat) (l : List Byte) (more : Bool) : Packet := request 1 gba n 0 (padStep l ++ List.replicate (if more then 32 else 0) 0)
theorem witness_write_part : passes sFab (part 0x400000 4 [1, 2, 3, 4] true) 0 1 ∧ reqOk sFab (part 0x400000 4 [1, 2, 3, 4] true) = true ∧ sFab.halves = [] ∧
    1 + (bitsOf (pktWord (part 0x400000 4 [1, 2, 3, 4] true) 1) 0 13 + 31) / 32 < (part 0x400000 4 [1, 2, 3, 4] true).len.toNat := by
  simp only [passes]
  decide +kernel
theorem test_write_parts : nextIs (exec (.pktWrite (part 0x400000 4 [1, 2, 3, 4] true)) sFab) (fun s => s.out.isEmpty && decide (s.mem = sFab.mem) &&
    nextIs (exec (.pktWrite (part 0x400004 2 [9, 8] false)) s) (fun s => s.halves.isEmpty && decide (memBytes s.mem 0x100000 8 = [1, 2, 3, 4, 9, 8, 7, 8] ∧ s.out.length = 1))) = true := by
  decide +kernel
theorem witness_atomic : passes sFab (request 2 0x400000 8 2 []) 0 2 ∧ serves sFab (request 2 0x400000 8 2 []) .atomic 2 8 0x100000 ∧ (request 2 0x400000 8 2 []).rt = 0 ∧
    sFab.seen = [] := ⟨by simp only [passes]; decide +kernel, serveB_serves (by decide +kernel), rfl, rfl⟩
/-- The atomic comes again: its id is in the cache, or was dropped from it. -/
def again (rid : Nat) : Packet := { request 2 0x400000 8 2 [] with rt := 1, rid := BitVec.ofNat 16 rid }
def sHau : State := { sFab with hau := [⟨hauSrc (again 9), 9, [⟨9, 0x400000, 0x77, true⟩], [⟨7, 0x400000, 0x88, false⟩]⟩] }
theorem witness_atomic_again : (∀ rid ∈ [9, 8], reqOk sHau (again rid) = true) ∧ (again 9).rt = 1 ∧
    sHau.hau.find? (fun h => h.src == hauSrc (again 9)) = some ⟨hauSrc (again 9), 9, [⟨9, 0x400000, 0x77, true⟩], [⟨7, 0x400000, 0x88, false⟩]⟩ ∧
    serveB sHau (again 9) .atomic 2 8 0x100000 = true ∧ serveB sHau (again 8) .atomic 2 8 0x100000 = true ∧
    nextIs (exec (.pktAtomic (again 9)) sHau) (fun s => decide (s.out.map (fun q => (q.type, pktWord q 0, q.badLines)) = [(9, 0x77, [0])])) = true := by decide +kernel
theorem test_read : nextIs (exec (.pktRead (request 0 0x400000 4 0 [])) sFab) (fun s => decide (s.out.map (fun q => (q.dst, q.vc, q.type, q.rid, q.payload.take 4)) =
    [(7, 1, 8, 9, [1, 2, 3, 4])])) = true := by decide +kernel
theorem test_atomic : nextIs (exec (.pktAtomic (request 2 0x400000 8 0 [])) sFab) (fun s => decide (s.out.map (fun q => (q.type, pktWord q 0)) = [(9, 0x0807060504030201)] ∧
    leWord (memBytes s.mem 0x100000 8) = 0x0807060504030206)) = true := by decide +kernel

/-- A page homed at package 9 that another package owns: no stub, a stub, a stub at the end of a chain. -/
def far : Nat := 9 * 2 ^ 36 + 0x77
def farAsk (type hops : Nat) : Packet := { request type (far * 65536 + 8) 8 0 (List.replicate 8 1) with hops := BitVec.ofNat 2 hops }
def stubTo (st : StubState) (pending : List Nat) : Stub := ⟨far, 33, st, false, pending, 0, 0⟩
def sFar (stubs : List Stub) (access : List ((Nat × Nat × Nat) × BitVec 4)) : State := { sFab with stubs := stubs, access := access }
theorem witness_bounce : (∀ type ∈ [0, 1, 2], ∀ hops ∈ [0, 1, 2], reqOk sFab (farAsk type hops) = true) ∧ (∀ hops ∈ [0, 1, 2], (farAsk 1 hops).len.toNat = 1 + (8 + 31) / 32) ∧ (accessBits (sFar [] []) 1 0 1) = 0 ∧
    srcDom (farAsk 0 0).srcid = 1 ∧ accessBits (sFar [] sFab.access) 1 0 1 = 15 ∧ sFab.migs = [] ∧ isOwner sFab (pageKey sFab far) = false ∧
    pageKey (sFar [stubTo .relay []] []) far = far ∧ isOwner (sFar [stubTo .relay []] []) far = false := by decide +kernel
theorem witness_bounce_passes : ∀ type ∈ [0, 1, 2], ∀ hops ∈ [0, 1, 2], passes sFab (farAsk type hops) 0 type := by
  simp only [passes]
  decide +kernel

/-- Queries and migrations at the home (page 0x50), and at an owner of a page homed elsewhere. -/
def q3 (g kind a b : Nat) : Packet := pkt 0 4 9 (words [g, kind, a, b])
def mig (g step : Nat) (pulling : Bool) (who : Option StrandRef) : Migration := ⟨g, 0, pulling, step, 7, 0x200000, who, [], [], false, 0, 0x100000, 0, 0⟩
def owns : State := { sFab with owned := [far], frames := [(far, (0, 0x100000))] }
theorem witness_directory : gpnHome 0x50 = sFab.pkg ∧ gpnHome far ≠ sFab.pkg ∧ (dirOf sFab 0x50).owner ≠ 7 ∧ (dirOf sFab 0x50).migrating = false ∧ (dirOf sFab 0x50).waiting = [] ∧
    (dirOf { sFab with dir := [(0x50, ⟨3, true, [], false, [4]⟩)] } 0x50).migrating = true := by decide +kernel
theorem witness_directory_packets : (∀ g ∈ [0x50, far], passes sFab (pkt 0 3 9 (words [g])) 0 3) ∧ (∀ kind ∈ [0, 4], passes sFab (q3 0x50 kind 0 0) 0 4) := by
  simp only [passes]
  decide +kernel
theorem witness_migration : (∀ kind ∈ [1, 5, 8], passes owns (q3 far kind 88 0) 0 4) ∧ owns.migs = [] ∧ isOwner owns far = true ∧ owns.stubs.length < 65536 ∧
    frameOfUnit owns far = 0x100000 ∧ (mig far 3 false none).queue = [] ∧ (q3 far 5 88 0).payload.length = 32 ∧ (pktWord (q3 far 5 88 0) 3).getLsbD 0 = false ∧
    ({ owns with migs := [mig far 3 false none] }.migs).find? (fun y => !y.pulling && y.gpn == far) = some (mig far 3 false none) ∧
    [mig far 5 true (some here)].find? (fun y => y.pulling && y.gpn == far && y.step == 5) = some (mig far 5 true (some here)) := by
  simp only [passes]
  decide +kernel
theorem witness_stub_table_full (n : Nat) (h : 65536 ≤ n) : 65536 ≤ ({ owns with stubs := List.replicate n (stubTo .relay []) } : State).stubs.length :=
  Nat.le_trans h (Nat.le_of_eq List.length_replicate.symm)
def tAns : Strand := { hand [] with status := .waiting (.answer far), phase := some (.pulling none) }
theorem witness_migration_answered : getStrand (lab tAns) here = some tAns ∧ tAns.phase = some (.pulling none) ∧ { mig far 5 true (some here) with uid := 1 }.uid = tAns.uid := by decide +kernel
/-- The directory has an entry for page 0x50; it is full of others. -/
def sDir : State := { sFab with dir := [(0x50, ⟨0, false, [], false, []⟩)] }
def sFull : State := { sFab with dir := List.replicate Config.directoryMax (0x51, ⟨0, false, [], false, []⟩) }
theorem witness_directory_room : dirRoom sDir 0x50 = true ∧ pageKey sDir 0x50 = 0x50 := by decide +kernel
theorem witness_directory_full : dirRoom sFull 0x50 = false ∧ (dirOf sFull 0x50).owner = 0 ∧ gpnHome 0x50 = sFull.pkg := by
  have h : ∀ n, aget (List.replicate n ((0x51 : Nat), (⟨0, false, [], false, []⟩ : DirEntry))) 0x50 = none := by
    intro n
    induction n with
    | zero => rfl
    | succ n ih => simpa [List.replicate_succ, aget] using ih
  refine ⟨by simp [dirRoom, sFull, h], ?_, rfl⟩
  have : aget sFull.dir 0x50 = none := h _
  simp only [dirOf, this]
  rfl
theorem test_directory : nextIs (exec (.pktDirq (pkt 0 3 9 (words [0x50]))) sDir) (fun s => decide (s.out.map (fun q => (q.vc, q.type, pktWord q 2)) = [(1, 11, 0)])) = true ∧
    nextIs (exec (.pktDirq (pkt 0 3 9 (words [far]))) sFab) (fun s => decide (s.out.map (fun q => (q.type, q.cause.toNat)) = [(10, causeCode .ownerLookupFailed)])) = true := by
  decide +kernel
theorem test_relay : ends (exec (.pktRead (farAsk 0 1)) (sFar [stubTo .relay []] sFab.access))
    { sFar [stubTo .relay []] sFab.access with out := [{ farAsk 0 1 with dst := 33, hops := 2 }] } = true := by decide +kernel

/-- An invalidation, with nothing and with a request in flight on the path; a page's answers. -/
theorem witness_invalidation : passes sFab (pkt 0 5 9 (words [far])) 0 5 ∧ (pathOf sFab far).inFlight = 0 ∧
    (pathOf { sFab with paths := [⟨far, 2, [], false, [3]⟩] } far).inFlight ≠ 0 := by
  simp only [passes]
  decide +kernel

/-- A copy's request of nine bytes is out; the command has one block answered. -/
def rqOf (type strm : Nat) : Req := ⟨5, far, { request type (far * 65536) 9 0 [] with rid := 4 }, some 7, 4, 19000, 19000, here.core, strm, 8, 0, 0, 3⟩
def cpOut : Copy := { Copy.blank ⟨1, 5, 1, .h, 0x1000, 3⟩ with strm := 1, num := 8, got := [⟨1, 1, 1, true, []⟩] }
def sOut (type strm : Nat) : State := updCore { sFab with reqs := [rqOf type strm], oc := [(far, 7)] } here.core (fun k => { k with copies := [cpOut] })
def answer (type : Nat) (c : Cause) : Packet := { pkt 1 type 4 (List.replicate 32 1) with cause := BitVec.ofNat 7 (causeCode c) }
theorem witness_answers : (∀ type ∈ [8, 9, 10], passes (sOut 0 1) (answer type .none) 1 type) ∧
    (∀ strm ∈ [1, 64], reqOf (sOut 0 strm) (answer 8 .none) = some (rqOf 0 strm) ∧ (pathOf (sOut 0 strm) far).holding = [] ∧ (sOut 0 strm).reqs = [rqOf 0 strm]) ∧
    (answer 8 .none).rdr = 0 ∧ copyOf (sOut 0 1) here.core 1 8 = some cpOut ∧ cpOut.fails = [] ∧ (sOut 0 1).deadLinks = [] := by
  simp only [passes]
  decide +kernel
theorem witness_answer_causes : ∀ c ∈ [Cause.uncorrectableData, .migrationChain, .atomicIndeterminate, .accessTableDenied, .linkDead, .ownerLookupFailed],
    (answer 10 c).cause.toNat = causeCode c ∧ (answer 10 c).cause ≠ 0 := by decide +kernel
theorem test_data : nextIs (exec (.pktData (answer 8 .none)) (sOut 0 1)) (fun s => s.reqs.isEmpty && decide ((copyOf s here.core 1 8).map (fun y => y.got.length) = some 2)) = true := by
  decide +kernel
theorem witness_owner_answer : passes sFab (pkt 1 11 4 (words [far, 0, 77])) 1 11 ∧ passes sFab (pkt 1 11 4 (words [far, 2, 77])) 1 11 ∧ (∃ l ∈ { sFab with lookups := [(far, 5)] }.lookups, l.1 = far) ∧
    (pathOf { sFab with lookups := [(far, 5)] } far).holding = [] ∧
    [mig far 1 true none].find? (fun y => y.pulling && y.gpn == far && y.step == 1) = some (mig far 1 true none) ∧ 77 ≠ sFab.pkg ∧ 77 ∉ sFab.deadLinks := by
  simp only [passes]
  decide +kernel
theorem witness_ack : passes sFab (pkt 1 12 4 (words [far])) 1 12 ∧ (∀ k ∈ (stubTo .relay [7, 7]).pending, k = 7) ∧ (stubTo .held [7]).st ≠ .quiet := by
  simp only [passes]
  decide +kernel

/-- R376: the check value of the standard's test string; a packet read from its flits, its damaged line found. -/
theorem test_crc : crc32c [0x31, 0x32, 0x33, 0x34, 0x35, 0x36, 0x37, 0x38, 0x39] = 0xE3069283 := by decide +kernel
theorem test_wire : readPacket 0 (flitBytes (request 1 0x400000 4 0 [1, 2, 3, 4])) = some (request 1 0x400000 4 0 [1, 2, 3, 4]) ∧
    (readPacket 3 (flitBytes { pkt 2 16 5 (List.replicate 96 7) with badLines := [1] })).map (fun p => (p.badLines, p.port)) = some ([1], 3) ∧
    (flitBytes (request 1 0x400000 4 0 [1, 2, 3, 4])).length = 128 := by decide +kernel

/-! Messages, gangs, reductions and time. -/

/-- The header's faults: a reserved bit, three hops, another package's, a wrong length, type or channel; too old. -/
def hello : Packet := pkt 0 0 5 (List.replicate 64 0)
theorem witness_header : { hello with resv := true }.resv = true ∧ { hello with hops := 3 }.hops = 3 ∧ { hello with dst := 5 }.dst.toNat ≠ sFab.pkg ∧
    { hello with len := 5 }.payload.length ≠ 32 * 5 ∧ hello.payload.length = 32 * hello.len.toNat ∧ { hello with type := 30 }.type.toNat ≠ 0 ∧
    { hello with vc := 7 }.vc.toNat ≠ 0 ∧ noRid 3 = true ∧ hello.rid ≠ 0 ∧ 128 < { hello with len := 129 }.len.toNat ∧ sFab.powered = true ∧
    7 ≤ sFab.boot.stage ∧ ends (exec (.pktRead hello) { sFab with boot := State.reset.boot }) { sFab with boot := State.reset.boot } = true := by decide +kernel
theorem witness_too_old : 24 ≤ (sFab.cys.now / 1024 % 4096 + 4096 - ({ hello with born := 4090 }.born.toNat)) % 4096 ∧ hello.resv = false ∧ hello.hops ≠ 3 ∧
    hello.dst.toNat = sFab.pkg ∧ hello.len.toNat ≤ 128 := by decide +kernel
theorem test_too_old : ends (exec (.pktRead { hello with born := 4090 }) sFab) { sFab with discards := 1 } = true := by decide +kernel

/-- A message that waits at another package. -/
def away0 (id : Nat) : Flight := ⟨id, 1, ⟨77, 5, 9, 0x50000010000, false, 0, false⟩, 1, false, none, 0, here.core, true, none, 0⟩

/-- Three messages toward package 7 stand unacknowledged. -/
def unacked (n : Nat) : VcPacket := ⟨pkt 2 16 n [], 40 + n, 5, 6⟩
def sVc : State := { sFab with vcOut := [⟨9, 1, [], false, false, []⟩, ⟨7, 9, [unacked 2, unacked 3, unacked 4], false, true, []⟩] }
theorem witness_mack : passes sVc (pkt 1 13 3 []) 1 13 ∧ (vcOf sVc 7).synced = true ∧ (vcOf sVc 7).waiting = [] ∧ unacked 2 ∈ (vcOf sVc 7).unacked ∧
    ¬ (1 ≤ ((unacked 2).p.rid.toNat + 65536 - 3) % 65536 ∧ ((unacked 2).p.rid.toNat + 65536 - 3) % 65536 < 32768) := by
  simp only [passes]
  decide +kernel
theorem witness_mack_away : nextIs (exec (.pktMack (pkt 1 13 3 [])) { sVc with away := [away0 42, away0 44] }) (fun s => decide (s.away.map (fun f => f.id) = [44])) = true := by decide +kernel
theorem test_mack : nextIs (exec (.pktMack (pkt 1 13 3 [])) sVc) (fun s => decide ((vcOf s 7).unacked = [unacked 4])) = true := by decide +kernel

/-- The next number expected of package 7 is 5; messages for domain 1, a report channel's among them; not in turn. -/
def record (h : Nat) : List Byte := leBytes 32 77 ++ words [99, 0x22, h, 5]
def sIn : State := { areas sFab with vcIn := [(7, 5)] }
theorem witness_message : (∀ h ∈ [0x30000000000, 0x50000010000], passes sIn (pkt 2 16 5 (record h)) 2 16) ∧ passes sFab (pkt 2 19 5 []) 2 19 ∧
    aget sIn.vcIn 7 = some 5 ∧ (accessBits sIn 1 0 (srcDom hello.srcid)).getLsbD 3 = true ∧ aget sFab.vcIn 7 = none := by
  simp only [passes]
  decide +kernel
theorem witness_out_of_turn : (∀ type ∈ [16, 17, 18], ∀ rid ∈ [6, 4, 65535], passes sIn (pkt 2 type rid (record 0)) 2 type) ∧
    (1 ≤ (6 + 65536 - 5) % 65536 ∧ (6 + 65536 - 5) % 65536 < 32768) ∧ ¬ (1 ≤ (4 + 65536 - 5) % 65536 ∧ (4 + 65536 - 5) % 65536 < 32768) := by
  simp only [passes]
  decide +kernel
theorem test_message : nextIs (exec (.pktMsg (pkt 2 16 5 (record 0x50000010000))) sIn) (fun s => decide (s.flight.map (fun f => f.m.payload) = [77] ∧
    s.out.map (fun q => (q.vc, q.type, q.rid)) = [(1, 13, 5)] ∧ aget s.vcIn 7 = some 6)) = true := by decide +kernel

/-- A gang's gangCard: a frame of two vector registers, body, arguments, one item, a start time, the parent's handle. -/
def gangCard (dead : Nat) : List Nat := [2 * 2 ^ 8, 0x4000, 0, 0x9000, 16, 1, 0, 0, 0, 0, 0, 30000] ++ List.replicate 20 0 ++ [0x55, 66, 0x123, dead]
def sGang : State := updCore sIn here.core (fun k => { k with pword := 0x040404 })
theorem witness_gang : passes sGang (pkt 2 17 5 (words (gangCard 21000))) 2 17 ∧ 288 ≤ (pkt 2 17 5 (words (gangCard 21000))).payload.length ∧ freeJob sGang = some 0 ∧
    coreSet sGang 1 0 0 = [here.core] ∧ frameTooBig sGang 2 0 0 here.core = false ∧ bitsOf (pktWord (pkt 2 17 5 (words (gangCard 21000))) 0) 4 2 < 2 ∧ sGang.cys.now < 21000 ∧ sGang.cys.now < 30000 ∧ pktWord (pkt 2 17 5 (words (gangCard 21000))) 11 = 30000 ∧
    bitsOf (pktWord (pkt 2 17 5 (words (gangCard 21000))) 5) 0 40 = 1 := by
  simp only [passes]
  decide +kernel
def theJob (st : JobState) (ms : Option (List Member)) : Job :=
  { gen := 3, dom := 1, st := st, prio := 0, priv := .h, v := 0, a := 0, t := 0, body := 0x1000, sbase := 0, sstride := 0, args := 0, astride := 0, count := 20,
    clmask := 1, cmask := 1, donech := 0, after := none, start := 0, ranges := [], undealt := [(4, 9)], dealer := none, ended := 0, never := 0,
    outstanding := 0, cause := .none, late := 0, issuer := 0, issued := 0, order := 3, gang := ms, card := [], parent := some (7, 0x123), cancelled := false, ending := [] }
def sGangJob (ms : Option (List Member)) : State := { sIn with jobs := [(5, theJob .dealing ms)] }
theorem witness_gang_card_late : passes sGang (pkt 2 17 5 (words (gangCard 19999))) 2 17 ∧ (pktWord (pkt 2 17 5 (words (gangCard 19999))) 35).toNat ≤ sGang.cys.now ∧
    (pktWord (pkt 2 17 5 (words (gangCard 20000))) 35).toNat ≤ sGang.cys.now ∧
    nextIs (exec (.pktGang (pkt 2 17 5 (words (gangCard 20000)))) sGang) (fun s => s.jobs.isEmpty) = true := by
  simp only [passes]
  decide +kernel
/-- Every entry of the job table is in use: the card waits. -/
theorem witness_gang_card_waits : freeJob { sGang with jobs := (List.range 4096).map (fun i => (i, theJob .held none)) } = none := by
  have h : ∀ (l : List Nat) (k : Nat), k ∈ l → aget (l.map (fun i => (i, theJob .held none))) k = some (theJob .held none) := by
    intro l
    induction l with
    | nil => simp
    | cons a t ih =>
      intro k hk
      by_cases e : a = k
      · simp [aget, e]
      · simpa [aget, e] using ih k (by simpa [Ne.symm e] using hk)
  unfold freeJob
  rw [List.find?_eq_none]
  simp only [List.mem_map, List.mem_range, forall_exists_index, and_imp]
  rintro _ i - rfl
  rw [h _ _ (List.mem_range.mpr (Nat.mod_lt _ (by decide)))]
  simp [theJob]
theorem witness_remote_cancel : let h := jobHandle (sGangJob none) 5 (theJob .dealing none)
    passes (sGangJob none) (pkt 2 17 5 (words [h.toNat, 2])) 2 17 ∧ jobOf (sGangJob none) h = some (5, theJob .dealing none) := by
  simp only [passes]
  decide +kernel
theorem witness_gang_cancel : passes (sGangJob none) (pkt 2 17 5 (words [0x123, 1])) 2 17 ∧ (pkt 2 17 5 (words [0x123, 1])).payload.length < 288 ∧
    (sGangJob none).jobs.find? (fun y => y.2.parent == some (7, 0x123)) = some (5, theJob .dealing none) ∧ (theJob .dealing none).gang = none := by
  simp only [passes]
  decide +kernel
def gack (w1 : Nat) : Packet := pkt 2 18 5 (words [(jobHandle (sGangJob none) 5 (theJob .dealing none)).toNat, w1, 44])
def gang2 : List Member := [⟨7, false, false, 0, 0⟩, ⟨8, true, false, 0, 0⟩]
theorem witness_gack : (∀ w1 ∈ [0, 1], passes (sGangJob (some gang2)) (gack w1) 2 18) ∧ bitsOf (pktWord (gack 1) 0) 0 12 = 5 ∧
    jobHandle (sGangJob (some gang2)) 5 (theJob .dealing (some gang2)) = pktWord (gack 1) 0 ∧ (∀ y ∈ gang2, y.pkg = 7 → y.done = false) ∧
    (∃ z ∈ gang2, z.pkg ≠ 7 ∧ z.done = false) := by
  simp only [passes]
  decide +kernel

/-- A reduction of three i32 sums of two members, its descriptor and its contributions. -/
def rdesc (fmt rch : Nat) : List Byte := words [fmt * 8 + 12 * 2 ^ 8 + 2 * 2 ^ 24 + 2 ^ 32, 0x1000, 5, 0x40, rch, 0, 0, 0] ++ leBytes 2 7 ++ leBytes 2 9
def theSlot (first : Nat) (acc : List Byte) (members : List (Nat × Nat)) : Slot := ⟨3, true, false, 1, .u, 2, 12, 5, 0, 100, 0, 0, members, acc, first, 0, 19950, false, false, 0, false, [], false, 0⟩
def sSlot (x : Slot) : State := { sFab with slots := [(3, x)] }
def two : List (Nat × Nat) := [(7, 0), (9, 1)]
def contrib (h : Word) (n : Nat) : Packet := pkt 3 21 5 (words [h.toNat, n, 0, 0] ++ leBytes 4 5 ++ leBytes 4 0xFFFFFFFF ++ leBytes 4 9)
theorem witness_reserve : passes sFab (pkt 3 20 5 (rdesc 5 0)) 3 20 ∧ 64 ≤ (pkt 3 20 5 (rdesc 5 0)).payload.length ∧ slotDescOk (rdesc 5 0 |>.take 64) = true ∧
    mlistOk [7, 9] = true ∧ elemsOf 2 ((rdesc 5 0).drop 64) 64 = [7, 9] ∧ ((slotOf sFab 0).used = false ∧ (slotOf sFab 0).ending = false ∧ (slotOf sFab 0).freed ≠ sFab.cycle + 1) ∧ slotDescOk (rdesc 0 0 |>.take 64) = false ∧
    bitsOf (wordAt (rdesc 5 0x10001) 4) 0 16 ≠ 0 ∧
    nextIs (exec (.pktResv (pkt 3 20 5 (rdesc 5 0x10001))) sFab) (fun s => decide (s.out.map (fun q => q.cause.toNat) = [causeCode .reductionSlotUnavailable])) = true := by
  simp only [passes]
  decide +kernel
theorem witness_contribution : passes (sSlot (theSlot 0 [] two)) (contrib (slotHandle (sSlot (theSlot 0 [] two)) 3 (theSlot 0 [] two)) 12) 3 21 ∧
    (accessBits (sSlot (theSlot 0 [] two)) 1 0 1).getLsbD 3 = true ∧ pktWord (contrib (slotHandle sFab 3 (theSlot 0 [] two)) 12) 0 = slotHandle sFab 3 (theSlot 0 [] two) ∧
    (contrib 0 12).len.toNat = 1 + (12 + 31) / 32 ∧ sFab.halves = [] ∧ 1 + (bitsOf (pktWord (contrib 0 0) 1) 0 13 + 31) / 32 < (contrib 0 0).len.toNat ∧ (∃ y ∈ two, y.1 = 7 ∧ y.2 < 2) ∧ sFab.cys.now < 19950 + 1000 * 100 ∧
    slotGet (sSlot (theSlot 0 [] two)) 0x77 = none := by
  simp only [passes]
  decide +kernel
/-- R384: 5 + 0xFFFFFFFF and so on, each modulo 2^32, onto what the slot holds. -/
theorem test_contribution : nextIs (exec (.pktContrib (contrib (slotHandle sFab 3 (theSlot 0 [] two)) 12)) (sSlot (theSlot 5 (leBytes 4 0xFFFFFFFF ++ leBytes 8 77) two)))
    (fun s => decide ((slotOf s 3).acc.take 4 = leBytes 4 4 ∧ (slotOf s 3).members = [(7, 1), (9, 1)])) = true := by decide +kernel
/-- No slot is free: the last completes still. -/
def sNone : State := { sFab with slots := (List.range 256).map (fun i => (i, { theSlot 0 [] two with used := decide (i ≠ 255), ending := decide (i = 255) })) }
theorem witness_no_slot : (∀ i < 256, (slotOf sNone i).used = true ∨ (slotOf sNone i).ending = true) ∧ slotAny (theSlot 0 [] two) = true ∧
    slotAny (theSlot 0 [] [(7, 0), (9, 0)]) = false ∧ slotFind sNone 0 1 = none := by decide +kernel
/-- R385: a contribution of the release's cycle still counts, one of a later cycle does not. -/
theorem test_released : ∀ c ∈ [0, 1], nextIs (exec (.pktContrib (contrib (slotHandle sFab 3 (theSlot 0 [] two)) 12))
      { sSlot { theSlot 5 (leBytes 4 0xFFFFFFFF ++ leBytes 8 77) two with used := false, freed := sFab.cycle + 1 } with cycle := sFab.cycle + c })
    (fun s => (slotOf s 3).members == (if c = 0 then [(7, 1), (9, 1)] else two)) = true := by decide +kernel
theorem witness_slot_release : passes (sSlot (theSlot 0 [] two)) (pkt 3 22 5 (words [(slotHandle sFab 3 (theSlot 0 [] two)).toNat])) 3 22 := by
  simp only [passes]
  decide +kernel
theorem witness_reduction_answer : (∀ c ∈ [Cause.none, .reductionSlotUnavailable], passes (sOut 0 1) { answer 8 c with vc := 3, type := 23 } 3 23 ∧
    reqOf (sOut 0 1) { answer 8 c with vc := 3, type := 23 } = some (rqOf 0 1)) := by
  simp only [passes]
  decide +kernel

/-- The time of package 7 is asked at 19,980 and answered. -/
def sTime (offsets : List Int) : State := { sFab with cys := { sFab.cys with t1 := some (7, 19980), offsets := offsets } }
theorem witness_time : passes sFab (pkt 4 28 5 (words [0, 77])) 4 28 ∧ passes (sTime [5, -10]) (pkt 4 28 5 (words [1, 19980, 19992, 19993])) 4 28 ∧
    (sTime []).cys.ref = false ∧ (sTime []).cys.locked = false ∧ pktWord (pkt 4 28 5 (words [1, 19980, 19992, 19993])) 1 = 19980 ∧
    passes sFab (pkt 4 29 5 []) 4 29 := by
  simp only [passes]
  decide +kernel
/-- R386, R387: (19992 - 19980) - (20000 - 19993) = 5 half nanoseconds, a step of 2 ns; the lock after two offsets within 10 ns. -/
theorem test_time : nextIs (exec (.pktTime (pkt 4 28 5 (words [1, 19980, 19992, 19993]))) (sTime [20, -20])) (fun s => s.cys.locked && decide (s.cys.last = 5 ∧ s.cys.now = 20002)) = true ∧
    nextIs (exec (.pktTime (pkt 4 28 5 (words [1, 19980, 19992, 19993]))) (sTime [21, 3])) (fun s => !s.cys.locked) = true := by decide +kernel

/-! Time limits. -/

/-- A miss at 5, with two strands that wait for it or not; the time of day. -/
def missed : Miss := ⟨0x40000001, 1, 0x77, 5, []⟩
def sMiss (now : Nat) : State := { setClus (lab { hand [] with status := .waiting (.miss 0x40000001) }) 0 0 { getClus (lab (hand [])) 0 0 with misses := [missed] } with
  cys := { State.reset.cys with now := now } }
theorem witness_miss_timeout : (getClus (sMiss 10000005) 0 0).misses.find? (fun y => y.token == 0x40000001) = some missed ∧
    missed.time + 10000000 ≤ (sMiss 10000005).cys.now ∧ (sMiss 10000004).cys.now < missed.time + 10000000 := by decide +kernel
theorem test_miss_timeout : nextIs (exec (.tlbMissTimeout 0 0 0x40000001) (sMiss (missed.time + 10000000))) (fun s => decide ((getStrand s here).map (fun t => t.status) = some .ready)) = true ∧
    ends (exec (.tlbMissTimeout 0 0 0x40000001) (sMiss (missed.time + 9999999))) (sMiss (missed.time + 9999999)) = true := by decide +kernel
theorem witness_frozen : [{ mig far 3 false none with queue := [(hello, 5, false)] }].find? (fun y => !y.pulling && y.gpn == far) =
    some { mig far 3 false none with queue := [(hello, 5, false)] } := by decide +kernel
def sLost : State := updCore { sFab with lookups := [(far, 5)], reqs := [{ rqOf 0 1 with dst := none }], paths := [⟨far, 0, [5], false, []⟩], cys := { State.reset.cys with now := 200000 } }
  here.core (fun k => { k with copies := [cpOut] })
theorem witness_lookup_timeout : aget sLost.lookups far = some 5 ∧ 5 + 100000 ≤ sLost.cys.now ∧ sLost.migs = [] ∧ (pathOf sLost far).holding = [5] ∧
    copyOf sLost here.core 1 8 = some cpOut := by decide +kernel
theorem witness_stub_timeout : ({ sFab with stubs := [stubTo .relay [7]] }.stubs).find? (fun y => y.gpn == far) = some (stubTo .relay [7]) ∧
    (stubTo .relay [7]).born + 10000000 ≤ 10000000 := by decide +kernel
theorem witness_retransmit : (vcOf { sVc with cys := { State.reset.cys with now := 30007 } } 7).unacked = [] ++ [unacked 2, unacked 3, unacked 4] ∧
    (unacked 2).last + 30000 ≤ 30007 ∧ (unacked 2).first + 1000000 ≤ 1000005 ∧ 7 ∉ sVc.deadLinks := by decide +kernel
theorem test_retransmit : nextIs (exec (.messageRetransmit 7) { sVc with cys := { State.reset.cys with now := 30007 } }) (fun s => decide (s.out.map (fun q => (q.rid, q.rt)) =
    [(2, 1), (3, 1), (4, 1)])) = true := by decide +kernel
def atomReq : Req := { rqOf 2 1 with p := { request 2 (far * 65536) 8 0 [] with rid := 4 } }
/-- Two sources have the same id: the one sent longer ago goes again. -/
theorem witness_atomic_sources : let q := { atomReq with uid := 6, last := 19001 }
    atomReq ∈ [atomReq, q] ∧ atomReq.last < q.last ∧ nextIs (exec (.remoteAtomicRetransmit 7 4) { sFab with reqs := [atomReq, q] }) (fun s =>
      decide (s.reqs.map (fun r => (r.uid, r.last)) = [(5, 20000), (6, 19001)])) = true := by decide +kernel
/-- The last message toward package 7 is given up after 1 ms. -/
def sGone : State := { areas sVc with vcOut := [⟨7, 9, [unacked 2], false, true, []⟩], away := [away0 42], cys := { State.reset.cys with now := 1000005 } }
theorem witness_give_up : (∃ y ∈ (vcOf sGone 7).unacked, y.first + 1000000 ≤ sGone.cys.now) ∧ (vcOf sGone 7).waiting = [] ∧ sGone.away.find? (fun z => z.id == 42) = some (away0 42) ∧
    nextIs (exec (.messageGiveUp 7) sGone) (fun s => s.away.isEmpty && decide ((getDom s 1).repseq = (getDom sGone 1).repseq + 1)) = true := by decide +kernel
theorem witness_atomic_retransmit : [atomReq].find? (fun y => y.p.type == 2 && y.dst == some 7 && y.rid == 4) = some atomReq := by decide +kernel
def sRed : State := { sSlot { theSlot 5 [] two with rch := 0x0003000005010000 } with cys := { State.reset.cys with now := 119950 } }
theorem witness_reduction_timeout : aget sRed.slots 3 = some { theSlot 5 [] two with rch := 0x0003000005010000 } ∧ 19950 + 1000 * 100 ≤ sRed.cys.now ∧
    sFab.cys.now < 19950 + 1000 * 100 := by decide +kernel

end Sys2Proof.Tests
end

