-- ==== Sys2Proof/Tests/Messages.lean ====
section
/-! SUPPORT. Witnesses and tests of the statements on channels, patterns, firings, launches and waits. -/

namespace Sys2Proof.Tests

set_option Elab.async false

open Sys2Proof.Machine Sys2Proof.Says

/-! Sends. -/

def tSend : Strand := hand [(1, 0x10000000000), (2, 0x22), (3, 0x33), (4, 0x44), (5, 0xFFFFFFFFFFFFFFFF), (6, 0x7FFFFFFF), (7, 0x80000000), (8, 5),
  (28, 8), (29, 9), (30, 10), (31, 11)]
def flying (n : Nat) : State := { lab tSend with flight := List.replicate n ⟨3, 1, ⟨0, 0, 0, 0, false, 0, false⟩, 1, false, none, 0, here.core, false, none, 0⟩ }
theorem witness_send : (∀ i ∈ [Instr.send 1 0, .send 1 28, .sendc 1 5, .sendc 1 6], Admits (lab tSend) tSend i) ∧ tSend.r.spois = 0 ∧
    ((flying 15).flight.filter (fun f => f.uid == 1 && f.at_.isNone)).length < 16 ∧
    runs (flying 16) tSend (.send 1 2) (setStrand (flying 16) here { tSend with status := .waiting .sends }) = true ∧
    trapped (lab tSend) tSend (.send 0 2) .operandRange 0 0 = true ∧ trapped (lab tSend) tSend (.sendc 8 2) .operandRange 0 0 = true ∧
    trapped (lab tSend) tSend (.sendc 1 7) .payloadRange 0 0 = true := by decide +kernel
theorem test_send_payload : nextIs (exec (.send 1 28) (lab tSend)) (fun s => decide (s.flight.map (fun f => f.m.payload) =
      [(11 : Word) ++ (10 : Word) ++ (9 : Word) ++ (8 : Word)])) = true ∧
    nextIs (exec (.sendc 1 6) (lab tSend)) (fun s => decide (s.flight.map (fun f => (f.m.payload, f.m.sc)) = [(0x7FFFFFFF, true)])) = true := by decide +kernel

/-! Channels. The handle 0x0003000005010000 names entry 5 of domain 1, generation 3. -/

def h5 : Word := 0x0003000005010000
def h6 : Word := 0x0003000006010000
def chan (h : Word) (count : Bool) : Chan :=
  ⟨h, count, false, 2, 8, 6, 0x200C00, [], 0, 0, if count then 4 else 0, if count then 7 else 0, 0, none, 0, 0, 0, .h, [], false, none⟩
def msgOf (h : Word) (v n : Nat) : Msg := ⟨BitVec.ofNat 256 v, 11, 0x22, h, false, n, false⟩
def tCh : Strand := hand [(1, h5.toNat), (2, 0x200400), (3, 3), (4, 0x200440), (5, 0x200480)]
def descC (count : Bool) : List Nat := [if count then 0x60006 else 0x8060002, 0, 0x200C00, if count then 0x7FFFFFFFF else 0, 0, 0, 0, 0]
def sNew (count : Bool) : State := poke (talk tCh) 0x100400 (descC count)
theorem witness_chnew : ∀ count ∈ [false, true], Admits (sNew count) tCh (.chnew 9 2) ∧ rdP tCh.r 2 = false ∧
    okThen (descLoad (sNew count) ⟨here, tCh, 4, (Instr.chnew 9 2).word0⟩ (rd tCh.r 2) 8) (fun l s1 =>
      decide (l.length = 8) && chdescOk l && !((l[0]?).getD 0).getLsbD 4 && !((l[0]?).getD 0).getLsbD 3 && !quotaFull s1 here.core 8 &&
      okThen (freeEntry s1 (tableAgent here.core 1) 1 1 (getDom s1 1).hint 1024 1024) (fun x s2 => match x with
        | some (k, e) => okThen (tabWrite s2 (tableAgent here.core 1) 1 k 1 e (mkEntry 1 1 count false 2 0 here.core 2) true)
            (fun y s3 => decide (y = true ∧ k = 1 ∧ e = 0) && (findChan s3 here.core 0x0001000001010000).isNone)
        | none => false)) = true := by decide +kernel
theorem test_chnew : nextIs (exec (.chnew 9 2) (sNew true)) (fun s => match getStrand s here, findChan s here.core 0x0001000001010000 with
      | some u, some q => decide (rd u.r 9 = 0x0001000001010000 ∧ q.counter = -1 ∧ q.reload = 7 ∧ q.present.isSome = true)
      | _, _ => false) = true ∧
    leWord (memBytes (match exec (.chnew 9 2) (sNew true) with | .next s => s.mem | _ => []) 0x110008 8) = mkEntry 1 1 true false 2 0 here.core 2 := by decide +kernel

/-- No slot is left: 64 channels of 64 slots. -/
def manyChans : List Chan := (List.range 64).map (fun i => let q := chan (BitVec.ofNat 64 (2 ^ 52 + i * 2 ^ 24 + 65536)) false; { q with slots := 64 })
theorem witness_chnew_full : quotaFull (updCore (sNew false) here.core (fun k => { k with jmu := { k.jmu with chans := manyChans } })) here.core 8 = true := by decide +kernel

/-- The channel is live at the own core, with two messages, a region and a pattern; its entry has that state and generation. -/
def patOf (idx : Nat) (l : List Word) : Pat := ⟨idx, 1, false, .s, 0, 0, 0, 0x4000, 0, 0, l, false, 0⟩
def entOf (st gen : Nat) : Word := mkEntry gen st false false 2 0 here.core 1
def sCh (st gen : Nat) : State :=
  let s := poke (poke (poke (talk tCh) 0x100440 [0x1000, 0x40, 0x1040, 0x80, 5, 0, 0xFFFFFFFFFFFFC0, 0x40]) 0x110028 [(entOf st gen).toNat]) 0x100480
    [0x1000, 0x80, 0x1040, 0x40, 0, 0, 0, 0]
  let q := { chan h5 false with held := [msgOf h5 5 1, msgOf h5 6 2], regions := [(0, 64)] }
  updCore s here.core (fun k => { k with jmu := { k.jmu with seq := 40, pats := [patOf 3 [h5], patOf 4 [77]], chans := [q, chan h6 true] } })
def sC1 : State := sCh 1 3

/-- The table agent reads that entry. -/
def reads5 (s : State) (e : Word) (f : State → Bool) : Bool := okThen (tabRead s (tableAgent here.core 1) 1 5 1) (fun x s1 => decide (x = e) && f s1)
theorem witness_channel_live : mayManage tCh h5 ∧ (∀ i ∈ [Instr.chfree 1, .chbind 1 4, .chstat 9 1, .patdel 1 3], Admits sC1 tCh i) ∧ tCh.r.spois = 0 ∧
    hDom h5 = 1 ∧ hIdx h5 = 5 ∧ bitsOf (entOf 1 3) 46 2 = 1 ∧ bitsOf (entOf 1 3) 48 16 = bitsOf h5 48 16 ∧ bitsOf (entOf 1 3) 30 12 = sC1.pkg ∧
    entHome (entOf 1 3) = some here.core ∧
    reads5 sC1 (entOf 1 3) (fun s1 => (match findChan s1 here.core h5 with
        | some q => decide (q.nring = 0 ∧ q.scope < 4 ∧ q.regions.length ≤ 4 ∧ q.held.length ≤ 2048) | none => false) &&
      okThen (tabWrite (tabDrop s1 1) (tableAgent here.core 1) 1 5 1 (entOf 1 3) 0x0003000000000000 false) (fun y _ => y)) = true := by
  refine ⟨by simp only [mayManage]; decide, ?_⟩
  decide +kernel
/-- Regions that end where the global window does; and two that overlap. -/
def pairsOf (l : List Word) : List (Word × Word) :=
  let g (n : Nat) : Word := (l[n]?).getD 0
  [(g 0, g 1), (g 2, g 3), (g 4, g 5), (g 6, g 7)].filter (fun p => p.2 ≠ 0)
def bindDesc (b : BitVec 5) (f : List Word → Bool) : Bool :=
  okThen (descLoad sC1 ⟨here, tCh, 4, (Instr.chbind 1 b).word0⟩ (rd tCh.r b) 8) (fun l s1 => reads5 s1 (entOf 1 3) (fun _ => f l))
theorem witness_chbind : bindDesc 4 (fun l => decide (pairsOf l = [(0x1000, 0x40), (0x1040, 0x80), (0xFFFFFFFFFFFFC0, 0x40)])) = true ∧
    bindDesc 5 (fun l => decide (pairsOf l = [(0x1000, 0x80), (0x1040, 0x40)])) = true ∧ (0x1040 : Nat) % 64 = 0 ∧ 0xFFFFFFFFFFFFC0 + 0x40 ≤ 2 ^ 56 ∧ 0x1000 + 0x40 ≤ 0x1040 ∧
    ¬ (0x1000 + 0x80 ≤ 0x1040 ∨ 0x1040 + 0x40 ≤ 0x1000) := by decide +kernel
theorem witness_channel_gone : (∀ x ∈ [(0, 3), (1, 4), (2, 3)], reads5 (sCh x.1 x.2) (entOf x.1 x.2) (fun _ => true) = true) ∧
    bitsOf (entOf 0 3) 46 2 = 0 ∧ bitsOf (entOf 1 4) 48 16 ≠ bitsOf h5 48 16 ∧ bitsOf (entOf 2 3) 46 2 = 2 := by decide +kernel
theorem test_chstat : nextIs (exec (.chstat 9 1) sC1) (fun s => match getStrand s here with
    | some u => decide (rd u.r 9 = 0x4888000200000002) | none => false) = true := by decide +kernel

/-! Patterns. -/

/-- A pattern of channels 5 and 6 for privilege S, PRIO 1, frame 4, 2, 1; or `w0` of its own. -/
def descP (w0 : Nat) (l : List Nat) : List Nat := [w0, 0x4000, 0x0000100000080000, 0] ++ l
def w0P : Nat := 1 + 2 ^ 4 + 2 ^ 6 + 4 * 2 ^ 8 + 2 * 2 ^ 14 + 2 ^ 18
def sPat (w0 : Nat) (e6 : Word) (pats : List Pat) : State :=
  let s := poke (poke (talk tCh) 0x100400 (descP w0 [h5.toNat, h6.toNat, 0, 0])) 0x110028 [(entOf 1 3).toNat, e6.toNat]
  updCore s here.core (fun k => { k with jmu := { k.jmu with pats := pats, chans := [chan h5 false, chan h6 true] } })
def patAsk (s : State) (f : List Word → List Word → State → Bool) : Bool :=
  okThen (descLoad s ⟨here, tCh, 4, (Instr.patadd 9 2).word0⟩ (rd tCh.r 2) 8) (fun l s1 => patFieldsOk 1 l &&
    match patEntries s1 ⟨here, tCh, 4, (Instr.patadd 9 2).word0⟩ (patDesc l).chans with | .ok (es, none, s2) => f l es s2 | _ => false)
def away6 : Word := mkEntry 3 1 true false 2 0 (computeId 0 0 1) 1
theorem witness_patadd : Admits (sPat w0P (entOf 1 3) []) tCh (.patadd 9 2) ∧ patAsk (sPat w0P (entOf 1 3) [patOf 0 [77]]) (fun l es s2 =>
      decide (es = [entOf 1 3, entOf 1 3] ∧ (patDesc l).priv = 1 ∧ (patDesc l).v = 4 ∧ (patDesc l).a = 2 ∧ (patDesc l).t = 1) &&
      es.all (fun x => !x.getLsbD 44) && (patDesc l).chans.all (fun h => (findChan s2 here.core h).isSome) && decide (4 ≤ (poolOf here.core (getCore s2 here.core).pword).1)) = true ∧
    nextIs (exec (.patadd 9 2) (sPat w0P (entOf 1 3) [patOf 0 [77]])) (fun s => decide ((getStrand s here).map (fun u => rd u.r 9) = some 1 ∧
      (getCore s here.core).jmu.pats.map (fun r => r.idx) = [0, 1])) = true := by decide +kernel
def refusal (s : State) (v : Word) : Bool := nextIs (exec (.patadd 9 2) s) (fun s => decide ((getStrand s here).map (fun u => rd u.r 9) = some v))
theorem witness_patadd_refused : refusal (sPat (w0P + 2 ^ 22) (entOf 1 3) []) (0x8000 + BitVec.ofNat 64 (causeCode .patternInvalid)) = true ∧
    refusal (sPat w0P away6 []) (0x8000 + BitVec.ofNat 64 (causeCode .patternHomeMismatch)) = true ∧
    refusal (sPat (w0P + 2 ^ 4) (entOf 1 3) []) (0x8000 + BitVec.ofNat 64 (causeCode .privileged)) = true ∧
    refusal (sPat w0P (entOf 1 3) ((List.range 8).map (fun n => patOf n [h6]))) (0x8000 + BitVec.ofNat 64 (causeCode .patternTableFull)) = true ∧
    refusal (updCore (sPat w0P (entOf 1 3) []) here.core (fun k => { k with pword := 0x00070001 })) (0x8000 + BitVec.ofNat 64 (causeCode .frameUnadmittable)) = true := by decide +kernel
theorem witness_patdel : Admits sC1 tCh (.patdel 1 3) ∧ (rd tCh.r 3).toNat = 3 ∧
    reads5 sC1 (entOf 1 3) (fun s1 => (getCore s1 here.core).jmu.pats.any (fun r => r.idx == 3 && r.chans.head? == some h5)) = true := by decide +kernel

/-- The home of core 1 of the cluster, and of the own core. -/
def tMv (z : CoreId) : Strand := hand [(1, h5.toNat), (2, (placeOf z).1 * 2 ^ 50 + (placeOf z).2.1 * 2 ^ 46 + (placeOf z).2.2 * 2 ^ 42 + kindCode z.kind * 2 ^ 24)]
def next1 : CoreId := computeId 0 0 1
def sMv (z : CoreId) : State := updCore (setStrand sC1 here (tMv z)) next1 (fun k => { k with dom := some 1 })
theorem witness_chmove : ∀ z ∈ [here.core, next1], Admits (sMv z) (tMv z) (.chmove 9 1 2) ∧ z.kind = .compute ∧
    (match homeSel (sMv z) 1 (rd (tMv z).r 2) with | .here y => decide (y = z) | _ => false) = true ∧
    reads5 (sMv z) (entOf 1 3) (fun s1 => let group := groupOf (getCore s1 here.core).jmu [h5] 256
      decide (z = here.core) || decide (moveRoom s1 here.core z group = none) &&
        !movePriv s1 here.core z group &&
        okThen (moveStart s1 ⟨here, tMv z, 4, (Instr.chmove 9 1 2).word0⟩ here.core z none group) (fun c _ => decide (c = none))) = true ∧
    moveOf (sMv z) 1 = none := by decide +kernel

/-- A pattern of PRIV H among them: a compute core takes it not. -/
theorem witness_chmove_refused : let s := updCore (sMv next1) here.core (fun k => { k with jmu := { k.jmu with pats := [{ patOf 3 [h5] with priv := .h }] } })
    movePriv s here.core next1 (groupOf (getCore s here.core).jmu [h5] 256) = true ∧
      nextIs (exec (.chmove 9 1 2) s) (fun s => (getStrand s here).map (fun u => rd u.r 9) == some (BitVec.ofNat 64 (0x8000 + causeCode .privileged))) = true := by decide +kernel

/-! Arrivals. -/

/-- A message on its way to its home, followed by one of the same sender. -/
def onWay (h : Word) (sc : Bool) : Flight := ⟨8, 1, { msgOf h 5 0 with sc := sc }, 1, false, some here.core, 0, here.core, false, none, 0⟩
def sArr (h : Word) (sc : Bool) : State := { sC1 with flight := [onWay h sc, { onWay h sc with id := 9, at_ := none }], cys := { sC1.cys with now := 1234 } }
theorem witness_arrival : [(h5, false), (h6, true), (h5, true), (h6, false)].all (fun x => ((sArr x.1 x.2).flight.find? (fun g => g.id == 8)) == some (onWay x.1 x.2) &&
      belowDone (sArr x.1 x.2) here.core 1 0 (ownOpeners (sArr x.1 x.2) 1) 2 && hDom x.1 == 1 &&
      decide ((getCore (sArr x.1 x.2) here.core).jmu.acceptAt ≤ (sArr x.1 x.2).cycle) &&
      (match findChan (sArr x.1 x.2) here.core x.1 with
        | some q => decide (q.count = decide (x.1 = h6) ∧ q.spilled = false ∧ q.relay = false ∧ q.nring = 0) && slotFree here.core (getCore (sArr x.1 x.2) here.core).jmu q
        | none => false)) = true ∧
    areaBase (getDom sC1 1).replog = 0 ∧ (getDom sC1 1).repch ≠ 0 ∧ hDom 0x0003000005020000 ≠ 1 ∧ aget sC1.filter (1, 2) = none := by decide +kernel
theorem test_arrival_counts : nextIs (exec (.messageArrival 8) (sArr h6 true)) (fun s => match findChan s here.core h6 with
    | some q => decide (q.counter = -1 ∧ q.arrivals = 1 ∧ q.present = some 40) | none => false) = true := by decide +kernel

/-- A relay of channel 6 forwards under its own name; a message of another domain meets the filter at its sender. -/
def sRelay : State := updCore (sArr h5 false) here.core (fun k =>
  { k with jmu := { k.jmu with chans := [{ chan h5 false with relay := true, target := h6 }] } })
theorem witness_arrival_relay : (match findChan sRelay here.core h5 with
      | some q => decide (q.count = false ∧ q.spilled = false ∧ q.relay = true ∧ q.nring = 0 ∧ q.target = h6) | none => false) = true ∧
    nextIs (exec (.messageArrival 8) sRelay) (fun s => decide (s.flight.map (fun f => (f.m.handle, f.named)) = [(h5, none), (h6, some h5)])) = true := by
  decide +kernel
def stranger : Flight := { onWay 0x0003000005020000 false with at_ := none }
theorem witness_arrival_filtered : let s := { sC1 with flight := [stranger] }
    s.flight.find? (fun g => g.id == 8) = some stranger ∧ stranger.passed = false ∧ stranger.rep = false ∧ hDom stranger.m.handle ≠ stranger.dom ∧
      (getCore s stranger.src).sendAt ≤ s.cycle ∧ belowDone s stranger.src 1 0 (ownOpeners s 1) 2 = true := by decide +kernel

/-- A channel whose two oldest messages are in its ring, the head at its last record. -/
def sRing (count : Bool) (retry : Option Nat) : State :=
  let s := updCore sC1 here.core (fun k => { k with jmu := { k.jmu with chans := [{ chan h5 count with ring := 0x200000, head := 63, nring := 2, retry := retry }] } })
  let s := setClus s 0 0 { getClus s 0 0 with engTlb := (List.range 4).map (fun n => (n, page 0x20 0x100000)) }
  { s with cys := { s.cys with now := 1234 } }
theorem witness_ring : ([(false, none), (false, some 1234), (true, none)] : List (Bool × Option Nat)).all (fun x => match findChan (sRing x.1 x.2) here.core h5 with
    | some q => decide (q.handle = h5 ∧ q.spilled = false ∧ 0 < q.nring ∧ q.count = x.1 ∧ q.retry = x.2) && slotFree here.core (getCore (sRing x.1 x.2) here.core).jmu q &&
        (match devRead (sRing x.1 x.2) (ringAgent here.core q) (q.ring + BitVec.ofNat 64 (64 * (q.head % 2 ^ q.ringlog))) 64 with
          | .ok (_, false, _) => true | _ => false)
    | none => false) = true := by decide +kernel
theorem witness_ring_relay : let s := updCore (sRing false none) here.core (fun k =>
      { k with jmu := { k.jmu with chans := k.jmu.chans.map (fun q => { q with relay := true, target := h6 }) } })
    nextIs (exec (.spilledRecordApply here.core h5) s) (fun s => decide (s.flight.map (fun f => (f.m.handle, f.named)) = [(h6, some h5)])) = true := by
  decide +kernel
theorem witness_host_send : (0x1040 : Nat) % 64 = 0 ∧ (5 : BitVec 512).extractLsb' 320 192 = 0 ∧
    (accessBits { sC1 with access := [((6, 0, 1), 8)] } 6 0 (0x1040 / 4096 % 256)).getLsbD 3 = true := by decide +kernel

/-! Firings. -/

/-- A pattern of both channels, serial, and one of a third; both candidates. -/
def h7 : Word := 0x0003000007010000
def pat2 : Pat := ⟨2, 3, true, .s, 4, 2, 1, 0x4000, 0x80000, 0x1000, [h5, h6], false, 0⟩
def pat1 : Pat := { patOf 1 [h7] with prio := 3 }
def heads : List Chan :=
  [{ chan h5 false with held := [msgOf h5 5 12, msgOf h5 6 13] }, { chan h6 true with counter := 0, present := some 10, arrivals := 3 }, { chan h7 false with held := [msgOf h7 7 11] }]
def sFire : State := updCore (talk (hand [])) here.core (fun k => { k with jmu := { k.jmu with seq := 40, pats := [pat2, pat1], chans := heads } })
theorem witness_match : let j := (getCore sFire here.core).jmu
    (let heads := pat2.chans.map (fun h => (j.chans.find? (fun q => q.handle == h)).bind headSeq)
     heads = [some 12, some 10]) ∧ (let heads := pat1.chans.map (fun h => (j.chans.find? (fun q => q.handle == h)).bind headSeq)
     heads = [some 11]) ∧ pat2 ∈ j.pats ∧ pat2.live = false ∧ pat2.prio = pat1.prio ∧ pat2.idx ≠ pat1.idx ∧ pat2.chans.Nodup ∧ j.queue.length < 64 ∧ j.decideAt ≤ sFire.cycle := by decide +kernel
theorem test_match : nextIs (exec (.matchDecision here.core) sFire) (fun s => let j := (getCore s here.core).jmu
    decide (j.queue.map (fun f => f.prio) = [3] ∧ j.pats.map (fun p => p.live) = [true, false] ∧ j.chans.map (fun q => (q.held.length, q.counter, q.arrivals)) =
      [(1, 0, 0), (0, 7, 0), (1, 0, 0)])) = true := by decide +kernel

/-- The firing and an item wait for admission; slot 1 is the lowest free one. -/
def fire2 : Firing := ⟨.pattern pat2 [msgOf h5 5 12, msgOf h6 0 10] [], 3, 90, 7⟩
def sAdm (f : Firing) (trap : Bool) : State :=
  let s := updCore sFire here.core (fun k => { k with jmu := { k.jmu with queue := [f, { f with prio := f.prio - 1, ord := 8 }] } })
  if trap then setDom s 1 { getDom s 1 with trapch := h5 } else s
theorem witness_admission : (∀ g ∈ (getCore (sAdm fire2 false) here.core).jmu.queue, g ≠ fire2 → g.prio < fire2.prio) ∧ pat2.v ≤ 32 ∧
    hasRoom (sAdm fire2 false) here.core 1 4 2 1 := by
  refine ⟨by decide +kernel, by decide, ?_⟩
  simp only [hasRoom]; decide +kernel
theorem test_admission : nextIs (exec (.admission here.core) (sAdm fire2 true)) (fun s => match getStrand s ⟨here.core, 1⟩ with
    | some u => decide (u.kind = 2 ∧ u.pc = 0x4000 ∧ rd u.r 1 = 0x4000 ∧ rd u.r 2 = 0xFF00000000082000 ∧ rd u.r 12 = 0x30202 ∧ rd u.r 13 = 90 ∧ rd u.r 14 = 11 ∧
        rd u.r 15 = 0x22 ∧ rd u.r 16 = 5 ∧ rd u.r 20 = 0 ∧ u.r.v.length = 4 ∧ u.tiles.length = 2 ∧ u.tabs.length = 1)
    | none => false) = true := by decide +kernel

/-! Launches. -/

def job (st : JobState) (und : List (Nat × Nat)) : Job :=
  { gen := 9, dom := 1, st := st, prio := 4, priv := .s, v := 3, a := 1, t := 1, body := 0x7000, sbase := 0x100, sstride := 0x40, args := 0x9000, astride := 16,
    count := 10, clmask := 0, cmask := 0, donech := 0x10000000000, after := none, start := 0, ranges := [], undealt := und, dealer := none,
    ended := 2, never := 0, outstanding := 1, cause := .none, late := 0, issuer := 0x77, issued := 44, order := 1, gang := none, card := [], parent := none,
    cancelled := false, ending := [⟨33, here.core, 0⟩] }
def sJob (j : Job) : State :=
  let s := updCore (talk tCh) here.core (fun k => { k with launchq := [⟨5, 9, 2, [(3, 5)]⟩, ⟨6, 9, 0, [(1, 2)]⟩] })
  { s with jobs := [(5, j), (6, { j with prio := 3 })], cys := { s.cys with now := 500 } }
theorem witness_item_admission : hasRoom (sAdm ⟨.item 5 9 3 2, 4, 490, 7⟩ false) here.core 1 3 1 1 ∧ aget (sJob (job .dealing [])).jobs 5 = some (job .dealing []) := by
  refine ⟨?_, by decide +kernel⟩
  simp only [hasRoom]; decide +kernel
theorem witness_done : Admits (lab tCh) tCh .done ∧ tCh.openers = [] ∧ runs (lab tCh) tCh .done (setStrand (lab tCh) here { tCh with status := .ended }) = true := by decide +kernel
def tEnd (o : Origin) (serial : Bool) (path : Word) : Strand := { hand [] with status := .ended, origin := o, serial := serial, path := path }
theorem witness_release : (∀ t ∈ [tEnd (.pattern 2 0) true h5, tEnd (.item 5 9 3) false 0], t.preq = none ∧
      engNames (getCore (lab t) here.core) 1 (List.range t.tiles.length) (List.range t.tabs.length) true = false) ∧
    nextIs (exec (.strandRelease here) { lab (tEnd (.item 5 9 3) false 0) with jobs := [(5, job .dealing [])] }) (fun s =>
      decide (getStrand s here = none ∧ (aget s.jobs 5).map (fun j => j.ending.map (fun e => e.uid)) = some [33, 1])) = true := by decide +kernel

/-- A card of PRIO 4, a frame of 3, 1, 1 and ten items, at 0x200400. -/
def card (count : Nat) : List Nat := [4 + 3 * 2 ^ 8 + 2 ^ 14 + 2 ^ 18, 0x7000, 0, 0x9000, 16, count] ++ List.replicate 26 0
def sCard (count : Nat) : State := poke (talk tCh) 0x100400 (card count)
theorem witness_spawn : Admits (sCard 10) tCh (.spawn 9 2) ∧ (rd tCh.r 2).toNat % 64 = 0 ∧ belowDone (sCard 10) here.core 1 (sCard 10).uid tCh.openers 2 = true ∧
    okThen (descLoad (sCard 10) ⟨here, tCh, 4, (Instr.spawn 9 2).word0⟩ 0x200400 32) (fun l s1 =>
      cardOk s1 false l && decide (launchRefusal s1 ⟨here, tCh, 4, (Instr.spawn 9 2).word0⟩ false l = none) && (freeJob s1).isSome && decide (bitsOf ((l[5]?).getD 0) 0 40 ≠ 0)) = true ∧
    nextIs (exec (.spawn 9 2) (sCard 10)) (fun s => match aget s.jobs s.lastJob with
      | some y => decide (y.count = 10 ∧ y.undealt = [(0, 10)] ∧ y.v = 3 ∧ y.prio = 4 ∧ y.body = 0x7000 ∧ y.st = .held) | none => false) = true := by decide +kernel

theorem aget_map_range {α : Type} (v : α) : ∀ (l : List Nat) (k : Nat), k ∈ l → aget (l.map (fun i => (i, v))) k = some v := by
  intro l
  induction l with
  | nil => simp
  | cons a t ih =>
    intro k hk
    by_cases h : a = k
    · simp [aget, h]
    · simpa [aget, h] using ih k (by simpa [Ne.symm h] using hk)

/-- Every entry of the job table is in use. -/
theorem witness_spawn_waits : freeJob { sCard 10 with jobs := (List.range 4096).map (fun i => (i, job .held [])) } = none := by
  unfold freeJob
  rw [List.find?_eq_none]
  simp only [List.mem_map, List.mem_range, forall_exists_index, and_imp]
  rintro _ i - rfl
  rw [aget_map_range _ _ _ (List.mem_range.mpr (Nat.mod_lt _ (by decide)))]
  simp [job]

/-- A card at an address that is no multiple of 64, and one with a zero PRIO field above its range. -/
theorem witness_spawn_refused : (rd tCh.r 3).toNat % 64 ≠ 0 ∧ Admits (sCard 10) tCh (.spawn 9 3) ∧ Admits (sCard 10) tCh (.gang 9 3) ∧
    okThen (descLoad (poke (talk tCh) 0x100400 (0xF8 :: (card 10).tail)) ⟨here, tCh, 4, (Instr.spawn 9 2).word0⟩ 0x200400 32) (fun l s1 => !cardOk s1 false l) = true := by
  decide +kernel
def tJs : Strand := hand [(1, 9 * 2 ^ 32 + 2 ^ 24 + 5), (2, 8 * 2 ^ 32 + 2 ^ 24 + 5)]
def sJs (j : Job) : State := setStrand (sJob j) here tJs
theorem witness_jstat : let s := sJs (job .dealing [(4, 10)])
    rdP tJs.r 1 = false ∧ bitsOf (rd tJs.r 1) 63 1 = 0 ∧ bitsOf (rd tJs.r 1) 24 8 = 1 ∧ bitsOf (rd tJs.r 1) 0 12 = 5 ∧ bitsOf (rd tJs.r 1) 32 16 = 9 ∧
    gave s tJs (.jstat 9 1) 9 0x4000000000000002 = true ∧ gave s tJs (.jstat 9 2) 9 0 = true ∧ gave s tJs (.tnow 9) 9 500 = true ∧
    nextIs (exec (.jcancel 9 1) s) (fun s => (getStrand s here).map (fun u => rd u.r 9) == some 8) = true := by decide +kernel

/-- A handle of package 3. -/
def tFar : Strand := hand [(1, 3 * 2 ^ 51 + 9 * 2 ^ 32 + 2 ^ 24 + 5)]
theorem witness_jstat_remote : (∀ i ∈ [Instr.jstat 9 1, .jcancel 9 1], Admits (lab tFar) tFar i) ∧ rdP tFar.r 1 = false ∧ bitsOf (rd tFar.r 1) 63 1 = 0 ∧
    bitsOf (rd tFar.r 1) 48 3 = 0 ∧ bitsOf (rd tFar.r 1) 12 12 = 0 ∧ bitsOf (rd tFar.r 1) 24 8 = 1 ∧ bitsOf (rd tFar.r 1) 51 12 ≠ (lab tFar).pkg := by decide +kernel

/-! Launch events. -/

/-- The core has asked the launch unit of die 0 for a chunk. -/
def sAsk : State :=
  let s := sJob { job .dealing [(0, 100)] with dealer := some 0 }
  setDie s 0 { getDie s 0 with asks := [(5, 9, here.core)] }
theorem witness_launch_events : let s := sJob (job .held [(0, 100)])
    coreSet s 1 0 0 = [here.core] ∧ (job .held [(0, 100)]).start ≤ s.cys.now ∧ (job .held []).after = none ∧
    (let s := sJob (job .dealing [(0, 100)]); here.core ∈ coreSet s 1 0 0 ∧ ((getCore s here.core).launchq.filter (fun q => q.job == 5 && q.gen == 9)).length < 2 ∧
      (getCore s here.core).jmu.queue.length < 64 ∧ (getCore s here.core).leaving = false ∧ (getCore s here.core).pendWord = none ∧
      s.jobs.find? (fun j => j.2.ending.any (fun e => e.uid == 33)) = some (5, job .dealing [(0, 100)]) ∧ belowDone s here.core 33 0 [] 2 = true ∧ (∀ f ∈ s.flight ++ s.away, f.uid ≠ 33)) ∧
    (getDie sAsk 0).asks.filter (askStands sAsk) = [(5, 9, here.core)] ∧ (getDie sAsk 0).dealAt ≤ sAsk.cycle := by decide +kernel
theorem test_launch_events : nextIs (exec (.chunkDeal 5 here.core) sAsk) (fun s =>
      (aget s.jobs 5).map (fun j => j.undealt) == some [(50, 100)]) = true ∧
    nextIs (exec (.launchItemOffer here.core) (sJob (job .dealing []))) (fun s => decide ((getCore s here.core).jmu.queue.map (fun f => (f.what, f.prio)) = [(.item 5 9 3 2, 4)])) = true ∧
    nextIs (exec (.itemEnd 33) { sJob (job .dealing []) with cores := (talk tCh).cores }) (fun s => decide ((aget s.jobs 5).map (fun j => (j.st, j.ended)) = some (.complete, 3) ∧
      s.flight.map (fun f => f.m.payload) = [payload4 (9 * 2 ^ 32 + 2 ^ 24 + 5) 3 0 0])) = true := by decide +kernel
theorem witness_gang_late : let ms : List Member := [⟨3, false, false, 0, 0⟩, ⟨4, true, false, 0, 6⟩]
    let j := { job .dealing [] with gang := some ms, card := List.replicate 256 0 }
    ms.find? (fun m => m.pkg == 3) = some ⟨3, false, false, 0, 0⟩ ∧ (wordAt j.card 11).toNat ≤ 100000 ∧ 0 + 100000 ≤ 100000 ∧ (∃ y ∈ ms, y.pkg ≠ 3 ∧ y.done = false) := by decide +kernel

/-! Waits. -/

def tTl (n : Nat) : Strand := hand [(1, 6), (2, n), (3, 1)]
def sTl (t : Strand) (ready asked : Word) : State :=
  updCore (lab t) here.core (fun x => { x with tls := x.tls.setIfInBounds 3 ⟨5, 3, [], true, 2⟩, tagR := ready, tagA := asked })
theorem witness_timelines : (∀ n ∈ [3, 4, 5], Admits (sTl (tTl n) 0 0) (tTl n) (.tlwait 3 2)) ∧ (tlOf (getCore (sTl (tTl 4) 0 0) here.core) 3).posted = 5 ∧
    trapped (sTl (tTl 6) 0 0) (tTl 6) (.tlwait 3 2) .timelineInvalid 0 0 = true ∧
    runs (sTl (tTl 4) 0 0) (tTl 4) (.tlwait 3 2) (setStrand (sTl (tTl 4) 0 0) here { tTl 4 with status := .waiting (.timeline 3 4), inside := true }) = true ∧
    runs (sTl (tTl 3) 0 0) (tTl 3) (.tlwait 3 2) (goesOn (acquire (sTl (tTl 3) 0 0) here.core 2) (tTl 3) (.tlwait 3 2) (tTl 3).r) = true ∧
    gave (sTl (tTl 3) 0 0) (tTl 3) (.tlread 9 3 0) 9 3 = true ∧ gave (sTl (tTl 3) 0 0) (tTl 3) (.tlread 9 3 1) 9 0x8000000000000002 = true := by decide +kernel
theorem witness_tags : (∀ i ∈ [Instr.waitany 9 1, .waitall 1, .tagclr 1], Admits (sTl (tTl 3) 6 0) (tTl 3) i) ∧
    trapped (sTl (tTl 3) 1 1) (tTl 3) (.waitany 9 1) .operandRange 0 0 = true ∧ trapped (sTl (tTl 3) 2 0) (tTl 3) (.waitall 1) .operandRange 0 0 = true ∧
    runs (sTl (tTl 3) 0 4) (tTl 3) (.waitany 9 1) (setStrand (sTl (tTl 3) 0 4) here { tTl 3 with status := .waiting (.tags true 9 1 6 0), inside := true }) = true ∧
    runs (sTl (tTl 3) 2 4) (tTl 3) (.waitall 1) (setStrand (sTl (tTl 3) 2 4) here { tTl 3 with status := .waiting (.tags false 0 1 6 0), inside := true }) = true ∧
    gave (sTl (tTl 3) 4 0) (tTl 3) (.tagfirst 9 1) 9 2 = true ∧ gave (sTl (tTl 3) 1 0) (tTl 3) (.tagfirst 9 1) 9 0xFFFFFFFFFFFFFFFF = true ∧
    gave (sTl (tTl 3) 4 9) (tTl 3) (.tagrd 9 1) 9 9 = true := by decide +kernel

/-- The waiter of higher priority is served first, then the longer wait. -/
def waiter (any : Bool) (prio since : Nat) : Strand := { tTl 3 with status := .waiting (.tags any 9 1 6 since), prio := prio }
def sWait (any : Bool) : State := setStrand (sTl (waiter any 3 20) 6 0) ⟨here.core, 5⟩ { waiter true 3 21 with uid := 2 }
theorem witness_tag_grant : ∀ any ∈ [true, false], getStrand (sWait any) here = some (waiter any 3 20) ∧ ((getCore (sWait any) here.core).strands.map (fun z => z.1)).Nodup ∧
    (getCore (sWait any) here.core).tagR &&& 6 = 6 ∧ nextIs (exec (.tagWaitGrant here.core) (sWait any)) (fun s =>
      decide ((getCore s here.core).tagR = if any then 4 else 0) && (getStrand s here).map (fun u => u.status) == some .ready) = true := by decide +kernel

/-- A satisfied waiter of the core wants tag 1: a newcomer waits behind it. -/
theorem witness_tags_wanted : let s := setStrand (sTl (tTl 3) 6 0) ⟨here.core, 5⟩ { waiter true 3 21 with uid := 2 }
    runs s (tTl 3) (.waitany 9 1) (setStrand s here { tTl 3 with status := .waiting (.tags true 9 1 6 0), inside := true }) = true ∧
      (if true = true then (getCore s here.core).tagR &&& 6 ≠ 0 else (getCore s here.core).tagR &&& 6 = 6) ∧ (6 : Word) &&& 6 ≠ 0 := by decide +kernel

end Sys2Proof.Tests
end

