-- ==== Sys2Proof/Tests/Pages.lean ====
section
/-! SUPPORT. Witnesses and tests of the statements on translation, pages and privileged instructions. -/

namespace Sys2Proof.Tests

set_option Elab.async false

open Sys2Proof.Machine Sys2Proof.Says

/-! TLB writes. -/

/-- The strand's registers: the descriptor's address, a misaligned one, a token, an invalidation of one page at cluster scope. -/
def tTw : Strand := hand [(1, 0x200400), (2, 0x200408), (3, 0x40000001), (4, 0x300000), (5, 4), (6, 3), (7, 1), (8, 0x10001), (9, 12)]

/-- A descriptor of page 0x30 at frame 0x200000, of one that is not valid, of a bad one, of a miss channel. -/
def dGood : List Nat := [0x300000, 0x30, 0xF, 0x200000]
def dGone : List Nat := [0x300000, 0x30, 0, 0]
def dBad : List Nat := [0x300010, 0x30, 0xF, 0x200000]
def miss1 : Miss := ⟨0x40000001, 1, 0x77, 3, [5]⟩
def waiting : Strand := { hand [] with uid := 77, status := .waiting (.miss 0x40000001), absent := [5] }
def sTw (l : List Nat) : State :=
  let s := poke (talk tTw) 0x100400 l
  let s := updCore s (computeId 0 0 1) (fun k => { k with strands := [(3, waiting)] })
  setDom (setClus s 0 0 { getClus s 0 0 with misses := [miss1] }) 1 { getDom s 1 with trarea := 0 }
def descIs (s : State) (t : Strand) (i : Instr) (a : BitVec 5) (l : List Nat) : Bool :=
  okThen (descLoad s ⟨s.cur, t, i.len, i.word0⟩ (rd t.r a) 4) (fun x _ => decide (x = l.map (BitVec.ofNat 64)))
theorem witness_tlbw : (∀ i ∈ [Instr.tlbwInstall 10 1 0, .tlbwSetMissChannel 10 1 3], Admits (sTw dGood) tTw i ∧ descIs (sTw dGood) tTw i 1 dGood = true) ∧ tTw.r.spois = 0 ∧
    (getDie (sTw dGood) 0).llt.length < 32768 ∧ (getClus (sTw dGood) 0 0).tlb.length < 2048 ∧ (sTw dGood).migs = [] ∧
    ((sTw dGood).clusters.map (fun c => c.1)).Nodup ∧ ((sTw dGood).clusters.flatMap (fun c => c.2.misses)) = [miss1] ∧ miss1.token = 0x40000001 ∧
    getStrand (sTw dGood) ⟨computeId 0 0 1, 3⟩ = some waiting := by decide +kernel
theorem witness_tlbw_refused : descIs (sTw dBad) tTw (.tlbwInstall 10 1 0) 1 dBad = true ∧ descIs (sTw dGone) tTw (.tlbwInstall 10 1 0) 1 dGone = true ∧
    trapped (sTw dGood) tTw (.tlbwInstall 10 2 0) .misaligned 0 0x200408 = true ∧
    nextIs (exec (.tlbwInstall 10 1 0) (sTw dBad)) (fun s => (getStrand s here).map (fun u => rd u.r 10) == some 0x8057) = true ∧
    nextIs (exec (.tlbwInstall 10 1 0) (sTw [1, 0, 0, 0])) (fun s => (getStrand s here).map (fun u => rd u.r 10) == some 0x8057) = true := by decide +kernel
theorem test_tlbw : nextIs (exec (.tlbwInstall 10 1 3) (sTw dGood)) (fun s => (getDie s 0).llt.contains { page 0x30 0x200000 with priv := 0 } &&
      decide ((getStrand s ⟨computeId 0 0 1, 3⟩).map (fun u => (u.status, u.absent)) = some (.ready, [5]))) = true ∧
    nextIs (exec (.tlbwInstall 10 1 3) (sTw dGone)) (fun s => (getStrand s ⟨computeId 0 0 1, 3⟩).map (fun u => (u.status, u.absent)) == some (.ready, [0x77, 5])) = true := by
  decide +kernel

/-- A page that is being given away. -/
theorem witness_tlbw_away : ∃ m ∈ [(⟨0x30, 0, false, 2, 3, 0, none, [], [], false, 0, 0x200000, 0, 0⟩ : Migration)], m.pulling = false ∧ m.gpn < 0x30 + sizeUnits 0 ∧ 0x30 < m.gpn + sizeUnits m.size := by
  decide
/-- A core of the Markhor kind sets the miss channel of its cluster. -/
def mark : CoreId := ⟨.markhor, 0, 0, 0⟩
def sMk : State := { updCore (updCore (sTw [1, 0, 0, 0]) here.core (fun k => { k with strands := [] })) mark (fun k =>
  { k with dom := some 1, strands := [(0, tTw)], tlb := [page 0x20 0x100000] }) with cur := ⟨mark, 0⟩ }
theorem witness_miss_channel : Admits sMk tTw (.tlbwSetMissChannel 10 1 0) ∧ descIs sMk tTw (.tlbwSetMissChannel 10 1 0) 1 [1, 0, 0, 0] = true := by decide +kernel

/-- Invalidations: of one page at the cluster, of a whole domain; a scope of 3 and a key of 3 are out of range. -/
theorem witness_tlbinv : (∀ i ∈ [Instr.tlbinv 4 5, .tlbinva 7], Admits (sTw dGood) tTw i) ∧ (rd tTw.r 4).toNat < 2 ^ 56 ∧ (sTw dGood).pend = [] ∧ (sTw dGood).reqs = [] ∧
    (∀ y ∈ allStrands (sTw dGood), y.2.openers = []) ∧ tTw.phase = none ∧ trapped (sTw dGood) tTw (.tlbinv 4 6) .operandRange 0 0 = true ∧
    trapped (sTw dGood) tTw (.tlbinv 4 9) .operandRange 0 0 = true ∧ trapped (sTw dGood) tTw (.tlbinva 6) .operandRange 0 0 = true := by decide +kernel
def tInv : Strand := hand [(4, 0x200000), (5, 0x104), (7, 0x101), (8, 0x10101)]
def sInv : State := updCore (setStrand (sTw dGood) here tInv) here.core (fun k => { k with tlb := [page 0x20 0x100000, { page 0x21 0x110000 with pin := true }, { page 0x20 0 with dom := 2 }] })
theorem test_tlbinv : nextIs (exec (.tlbinv 4 5) sInv) (fun s => decide ((getCore s here.core).tlb.map (fun e => (e.dom, e.vpage)) = [(1, 0x21), (2, 0x20)])) = true ∧
    nextIs (exec (.tlbinva 7) sInv) (fun s => decide ((getCore s here.core).tlb.map (fun e => (e.dom, e.vpage)) = [(1, 0x21), (2, 0x20)])) = true ∧
    nextIs (exec (.tlbinva 8) sInv) (fun s => decide ((getCore s here.core).tlb.map (fun e => (e.dom, e.vpage)) = [(2, 0x20)])) = true := by decide +kernel

/-! Pages. -/

/-- Page numbers homed here and at package 5; frames; a 2 MiB page; lengths. -/
def tPg (phase : Option Phase) : Strand :=
  { hand [(1, 0x40), (2, 0x100000), (3, 5 * 2 ^ 36 + 0x40), (4, 5 * 2 ^ 36 + 0x41 + 2 ^ 48), (5, 2 ^ 48), (6, 0x1000), (7, 0x1000000000000), (8, 0x100000000000000)] with phase := phase }
def sPg (phase : Option Phase) : State := { lab (tPg phase) with cys := { State.reset.cys with now := 5000 } }
theorem witness_pgmig : frameExists (sPg none) 0x100000 = true ∧ gpnHome 0x40 = (sPg none).pkg ∧ gpnHome (5 * 2 ^ 36 + 0x40) ≠ (sPg none).pkg ∧ (sPg none).owned = [] ∧ (sPg none).migs = [] ∧
    runs (sPg none) (tPg none) (.pgmig 9 1 2) (goesOn (sPg none) (tPg none) (.pgmig 9 1 2) (wr (tPg none).r 9 1 false)) = true ∧
    trapped (sPg none) (tPg none) (.pgmig 9 4 2) .operandRange 0 0 = true ∧
    nextIs (exec (.pgmig 9 3 2) (sPg none)) (fun s => decide (s.migs.map (fun m => (m.gpn, m.size, m.pulling, m.frame)) = [(5 * 2 ^ 36 + 0x40, 0, true, 0x100000)] ∧
      s.out.map (fun p => (p.type, p.dst)) = [(4, 5)])) = true := by decide +kernel
/-- The migration has ended: already the owner's, done, or refused. -/
theorem witness_pgmig_answers : [(1 : Word), 0, 0x8053].all (fun v => decide (Admits (sPg (some (.pulling (some v)))) (tPg (some (.pulling (some v)))) (.pgmig 9 3 2))) = true := by decide +kernel
theorem test_pgmig_answers : nextIs (exec (.pgmig 9 3 2) (sPg (some (.pulling (some 0x8053))))) (fun s => (getStrand s here).map (fun u => (rd u.r 9, u.phase)) == some (0x8053, none)) = true := by
  decide +kernel
theorem witness_ownq : (∀ i ∈ [Instr.ownq 9 1, .ownq 9 3, .stubq 9 1], Admits (sPg none) (tPg none) i) ∧ (sPg none).oc = [] ∧ (sPg none).lookups = [] ∧
    trapped (sPg none) (tPg none) (.ownq 9 5) .operandRange 0 0 = true ∧ trapped (sPg none) (tPg none) (.stubq 9 5) .operandRange 0 0 = true ∧
    gave { sPg none with oc := [(0x40, 7)] } (tPg none) (.ownq 9 1) 9 0x1007 = true ∧
    ends (exec (.ownq 9 1) (sPg (some (.asked 0x40 (some 0))))) (goesOn (sPg (some (.asked 0x40 (some 0)))) (tPg none) (.ownq 9 1) (wr (tPg none).r 9 0x3000 false)) = true ∧
    ends (exec (.ownq 9 3) (sPg (some (.asked 3 none)))) (goesOn (sPg (some (.asked 3 none))) (tPg none) (.ownq 9 3) (wr (tPg none).r 9 0x8000000000000055 false)) = true ∧
    nextIs (exec (.ownq 9 3) (sPg none)) (fun s => decide (s.lookups = [(5 * 2 ^ 36 + 0x40, 5000)] ∧ s.out.map (fun p => (p.type, p.dst)) = [(3, 5)])) = true := by decide +kernel
theorem witness_stubq : gave (sPg none) (tPg none) (.stubq 9 1) 9 0 = true ∧
    gave { sPg none with stubs := [⟨0x40, 7, .held, true, List.replicate 3 0, 2000, 0⟩] } (tPg none) (.stubq 9 1) 9 0xD007000300000003 = true := by decide +kernel

/-- Jobs whose declared ranges a region meets: one that runs, two that are held. -/
def fjob (st : JobState) (order : Nat) (lo : Nat) : Job :=
  { gen := 3, dom := 1, st := st, prio := 0, priv := .h, v := 0, a := 0, t := 0, body := 0x1000, sbase := 0, sstride := 0, args := 0, astride := 0, count := 4, clmask := 1,
    cmask := 1, donech := 0, after := none, start := 0, ranges := [(lo, 0x1000)], undealt := [], dealer := none, ended := 0, never := 0, outstanding := 0, cause := .none,
    late := 0, issuer := 0, issued := 0, order := order, gang := none, card := [], parent := none, cancelled := false, ending := [] }
def sRf (l : List (Nat × Job)) : State := { sPg none with jobs := l }
theorem witness_rfc : trapped (sRf []) (tPg none) (.rfc 9 8 6) .operandRange 0 0 = true ∧ trapped (sRf []) (tPg none) (.rfc 9 6 0) .operandRange 0 0 = true ∧
    trapped (sRf []) (tPg none) (.rfc 9 6 8) .operandRange 0 0 = true ∧ gave (sRf []) (tPg none) (.rfc 9 6 7) 9 0xFFFFFFFFFFFFFFFF = true ∧
    gave (sRf [(1, fjob .dealing 4 0x1000), (2, fjob .held 1 0x1000)]) (tPg none) (.rfc 9 6 6) 9 0 = true ∧
    gave (sRf [(1, fjob .held 4 0x1000), (2, fjob .held 3 0x5000), (3, fjob .held 4 0x1FFF)]) (tPg none) (.rfc 9 6 6) 9 2 = true := by decide +kernel

/-- A record of one page in slot 1, pending, of the strand or of the engine; a strand or a copy asleep on it. -/
def tFr : Strand := hand [(1, 0x7000000200200), (2, 0x7000000200201), (3, 0x8000000200200)]
def asleep : Strand := { hand [] with uid := 88, status := .asleep 0x7000000200200 }
def paused : Copy := { Copy.blank ⟨1, 5, 1, .h, 0x1000, 3⟩ with strm := 1, num := 8, w := 8, h := 1, pl := 1, start := 7, paused := some ⟨0, 0, 9, 0x200000, false, 0x7000000200200, none⟩ }
def sFr (engine : Bool) (there : Bool) : State :=
  let s := poke (areas (paged (lab tFr))) 0x100200 [7 * 2 ^ 48 + 2 ^ 42 + (if engine then 2 ^ 41 else 0) + 2 ^ 16]
  if there then updCore s here.core (fun k => { k with strands := k.strands ++ [(4, asleep)], copies := [paused] }) else s
theorem witness_fresume : Admits (sFr false true) tFr (.fresume 9 1) ∧ (sFr false true).pend = [] ∧ areaBase (getDom (sFr false true) 1).trarea = 0x200000 ∧
    (∀ acc ∈ [Acc.load, .store], isOk (devXlate (sFr false true) (recAgent here 1) 0x200200 acc) (0x100200, sFr false true) = true) ∧ (sFr false true).memBad = [] ∧
    Memory.wf (sFr false true).mem = true ∧ findAsleep (sFr false true) 1 0x7000000200200 = some (⟨here.core, 4⟩, asleep) ∧ findAsleep (sFr false false) 1 0x7000000200200 = none ∧
    pausedOn (sFr true true) 1 0x7000000200200 = some (here.core, paused) ∧ pausedOn (sFr true false) 1 0x7000000200200 = none ∧ copyOf (sFr true true) here.core 1 8 = some paused := by
  decide +kernel
/-- A record that is the software's to close, but for one bit that must be zero. -/
def sFz (n : Nat) : State := poke (setDom (sFr false true) 1 { getDom (sFr false true) 1 with trapch := 0 }) (0x100200 + 8 * n) [1]
theorem witness_fresume_zeros : [5, 9].all (fun n => trapped (sFz n) tFr (.fresume 9 1) .eretInvalid 0 0x7000000200200) = true ∧
    (∀ acc ∈ [Acc.load, .store], isOk (devXlate (sFz 9) (recAgent here 1) 0x200200 acc) (0x100200, sFz 9) = true) ∧ (sFz 9).memBad = [] := by decide +kernel
theorem witness_fresume_zeros_end : [40, 63].all (fun n => trapped (sFz n) tFr (.fresume 9 1) .eretInvalid 0 0x7000000200200) = true := by decide +kernel
theorem test_fresume : nextIs (exec (.fresume 9 1) (sFr false true)) (fun s => decide ((getStrand s ⟨here.core, 4⟩).map (fun u => u.status) = some .ready ∧
      leWord (memBytes s.mem 0x100200 8) = 0x0007040000020000)) = true ∧
    (let s := setDom (sFr false true) 1 { getDom (sFr false true) 1 with trarea := 0 }
     trapped s tFr (.fresume 9 1) .eretInvalid 0 0x7000000200200 = true) := by decide +kernel

/-! PRIV. -/

/-- Selectors: a home slice and the PCIe bridge for `actw`; core 1 of the cluster, all of it, for `partw`; its strands for `preempt`. -/
def tPr : Strand := hand [(1, 0x40 * 2 ^ 24 + 1), (2, 3), (3, 63 * 2 ^ 24 + 1), (4, 0x102), (5, 0x50003), (6, 2 ^ 42 + 2 ^ 41 + 2 ^ 28), (7, 0x010203), (8, 3 + 2 ^ 42 + 2 ^ 41),
  (9, 2 ^ 42 + 2 ^ 28 + 2 ^ 36), (10, 2 ^ 42 + 2 ^ 28 + 2 ^ 22 + 2 ^ 23), (11, 2 ^ 20), (12, 1), (13, 2), (14, 0x1007), (15, 2 ^ 42 + 2 ^ 41 + 2 ^ 28 + 1), (16, 2 ^ 42 + 2 ^ 41 + 2 ^ 28 + 2),
  (17, 2 ^ 46 + 2 ^ 28), (18, 6 * 2 ^ 40 + 1)]
def sPr : State := { paged (lab tPr) with cys := { State.reset.cys with now := 500, ref := true, refPkg := 77, last := -5 } }
theorem witness_actw : trapped sPr tPr (.actw 20 1 2) .operandRange 0 0 = true ∧ gave { sPr with access := [((0, 63, 1), 9)] } tPr (.actw 20 3 2) 20 9 = false ∧
    aget sPr.access (0, 63, 1) = none ∧ Admits sPr tPr (.actw 20 18 2) ∧
    runs sPr tPr (.actw 20 3 2) (goesOn { sPr with access := aset sPr.access (0, 63, 1) 3 } tPr (.actw 20 3 2) (wr tPr.r 20 0 false)) = true := by decide +kernel
theorem witness_filtw : trapped sPr tPr (.filtw 20 4 2) .operandRange 0 0 = true ∧
    runs sPr tPr (.filtw 20 4 5) (goesOn { sPr with filter := aset sPr.filter (1, 2) 0x50003 } tPr (.filtw 20 4 5) (wr tPr.r 20 0 false)) = true := by decide +kernel

/-- Core 1 free, failed, of the domain and empty, of another domain. -/
def core1 : CoreId := computeId 0 0 1
def sPart (dom : Option Nat) (failed : Bool) : State := updCore sPr core1 (fun k => { k with dom := dom, failed := failed })
theorem witness_partw_assign : (∀ i ∈ [Instr.partwAssign 20 6 7, .partwWithdraw 20 6 7, .partwSetWord 20 6 7], Admits (sPart none false) tPr i) ∧
    bitsOf (rd tPr.r 6) 52 12 = sPr.pkg ∧ (getCore (sPart none false) core1).dom = none ∧ (getCore (sPart none true) core1).failed = true ∧
    (∀ x ∈ [(sPart none true, (0x801A : Word)), (sPart (some 9) false, 0x8028)], runs x.1 tPr (.partwAssign 20 6 7) (goesOn x.1 tPr (.partwAssign 20 6 7) (wr tPr.r 20 x.2 false)) = true) ∧
    trapped sPr tPr (.partwAssign 20 8 7) .operandRange 0 0 = true ∧ selCore (rd tPr.r 6) = core1 ∧ core1 ≠ here.core ∧ 1 + 2 + 3 ≤ 47 := by decide +kernel
theorem test_partw_assign : nextIs (exec (.partwAssign 20 6 7) (sPart none false)) (fun s => decide ((getCore s core1).dom = some 1 ∧ (getCore s core1).pword = 0x010203)) = true ∧
    nextIs (exec (.partwAssign 20 17 7) sPr) (fun s => decide ((getCore s (computeId 0 1 0)).dom = some 1 ∧ (getCore s (computeId 0 1 15)).dom = some 1 ∧ (getCore s core1).dom = none)) = true := by decide +kernel

/-- A strand of the domain on core 1. -/
def other : Strand := { hand [] with uid := 100 }
def sBusy : State := setStrand (sPart (some 1) false) ⟨core1, 1⟩ other
theorem witness_partw_withdraw : bitsOf (rd tPr.r 15) 0 2 = 1 ∧ (getCore (sPart (some 1) false) core1).strands = [] ∧ (getCore (sPart (some 1) false) core1).jmu.chans = [] ∧ sPr.jobs = [] ∧
    nextIs (exec (.partwWithdraw 20 15 7) (sPart (some 1) false)) (fun s => decide ((getCore s core1).dom = none)) = true ∧
    getStrand sBusy ⟨core1, 1⟩ = some other ∧ other.preq = none ∧
    nextIs (exec (.partwWithdraw 20 15 7) sBusy) (fun s => decide ((getCore s core1).leaving = true ∧ (getStrand s ⟨core1, 1⟩).map (fun u => u.preq) = some (some (500, .withdraw)))) = true := by
  decide +kernel
theorem witness_partw_word : nextIs (exec (.partwSetWord 20 16 7) sBusy) (fun s => decide ((getCore s core1).pendWord = some 0x010203)) = true ∧
    (let s := updCore sBusy core1 (fun k => { k with pword := 0x010203 }); runs s tPr (.partwSetWord 20 16 7) (goesOn s tPr (.partwSetWord 20 16 7) (wr tPr.r 20 0 false)) = true) ∧
    runs (sPart (some 9) false) tPr (.partwSetWord 20 16 7) (goesOn (sPart (some 9) false) tPr (.partwSetWord 20 16 7) (wr tPr.r 20 0x8028 false)) = true ∧
    runs (sPart (some 1) true) tPr (.partwSetWord 20 16 7) (goesOn (sPart (some 1) true) tPr (.partwSetWord 20 16 7) (wr tPr.r 20 0x801A false)) = true := by decide +kernel
/-- The word that the `partw` posted waits to apply, or has applied. -/
def tPh : Strand := { tPr with phase := some .posted }
def sPh (w : Option (BitVec 32)) : State := updCore (setStrand sBusy here tPh) core1 (fun k => { k with pendWord := w })
theorem witness_partw_waits : Admits (sPh none) tPh (.partwSetWord 20 16 7) ∧ (getCore (sPh (some 0x010203)) core1).failed = false ∧
    runs (sPh none) tPh (.partwSetWord 20 16 7) (goesOn (sPh none) tPr (.partwSetWord 20 16 7) (wr tPr.r 20 0 false)) = true ∧
    nextIs (exec (.partwSetWord 20 16 7) (sPh (some 0x010203))) (fun s => (getStrand s here).map (fun u => (u.status, u.phase)) == some (.waiting .partition, some .posted)) = true ∧
    nextIs (exec (.partwSetWord 20 16 7) sBusy) (fun s => (getStrand s here).map (fun u => (u.status, u.phase)) == some (.waiting .partition, some .posted)) = true := by decide +kernel

/-- One image slot for one strand, or none. -/
def sPre (area : Word) : State := setDom sBusy 1 { getDom sBusy 1 with imgarea := area }
theorem witness_preempt : (∀ i ∈ [Instr.preempt 20 9, .preemptHalt 20 10], Admits (sPre 0x200000) tPr i) ∧ ((getCore (sPre 0x200000) core1).strands.map (fun y => y.1)).Nodup ∧
    trapped (sPre 0) tPr (.preempt 20 11) .operandRange 0 0 = true ∧
    runs (sPre 0) tPr (.preempt 20 9) (goesOn (sPre 0) tPr (.preempt 20 9) (wr tPr.r 20 0x8052 false)) = true ∧
    nextIs (exec (.preempt 20 9) (sPre 0x200000)) (fun s => decide ((getStrand s ⟨core1, 1⟩).map (fun u => u.preq) = some (some (500, .preempt)) ∧ (getDom s 1).imgReserved = 1 ∧
      (getStrand s here).map (fun u => rd u.r 20) = some 1)) = true ∧
    nextIs (exec (.preemptHalt 20 10) (sPre 0)) (fun s => decide ((getStrand s ⟨core1, 1⟩).map (fun u => u.halt) = some true)) = true := by decide +kernel
theorem witness_tsync : (∀ i ∈ [Instr.tsyncStatus 20 0 0, .tsyncSetReference 20 12 14, .tsyncSetTime 20 13 14], Admits sPr tPr i) ∧ sPr.cys.refPkg < 4096 ∧
    gave sPr tPr (.tsyncStatus 20 0 0) 20 0x4000004DFFFFFFFD = true ∧
    runs sPr tPr (.tsyncSetReference 20 12 14) (goesOn { sPr with cys := { sPr.cys with ref := true, refPkg := 0 } } tPr (.tsyncSetReference 20 12 14) (wr tPr.r 20 0 false)) = true ∧
    sPr.cys.now ≤ (rd tPr.r 14).toNat ∧ trapped sPr tPr (.tsyncSetTime 20 13 12) .operandRange 0 0 = true ∧ trapped sPr tPr (.tsyncStatus 20 4 0) .operandRange 0 0 = true := by
  decide +kernel

end Sys2Proof.Tests
end

