-- ==== Sys2Proof/Tests/Platform.lean ====
section
/-! SUPPORT. Witnesses and tests of the statements on boot, the mailbox, the platform and the machine as a whole. -/

namespace Sys2Proof.Tests

set_option Elab.async false

open Sys2Proof.Machine Sys2Proof.Says

/-! Boot. -/

/-- What the network gives: nothing, a lease without a URL, bytes. -/
def net (lease url : Bool) (image : Option (List Byte)) : BootInput := ⟨lease, url, image⟩
def off : State := { State.reset with powered := false }
def on (stage next now : Nat) : State := { State.reset with powered := true, boot := { State.reset.boot with stage := stage, next := next }, cys := { State.reset.cys with now := now } }
/-- Duiker in a stage, about to end it, with bytes received or given. -/
def stageOf (n : Nat) (l : List Byte) (got : Option BootInput) : State :=
  { State.reset with powered := true, agenda := [.boot], boot := { State.reset.boot with stage := n, image := l, got := got } }
theorem witness_boot : off.powered = false ∧ (net false true none).lease = false ∧ (net true false none).url = false ∧ (net true true none).image = none ∧
    (on 1 0 5).boot.stage ≤ 2 ∧ (on 1 0 5).boot.halted = false ∧ (on 1 0 5).boot.got = none ∧ (on 1 0 5).boot.next ≤ (on 1 0 5).cys.now ∧
    (on 1 6 5).cys.now < (on 1 6 5).boot.next := by decide +kernel
theorem witness_image_too_long (n : Nat) (h : 2 ^ 24 < n) : 2 ^ 24 < (List.replicate n (0 : Byte)).length := Nat.lt_of_lt_of_eq h List.length_replicate.symm
theorem test_boot_tries : nextIs (exec (.powerOn (net true false none)) off) (fun s => s.powered && decide (s.boot.stage = 1 ∧ s.boot.cause = 1 ∧ s.boot.next = 10000000000)) = true ∧
    nextIs (exec (.bootRetry (net true true (some [1, 2, 3]))) (on 2 0 5)) (fun s => decide (s.boot.stage = 2 ∧ s.boot.cause = 0 ∧ s.boot.got = some (net true true (some [1, 2, 3])))) = true ∧
    ends (exec (.bootRetry (net true true none)) (on 1 6 5)) (on 1 6 5) = true := by decide +kernel

/-- An RSA-3072 key, and its PSS signature of `goodHead`, the header of an image with SVN 9 and no body: made with OpenSSL. -/
def goodKey : List Byte := [0xC45E3E1FE522A3AF934E3D35DE41AEB9DD4D17EEADD2DCCF7F40782CF0E6B9988BABA04CBD136592B084FCD7796489A3396C704EB581C84F3F9F3A28D391A59C,
  0xF83D9F7711EAA59AB5CAFF37998CBCD338EA1326FC23E6C32BBB3E18AC39122A741285792EA94C5D6AC4B3610318CA05DD064BB96F8713C3A325E1559B09E392,
  0xCB3AB55853316BB4A5DEEAD04DEEE87E0798FF51312A15E6F214FDE1AEFCA21DCF25FF3AA1BE4B93F0A4847F9D6798A8E7C72EE7761130B606DAA5AFE67107E0,
  0x76090AE8607FAF844D345DC1BB3852F17EE7111CBBBD40D5B76E29BA060DE8CE51EB843D5A9008751E6EBBDA6326BDAFAF5C6325C11A96FDDF89DE25EA5F9063,
  0x7303B44EB4C47FAC8F25CFBCCB59B2D2C68F952079129853DF07228CBA856DA299E526EB6A1C9E2CE2AD3B52BE55BE1D9BB14E288365E8882A19486209FC3C83,
  0x265FB667F1CF5F51D3D1A3F0D74198CBB2F44B7DB14CF9789ED6E4940340A5D70721F6C74EE73830604067585D56BD4432F3B40E658761653C0F704D618BF683].flatMap (beBytes 64)
def goodSig : List Byte := [0x9309D7D0F4C1FF094952BFD3FE85473A3E8F0415AED8943809195CFCBB164D96C44CB9A12230FEC1A7A5DD83B8F1DEAF461F1545ACB6BCE7D3C74D3E6D43CFBE,
  0x0561642E54D33F6399BEFDCAB27D1C38F8F99581AF0AFAE1A837AC9E22718DBF2BDFA430BF240F00B7F643A0889EDD4D94E7F5387B62D0A168E4060D818BB08D,
  0x2D364C15D4FBE9A04277C077531B0D0D2193E642D21B685F4E34A86B25A4640950F77BB26C824ECFCD89594473401D67EF30177246AC5C39E5354C3980B05B48,
  0xF8910622A3C34A7DC68D20EB667E2F3D8644030EF1D1D932E8B33AB58931A2C565A9F27989D93DFE3E86CBAE528BFFC4C90137BB16B4462DF10C5DDCE09D2AB4,
  0x208F1217044D9B21720D1DE4F4F0DCB532AC1663F9572CE28EB63533A3FA1B46BCFDE29F30B7AAFDC602FFFC1521A56EA6388899A9E2A2C18264F8667EC5994E,
  0xACD144D696CD279BB4F6DB398015BDDF0D746F7CF80B645BFA9D872158DB8307DE8A903A315A6740A7B479E47F9EB316C6CD2552B0DD6B940443F62A4C610805].flatMap (beBytes 64)
def goodHead : List Byte := [0x53, 0x56, 0x5A, 0x4A, 0x51, 0x46, 0x57, 0x31] ++ leBytes 8 9 ++ leBytes 8 0 ++ goodKey ++ List.replicate 48 7#8 ++ List.replicate 56 0#8
def goodImage : List Byte := goodHead ++ goodSig ++ List.replicate 16224 0#8
/-- SHA-384 of "abc" (FIPS 180-4), and OpenSSL's signature. What `Config.rsaFuse`, `Config.slhFuse` and `Config.fuses` are is open (log 5), so
no closed witness shows the keys fused or an SVN below the fuses; the SLH-DSA check of a true signature is too long for a test. -/
theorem test_hash : sha384 [0x61, 0x62, 0x63] = 0xcb00753f45a35e8bb5a03d699ac65007272c32ab0eded1631a8b605a43ff5bed8086072ba1e7cc2358baeca134c825a7 := by decide +kernel
theorem test_signature : rsaPssOk goodKey goodHead goodSig = true := by decide +kernel
theorem witness_layout : imageLayoutOk (goodImage) = true ∧ imageLayoutOk [1, 2, 3] = false ∧ (goodImage.drop 24).take 384 = goodKey ∧ goodImage.take (512 + (wordAt goodImage 2).toNat) = goodHead ∧
    (goodImage.drop (512 + (wordAt goodImage 2).toNat)).take 384 = goodSig ∧ bitsOf (wordAt goodImage 1) 0 6 = 9 := by decide +kernel
theorem witness_stages : (∀ n ∈ [2, 3, 4, 5, 6], (stageOf n goodHead none).powered = true ∧ (stageOf n goodHead none).boot.halted = false ∧ (stageOf n goodHead none).boot.again = false ∧
      (stageOf n goodHead none).agenda = .boot :: [] ∧ (stageOf n goodHead none).boot.image = goodHead) ∧
    slhDsaOk ((goodHead.drop 408).take 48) goodHead ((goodHead.drop 896).take 16224) = false ∧
    rsaPssOk [] [] [] = false := ⟨fun _ _ => ⟨rfl, rfl, rfl, rfl, rfl⟩, by decide +kernel, by decide +kernel⟩
theorem test_stages : nextIs (step (stageOf 2 [] (some (net true true none)))) (fun s => decide (s.boot.stage = 2 ∧ s.boot.cause = 1 ∧ s.boot.next = 10000000000)) = true ∧
    nextIs (step (stageOf 2 [] (some (net true true (some [1, 2]))))) (fun s => decide (s.boot.stage = 3 ∧ s.boot.image = [1, 2] ∧ s.boot.got = none)) = true ∧
    nextIs (step (stageOf 3 [1, 2] none)) (fun s => s.boot.halted && decide (s.boot.stage = 3 ∧ s.boot.cause = 2)) = true ∧
    nextIs (step (stageOf 4 [] none)) (fun s => s.boot.halted && decide (s.boot.stage = 4 ∧ s.boot.cause = 3)) = true ∧
    nextIs (step (stageOf 5 [] none)) (fun s => s.boot.halted && decide (s.boot.stage = 5 ∧ s.boot.cause = 4)) = true := by decide +kernel
/-- A state in which a RESTART has been answered. -/
def sAgain : State := { stageOf 8 [] none with boot := { (stageOf 8 [] none).boot with again := true }, mboxRep := 5, cores := (lab (hand [])).cores }
theorem test_restart : sAgain.boot.again = true ∧ nextIs (step sAgain) (fun s => s.cores.isEmpty && decide (s.boot.stage = 1 ∧ s.mboxRep = 0)) = true := by decide +kernel
theorem test_power_removal : nextIs (exec .powerRemoval { lab (hand []) with powered := true }) (fun s => !s.powered && s.cores.isEmpty) = true := by decide +kernel

/-! The mailbox. -/

/-- A request of an opcode, with its other bits and a second word. -/
def mail (op rest arg : Nat) : BitVec 512 := BitVec.ofNat 512 (op + rest * 256 + arg * 2 ^ 64)
def sMail : State := { lab (hand []) with powered := true, sensors := (List.range 336).map (BitVec.ofNat 32), sensorTime := 1000, cys := { State.reset.cys with now := 9000 } }
theorem witness_mailbox : sMail.powered = true ∧ sMail.mboxBusy = false ∧ sMail.boot.halted = false ∧ sMail.boot.again = false ∧ { sMail with boot := { sMail.boot with halted := true } }.boot.halted = true ∧
    (∀ op ∈ [0, 1, 2, 3, 4, 5, 6, 255], bitsOf ((mail op 0 0).extractLsb' 0 64) 0 8 = op) ∧ { sMail with mboxBusy := true }.mboxReq ≠ mail 1 0 0 := by decide +kernel
/-- Opcode 3: a good halt word, one without HALT, one of a cluster that is none. -/
def haltWord : Word := BitVec.ofNat 64 (2 ^ 22)
theorem witness_mailbox_halt : bitsOf haltWord 52 12 = sMail.pkg ∧ haltWord &&& 0x000000000F3FFFFF = 0 ∧ bitsOf haltWord 46 4 ≤ 9 ∧ haltWord.getLsbD 22 = true ∧
    (0 : Word).getLsbD 22 = false := by decide +kernel
theorem witness_mailbox_dead_sensor : bitsOf ((mail 4 9 0).extractLsb' 0 64) 8 12 = 9 ∧ 9 ≠ sMail.pkg ∧ bitsOf ((mail 4 0 0).extractLsb' 0 64) 8 12 = sMail.pkg ∧
    bitsOf ((mail 5 0 335).extractLsb' 64 64) 0 16 = 335 ∧ bitsOf ((mail 5 0 336).extractLsb' 64 64) 0 16 = 336 ∧ sMail.sensors.length = 336 := by decide +kernel
/-- R400, R402: sensor 256 is a power sensor with age 8 us; an unknown opcode is refused. -/
theorem test_mailbox : nextIs (exec (.mailboxReadSensor (mail 5 0 256)) sMail) (fun s => decide (s.mboxRep.extractLsb' 64 64 = 0x0200000800000100)) = true ∧
    nextIs (exec (.mailboxReadSensor (mail 6 0 0)) sMail) (fun s => decide (s.mboxRep.extractLsb' 0 64 = 0x68028)) = true ∧
    nextIs (exec (.mailboxRestart (mail 1 0 0)) sMail) (fun s => s.boot.again && decide (s.mboxRep.extractLsb' 0 64 = 0x10000)) = true := by decide +kernel

/-! The host and the platform. -/

/-- Aperture 0 maps the first GiB of memory for domain 1; aperture 1 maps nothing. -/
def sBar : State := { lab (hand []) with powered := true, bar4ap := [(0, 0x8000000000000001)], access := [((7, 0, 1), 3)], mem := memStore [] 0x100 [1, 2, 3, 4] }
theorem witness_bar : sBar.powered = true ∧ ((aget sBar.bar4ap 0).getD 0).getLsbD 63 = true ∧ bitsOf ((aget sBar.bar4ap 0).getD 0) 30 18 = 0 ∧
    (∀ bit ∈ [0, 1], (accessBits sBar 7 0 (bitsOf ((aget sBar.bar4ap 0).getD 0) 0 8)).getLsbD bit = true) ∧ sBar.memBad = [] ∧ sBar.memPois = [] ∧
    Memory.wf sBar.mem = true ∧ ((aget sBar.bar4ap 1).getD 0).getLsbD 63 = false ∧ (accessBits { sBar with access := [] } 7 0 1).getLsbD 1 = false := by decide +kernel
theorem witness_bar_frames : ∀ k < 2 ^ 30, frameExists sBar (0 * 2 ^ 30 + k) = true ∧ tierDead sBar (0 * 2 ^ 30 + k) = false := by
  intro k h
  constructor
  · simp only [frameExists, Bool.or_eq_true, decide_eq_true_eq]
    omega
  · rw [tierDead, Bool.and_eq_false_iff, decide_eq_false_iff_not]
    omega
theorem witness_bar_inside : (2 ^ 30 - 4 : Nat) < 2 ^ 36 ∧ (2 ^ 30 - 4) % 2 ^ 30 + 4 ≤ 2 ^ 30 := by decide
theorem test_bar : nextIs (exec (.hostBar4Read 0x100 4) sBar) (fun s => decide (s.barData = [(1, false), (2, false), (3, false), (4, false)])) = true ∧
    nextIs (exec (.hostBar4Read 0x40000100 2) sBar) (fun s => decide (s.barData = [(0xFF, false), (0xFF, false)])) = true ∧
    nextIs (exec (.hostBar4Write 0x102 [9]) sBar) (fun s => decide (memBytes s.mem 0x100 4 = [1, 2, 9, 4])) = true := by decide +kernel
theorem witness_doorbell : areaBase (getDom sBar 1).replog = 0 ∧ (getDom sBar 1).repch = 0 ∧ (getDom (areas sBar) 1).repch ≠ 0 := by decide +kernel

/-- Time: no exchange yet, an exchange due, the reference, a lock that is 10 ms old. -/
def sClk (ref locked : Bool) (now : Nat) : State := { lab (hand []) with powered := true, cys := { State.reset.cys with ref := ref, locked := locked, now := now } }
theorem witness_clock : (sClk false false 1000000).cys.ref = false ∧ (sClk false false 999999).cys.now < (sClk false false 999999).cys.asked + 1000000 ∧
    (sClk false false 1000000).cys.asked + 1000000 ≤ (sClk false false 1000000).cys.now ∧ (sClk true false 0).cys.ref = true ∧
    (sClk false true 10000000).cys.locked = true ∧ (sClk false true 10000000).cys.ref = false ∧ (sClk true true 10000000).cys.ref = true ∧ (sClk false true 10000000).cys.lastExchange + 10000000 ≤ (sClk false true 10000000).cys.now ∧
    (sClk false true 9999999).cys.now < (sClk false true 9999999).cys.lastExchange + 10000000 := by decide +kernel
theorem test_clock : nextIs (exec .timeSyncLost (sClk false true 10000000)) (fun s => !s.cys.locked && decide ((getDom s 1).repseq = 1)) = true ∧
    nextIs (exec (.timeExchange 7) (sClk false false 1000000)) (fun s => decide (s.out.map (fun q => (q.dst, q.vc, q.type)) = [(7, 4, 28)])) = true := by decide +kernel

/-- Sensors: all cool; one at the first limit, one at the second. -/
def temps (v : BitVec 32) : List (BitVec 32) := v :: List.replicate 335 0
theorem witness_sensors : sBar.sensors = [] ∧ (temps 1680).length = 336 ∧ (temps 0x80000000).length = 336 := by decide +kernel
theorem witness_sensor_limits : BitVec.toInt (1680 : BitVec 32) = 105 * 16 ∧ BitVec.toInt (1840 : BitVec 32) = 115 * 16 ∧ BitVec.toInt (0x80000000 : BitVec 32) < 105 * 16 := by decide
theorem witness_bubble : (getCore sBar here.core).bubble ≤ 15 ∧ bitsOf (0x2400000000000 : Word) 46 4 ≤ 9 ∧
    (getCore sBar (computeId (bitsOf (0 : Word) 50 2) (bitsOf (0 : Word) 46 4) 0)).dom = some 1 := by decide +kernel
/-- Sensor 0 of die 0 read 105 °C at the last sample, and lies in the cluster of the core. -/
theorem witness_hot_cluster : let c := computeId 0 (Config.sensorCluster 0 % 10) 0
    c.kind = .compute ∧ { sBar with sensors := [0x690] }.sensors[64 * c.die + 0]? = some 0x690 ∧ 105 * 16 ≤ (0x690 : BitVec 32).toInt ∧
    Config.sensorCluster (64 * c.die + 0) % 10 = c.clus ∧ sBar.sensors = [] := ⟨rfl, rfl, by decide, rfl, rfl⟩
theorem witness_bubble_slice : (getCore sBar here.core).bubbleSet ≠ sBar.cys.now / 1000 + 1 ∧
    (getCore (updCore sBar here.core (fun k => { k with bubbleSet := 1 })) here.core).bubbleSet = sBar.cys.now / 1000 + 1 ∧ passedOn sBar 0 0 4 = [] := by decide +kernel
/-- One device of 64 GiB at CXL port 0. -/
def sTier : State := { sBar with cxl := [(0, 2 ^ 36)] }
theorem witness_lines : 0x8000000000 ≤ 64 * 0x200000000 ∧ frameExists sTier (64 * 0x200000000) = true ∧ frameExists sBar (64 * 4) = true ∧ tierDead sBar (64 * 4) = false ∧ sBar.memBad = [] ∧
    aget (getClus sBar 0 0).cc 4 = none := by decide +kernel
theorem test_line_fill : nextIs (exec (.icacheLineFill here.core 4) sBar) (fun s => decide ((aget (getCore s here.core).icache 4).map (fun l => l.extractLsb' 0 32) = some 0x04030201)) = true ∧
    nextIs (exec (.icacheLineFill duikerId 4) sBar) (fun s => decide ((aget (getCore s duikerId).icache 4).map (fun l => l.extractLsb' 0 32) = some 0x04030201)) = true := by
  decide +kernel

/-! A step. -/

/-- The strand's page 0 stands at frame 0x100000, and the line of its pc, 0x1000, in the instruction cache: `csrr s4, fctl` and `idle`. -/
def tStep : Strand := { hand [] with r := { (regs []) with fctl := 0x45 } }
def sRun : State := { updCore (lab tStep) here.core (fun k => { k with tlb := [page 0 0x100000], icache := [(0x101000 / 64, 0x000000A000200064)] }) with turn := [here] }
theorem witness_step : sRun.turn = [here] ∧ sRun.agenda = [] ∧ getStrand sRun here = some tStep ∧ tStep.status = .ready ∧ tStep.pc.toNat < 2 ^ 56 ∧
    tStep.pc.toNat / 65536 ∉ tStep.absent ∧ (getCore sRun here.core).tlb.find? (tlbHit 1 (tStep.pc.toNat / 65536)) = some (page 0 0x100000) ∧
    (page 0 0x100000).loc = 0 ∧ (page 0 0x100000).priv ≤ privNum tStep.priv ∧ (page 0 0x100000).x = true ∧ frameExists sRun 0x101000 = true := by decide +kernel
theorem witness_step_fetched : aget (getCore sRun here.core).icache (0x101000 / 64) = some 0x000000A000200064 ∧
    isStart (leBytes 64 0x000000A000200064) 0 = true ∧ lacksMajor .compute (fMaj 0x00200064).toNat = false ∧ (getDom sRun 1).bkpt.all (fun b => !b.getLsbD 0) = true ∧
    isOk (decode (leBytes 64 0x000000A000200064)) (.csrr 4 1, 4) = true := by decide +kernel
theorem witness_step_xlate : (fetchXlate { sRun with turn := [], cur := here } here tStep tStep.pc).1 = .at_ 0x101000 := by decide +kernel
/-- The turn comes behind the agenda's own mark, or before the cycle's end; a strand that waits for an answer polls. -/
def sTurn (a : Act) : State := { sRun with agenda := [a] }
def sPoll (w : Wait) : State := setStrand sRun here { tStep with status := .waiting w, inside := true }
theorem witness_turns : 0 ∈ startsFrom (leBytes 64 0x000000A000200064) 0 16 ∧ (∀ a ∈ [Act.turn, .cycle true], getStrand (sTurn a) here = some tStep ∧
      nextIs (step (sTurn a)) (fun s => decide ((getStrand s here).map (fun t => t.pc) = some 0x1004)) = true) ∧
    ∀ w ∈ [Wait.answer 7, .partition], (fetchXlate (setStrand { sPoll w with turn := [], cur := here } here { tStep with inside := true }) here { tStep with inside := true } tStep.pc).1 = .at_ 0x101000 ∧
      nextIs (step (sPoll w)) (fun s => decide ((getStrand s here).map (fun t => t.pc) = some 0x1004)) = true := by decide +kernel
theorem test_step : nextIs (step sRun) (fun s => decide ((getStrand s here).map (fun t => (rd t.r 4, t.pc)) = some (0x45, 0x1004))) = true := by decide +kernel
theorem witness_event : { sRun with agenda := [.ev (.timerExpiry 1)] }.agenda = .ev (.timerExpiry 1) :: [] := rfl
/-- A state in canonical form whose next step answers a next state (`MemoryKept`). -/
theorem witness_memory_kept : sRun.memWf = true ∧ (match step sRun with | .next _ => true | _ => false) = true := by decide +kernel
/-- An instruction that an encoding exists for (`DecodeEncode`). -/
theorem witness_encode : (encode (.csrr 4 1)).isSome = true ∧ (Instr.csrr 4 1).wf = true := by decide +kernel
/-- An instruction stops where no strand's turn it is (`NothingRefused`). -/
theorem test_no_strand : (match exec (.csrr 4 1) State.reset with | .fault .noStrand => true | _ => false) = true := by decide +kernel

end Sys2Proof.Tests
end

