-- ==== Sys2Proof/Tests/Saves.lean ====
section
/-! SUPPORT. Witnesses and tests of the statements on saving and restoring strands and cores, and on what befalls a strand or a core. -/

namespace Sys2Proof.Tests

set_option Elab.async false

open Sys2Proof.Machine Sys2Proof.Says

/-! Strands saved and restored. -/

/-- A strand with a request to be saved, in a state of its own. -/
def tSv (st : Status) : Strand := { hand [(1, 0x11), (3, 0x33), (31, 0xFF)] with status := st, preq := some (5, .preempt), prio := 5, kind := 2, pat := 77, entry := 0x5550 }

/-- Its domain's imgarea is two slots at 0x220000, of which those in `used` are taken; its page stands at frame 0x120000. -/
def sSv (t : Strand) (used : List Nat) : State :=
  let s := lab t
  let s := updCore s here.core (fun k => { k with tlb := [page 0x22 0x120000, page 0x23 0x130000] })
  let s := setDom s 1 { getDom s 1 with imgarea := 0x220001, imgUsed := used, imgReserved := 1 }
  { setClus s 0 0 { getClus s 0 0 with engTlb := [(0, page 0x22 0x120000), (0, page 0x23 0x130000)] } with
    access := [((0, 2, 1), 15), ((0, 3, 1), 15), ((0, 4, 1), 15), ((0, 6, 1), 15)], cys := { State.reset.cys with now := 300000 }, cycle := 60 }
def saveAt (s : State) (n : Nat) (pa : Nat) : Bool := isOk (devXlate s (recAgent here 1) (BitVec.ofNat 64 (0x220000 + 65536 * n)) .store) (pa, s)

/-- The parts of `maySave`, in a form that computes. -/
def mayBe (s : State) (t : Strand) (n pa : Nat) : Bool :=
  decide (getStrand s here = some t ∧ t.openers = [] ∧ belowDone s here.core t.uid s.uid [] 2 = true ∧ t.shadow = none ∧ (getCore s here.core).dteq = [] ∧ (getCore s here.core).kuduq = [] ∧
    t.r.v.length ≤ 32 ∧ t.tiles.length ≤ 8 ∧ t.tabs.length ≤ 8 ∧ t.dom = 1 ∧ areaBase (getDom s 1).imgarea = 0x220000 ∧
    n < 2 ^ areaLog (getDom s 1).imgarea ∧ n ∉ (getDom s 1).imgUsed ∧ (∀ m < n, m ∈ (getDom s 1).imgUsed) ∧ pa % 65536 = 0 ∧ s.memBad = [] ∧
    Memory.wf s.mem = true) && saveAt s n pa
theorem mayBe_saves {s : State} {t : Strand} {n pa at_ : Nat} (h : mayBe s t n pa = true) (hp : t.preq = some (at_, .preempt)) : maySave s here t n 0x220000 pa := by
  simp only [mayBe, Bool.and_eq_true, decide_eq_true_eq] at h
  obtain ⟨⟨h1, h2, h3, h4, h5, h6, h7, h8, h9, h10, h11, h12, h13, h14, h15, h16, h17⟩, h18⟩ := h
  unfold maySave
  rw [h10, h5, h6]
  exact ⟨h1, ⟨at_, hp⟩, h2, h3, h4, fun _ h => absurd h List.not_mem_nil, h7, h8, h9, h11, by decide, by decide, h12, h13, h14, h15, h16, h17, isOk_eq h18⟩
theorem witness_maySave : ∀ st ∈ [Status.ready, .waiting (.timeline 1 3), .waiting (.tags 9 1 2 0 0), .waiting (.idle 5), .suspended 0x7000000200000,
    .asleep 0x7000000200200, .waiting .stores, .waiting (.miss 77), .waiting (.pause 90), .waiting (.job 0 9 0x300 [] []), .waiting (.engine [1] [] true), .waiting (.answer 7),
    .waiting .openers, .waiting .sends, .waiting (.queue 1)], maySave (sSv (tSv st) []) here (tSv st) 0 0x220000 0x120000 := by
  intro st h
  exact mayBe_saves (at_ := 5) ((show ∀ st ∈ [Status.ready, .waiting (.timeline 1 3), .waiting (.tags 9 1 2 0 0), .waiting (.idle 5), .suspended 0x7000000200000,
    .asleep 0x7000000200200, .waiting .stores, .waiting (.miss 77), .waiting (.pause 90), .waiting (.job 0 9 0x300 [] []), .waiting (.engine [1] [] true), .waiting (.answer 7),
    .waiting .openers, .waiting .sends, .waiting (.queue 1)], mayBe (sSv (tSv st) []) (tSv st) 0 0x120000 = true by decide +kernel) st h) rfl
theorem witness_maySave_second : maySave (sSv (tSv .ready) [0]) here (tSv .ready) 1 0x220000 0x130000 := mayBe_saves (at_ := 5) (by decide +kernel) rfl
/-- The answer that a strand waited for has come (R333). -/
def tNow : Strand := { tSv .ready with saveNow := true }
theorem witness_save_now : maySave (sSv tNow []) here tNow 0 0x220000 0x120000 ∧ tNow.saveNow = true := ⟨mayBe_saves (at_ := 5) (by decide +kernel) rfl, rfl⟩
theorem witness_safept : Admits (sSv (tSv .ready) []) (tSv .ready) (.safept 0 1 0xA 5) ∧ (tSv .ready).preq = some (5, .preempt) ∧
    5 + 100000 ≤ (sSv (tSv .ready) []).cys.now ∧ Admits (lab (hand [])) (hand []) (.safept 0 1 0xA 5) ∧ (hand []).preq = none := by decide +kernel
/-- Registers 1 and 3 are saved, in that order, and the strand goes on after the instruction's eight bytes (R120). -/
theorem test_safept : nextIs (exec (.safept 0 1 0xA 5) (sSv (tSv .ready) [])) (fun s => (getStrand s here).isNone &&
      decide (leWord (memBytes s.mem (0x120000 + 16) 8) = 0x1000 + BitVec.ofNat 64 (Instr.safept 0 1 0xA 5).len ∧
        leWord (memBytes s.mem (0x120000 + 192) 8) = 0x11 ∧ leWord (memBytes s.mem (0x120000 + 200) 8) = 0x33)) = true := by decide +kernel

/-- An image of a strand of domain 1 with one vector register, and the firing that restores it. -/
def fIm : Firing := ⟨.image 0 0x220000 1, 5, 7, 3⟩
def imgW : List Nat := [0x10000000, 5 * 65536 + 2 * 256 + 77, 0x1010, (2 ^ 32 - 2) * 2 ^ 32 + 1, 0x400, 0, 0, 0, 8, 0x45, 0x1000, 0, 1, 0, 0, 0,
  1, 2, 3, 4, 5, 6, 7, 0] ++ (List.range 31).map (fun n => 0x100 + n) ++ [18]
def sRs : State :=
  let s := poke (sSv (tSv .ready) [0]) 0x120000 imgW
  { updCore s here.core (fun k => { k with pword := 0x040404, strands := [(0, hand [])], jmu := { k.jmu with queue := [⟨.image 1 0x230000 1, 4, 7, 3⟩, fIm] } }) with
    access := [((0, 4, 1), 15)] }
theorem witness_restore : firesFirst (getCore sRs here.core) fIm ∧ sRs.memBad = [] ∧ hasRoom sRs here.core 1 1 0 0 ∧
    leWord (memBytes sRs.mem 0x120020 8) = 0x400 ∧ bitsOf (leWord (memBytes sRs.mem 0x120018 8)) 32 32 = 2 ^ 32 - 2 ∧
    bitsOf (leWord (memBytes sRs.mem 0x120060 8)) 0 2 ≤ 2 ∧
    isOk (devXlate sRs ⟨here.core, none, false, 1, 1⟩ 0x220000 .load) (0x120000, sRs) = true ∧
    bitsOf (leWord (memBytes sRs.mem 0x120020 8)) 40 8 = 0 ∧ bitsOf (leWord (memBytes sRs.mem 0x120020 8)) 49 2 = 0 ∧
    (getCore sRs here.core).dteq.length ≤ 16 ∧ (getCore sRs here.core).kuduq.length ≤ 16 ∧ ((List.range 32).filter (fun i => (leWord (memBytes sRs.mem 0x120018 8)).getLsbD i)) = [0] ∧
    bitsOf (leWord (memBytes sRs.mem 0x1201B8 8)) 0 5 = 18 := by
  simp only [firesFirst, hasRoom]
  decide +kernel
/-! Cores saved and restored. -/

/-- Selection words of core 1, with domain 1, and of a unit that is none; an area at 0x400000, and a misaligned one. -/
def tCi : Strand := hand [(1, 0x40010000000), (2, 0x400000), (3, 0x400008), (4, 0x40020000000)]
def unit1 : CoreId := computeId 0 0 1

/-- A page of 2 MiB. -/
def bigPage (v f : Nat) : TlbEntry := { page v f with size := 1 }

/-- Core 1 has those strands; the area stands at frame 0x400000. -/
def sCi (strands : List (Nat × Strand)) : State :=
  let s := sSv tCi []
  let s := updCore { s with access := [((0, 0, 1), 15)] } here.core (fun k => { k with tlb := [bigPage 0x40 0x400000, bigPage 0x60 0x600000, bigPage 0x80 0x800000, bigPage 0xA0 0xA00000] })
  setCore s unit1 { Core.reset with dom := some 1, pword := 0x040404, tagR := 0x55, tagA := 0xAA, strands := strands }
theorem witness_ctxsave : (∀ i ∈ [Instr.ctxsave 9 1 2, .ctxsave 9 1 3, .ctxsave 9 4 2, .ctxload 9 1 2, .ctxload 9 1 3, .ctxload 9 4 2], Admits (sCi []) tCi i) ∧
    tCi.r.spois = 0 ∧ Says.selects (sCi []) (rd tCi.r 1) 0x000003F00FFFFFFF ∧ Says.selects (sCi []) (rd tCi.r 4) 0x000003F00FFFFFFF ∧ (sCi []).pend = [] ∧ selCore (rd tCi.r 1) = unit1 ∧
    (sCi []).jobs = [] ∧ (getCore (sCi []) unit1).dom ≠ some (bitsOf (rd tCi.r 4) 28 8) := by
  simp only [Says.selects]
  decide +kernel
theorem witness_ctxsave_area : okThen ((imageArea (sCi []) (strandAgent here tCi) 0x400000 .store).map (fun s => ((), s))) (fun _ s => decide (s = sCi [])) = true ∧
    (coreImage (startSave (sCi []) unit1 1) unit1 1).length = 512 ∧
    okThen ((devWriteLong (startSave (sCi []) unit1 1) (strandAgent here tCi) 0x400000 (coreImage (startSave (sCi []) unit1 1) unit1 1) false 128).map
      (fun s => ((), s))) (fun _ s => decide (leWord (memBytes s.mem 0x400030 8) = 512)) = true := by decide +kernel
theorem test_ctxsave : nextIs (exec (.ctxsave 9 1 2) (sCi [])) (fun s => decide ((getCore s unit1).dom = none ∧ (getStrand s here).map (fun u => rd u.r 9) = some 512 ∧
    leWord (memBytes s.mem 0x400018 8) = 0x55)) = true := by decide +kernel

/-- The image that core 1 was saved to, to be loaded: where it ends and what it says; one of another domain, one too short. -/
def imgHead (dom len : Nat) : List Nat := [dom * 2 ^ 28, 0x040404, 0, 0x55, 0xAA, 5, len, 0]
def sLd (l : List Nat) : State := poke { setCore (sCi []) unit1 Core.reset with cycle := 61 } 0x400000 l
def headOf (s : State) : Word × Word := match devReadLong s (strandAgent here tCi) 0x400000 256 2 with
  | .ok (hd, _) => (leWord (hd.take 8), leWord ((hd.drop 48).take 8)) | .error _ => (0, 0)
theorem witness_ctxload_refused : headOf (sLd (imgHead 1 512)) = (0x10000000, 512) ∧ headOf (sLd (imgHead 2 512)) = (0x20000000, 512) ∧
    headOf (sLd (imgHead 1 500)) = (0x10000000, 500) := by decide +kernel

/-- The image of the core without a strand: 256 bytes of header and timelines, 256 of the scratchpad's block mask (R338). -/
def imgBytes : List Byte := coreImage (startSave (sCi []) unit1 1) unit1 1
def loadedFrom (s : State) (bytes : List Byte) (f : List Byte → State → Bool) : Bool :=
  okThen (devReadLong { s with mem := memStore s.mem 0x400000 bytes } (strandAgent here tCi) 0x400000 512 128) f
theorem witness_ctxload : loadedFrom (sLd []) imgBytes (fun l s => match parseImage unit1 1 l with
      | some m => loadable (getCore s unit1) 1 && !(getCore s unit1).failed && !m.strands.any imgTagBad &&
          okThen (liveHandles s ⟨here, tCi, 4, (Instr.ctxload 9 1 2).word0⟩ unit1 (m.chans.map (fun q => q.handle)) |>.map (fun x => (x, s)))
            (fun x _ => okThen (loadEntries x.2.2 ⟨here, tCi, 4, (Instr.ctxload 9 1 2).word0⟩ unit1 x.2.1) (fun c _ => c.isNone))
      | none => false) = true ∧
    loadedFrom (updCore (sLd []) unit1 (fun k => { k with failed := true })) imgBytes (fun _ s => (getCore s unit1).failed) = true ∧
    loadedFrom (sLd []) (imgBytes.set 57 1) (fun l _ => (parseImage unit1 1 l).isNone) = true := by decide +kernel
/-- The image of a core with a strand whose vector register carries a reserved tag. -/
def tBad : Strand := { hand [] with priv := .s, r := { regs [] with v := [⟨0, 25, 0⟩] }, tiles := [], tabs := [] }
def imgBad : List Byte := coreImage (sCi [(0, { tBad with status := .saved (strandImage (sCi []) ⟨unit1, 0⟩ tBad (fullMasks tBad) true .context) })]) unit1 1
theorem witness_ctxload_tag : (match parseImage unit1 1 imgBad with | some m => m.strands.any imgTagBad && decide (m.strands.length = 1) | none => false) = true ∧
    trapped { sLd [] with mem := memStore [] 0x400000 imgBad } tCi (.ctxload 9 1 2) .tagReserved 0 0 = true := by decide +kernel
theorem test_ctxload : nextIs (exec (.ctxload 9 1 2) { sLd [] with mem := memStore [] 0x400000 imgBytes }) (fun s =>
    decide ((getCore s unit1).dom = some 1 ∧ (getCore s unit1).tagA = 0xAA ∧ (getCore s unit1).pword = 0x040404)) = true := by decide +kernel

/-- R327, R133: an area that is no multiple of 4,096 traps (log 57). -/
theorem witness_image_misaligned : rdP tCi.r 3 = false ∧ (rd tCi.r 3).toNat % 4096 ≠ 0 ∧ trapped (sCi []) tCi (.ctxsave 9 1 3) .misaligned 0 0x400008 = true ∧
    trapped (sLd []) tCi (.ctxload 9 1 3) .misaligned 0 0x400008 = true := by decide +kernel

/-! What befalls a strand or a core. -/

/-- A strand that came from a branch, and one in run-ahead; traps with and without an area. -/
def tEv (target : Bool) (from_ : Option (Word × BitVec 32)) (h : Option Shadow) : Strand := { hand [(1, 5)] with target := target, from_ := from_, shadow := h, absent := [7] }
def sHap (t : Strand) : State := areas (paged (lab t))
theorem witness_fetch_fault : getStrand (sHap (tEv true none none)) here = some (tEv true none none) ∧ (tEv true none none).shadow = none ∧
    (tEv true none none).openers = [] ∧ takesSlot (sHap (tEv true none none)) here 1 1 0x200000 0x100000 0 := ⟨by decide +kernel, rfl, rfl, slotAt_takes (by decide +kernel)⟩
theorem witness_fetch_fault_from : getStrand (lab (tEv true none none)) here = some (tEv true none none) ∧
    getStrand (lab (tEv true (some (0x2000, 0x12345678)) none)) here = some (tEv true (some (0x2000, 0x12345678)) none) ∧
    getStrand (lab (tEv false none none)) here = some (tEv false none none) ∧ (tEv false none none).shadow = none := by decide +kernel
theorem witness_fetch_ahead : (getStrand (lab (tEv true none (some ⟨regs [], 0x1000, [], 3⟩))) here).isSome = true ∧
    (tEv true none (some ⟨regs [], 0x1000, [], 3⟩)).shadow = some ⟨regs [], 0x1000, [], 3⟩ := by decide +kernel
theorem test_fetch_fault : nextIs (exec (.fetchFault .notInstructionStart 0x3002) (lab (tEv true (some (0x2000, 0x12345678)) none))) (fun s =>
      decide ((getStrand s here).map (fun t => match t.status with | .trapping q => (q.cause, q.daddr, q.iaddr) | _ => (.none, 0, 0)) =
        some (.notInstructionStart, 0x3002, 0x2000))) = true ∧
    nextIs (exec (.fetchFault .permissionExecute 0x1000) (lab (tEv true (some (0x2000, 0x12345678)) none))) (fun s =>
      decide ((getStrand s here).map (fun t => match t.status with | .trapping q => (q.cause, q.daddr, q.iaddr) | _ => (.none, 0, 0)) =
        some (.permissionExecute, 0x1000, 0x1000))) = true := by decide +kernel
theorem witness_debug_halt : ∀ halt ∈ [true, false], let t := { tEv false none none with halt := halt }
    getStrand (lab t) here = some t ∧ t.halt = halt ∧ t.shadow = none ∧ t.status = .ready := by decide +kernel

/-- A strand to halt: in run-ahead, inside an instruction, between two of them. -/
def tHalt (h : Option Shadow) (inside : Bool) (from_ : Option (Word × BitVec 32)) (st : Status) : Strand :=
  { tEv false from_ h with halt := true, inside := inside, status := st }
theorem witness_halts : (∀ h ∈ [none, some ⟨regs [], 0x1000, [], 3⟩], ∀ inside ∈ [true, false], ∀ f ∈ [none, some (0x2000, 0x12345678)], ∀ st ∈ [Status.ready, .waiting (.pause 9)],
      getStrand (lab (tHalt h inside f st)) here = some (tHalt h inside f st)) ∧
    nextIs (exec (.debugHalt here) (lab (tHalt none false (some (0x2000, 0x12345678)) (.waiting (.pause 9))))) (fun s =>
      decide ((getStrand s here).map (fun t => match t.status with | .trapping q => (q.cause, q.iaddr) | _ => (.none, 0)) = some (.debugHalt, 0x2000))) = true :=
  ⟨fun _ _ _ _ _ _ _ _ => rfl, by decide +kernel⟩

/-- The timer of domain 1 at 500 ns, with a report channel, without one. -/
def sTm (at_ repch : Word) : State := let s := { lab (hand []) with cys := { State.reset.cys with now := 500 } }
  setDom s 1 { getDom s 1 with tmcmp := at_, repch := repch }
theorem witness_timer : (getDom (sTm 500 0x30000000000) 1).tmcmp = 500 ∧ (sTm 500 0x30000000000).cys.now = 500 ∧
    areaBase (getDom (sTm 500 0x30000000000) 1).replog = 0 ∧ (getDom (sTm 500 0x30000000000) 1).repch = 0x30000000000 ∧
    (getDom (sTm 3 0) 1).tmcmp = 3 ∧ (getDom (sTm 3 0) 1).repch = 0 := by decide +kernel
theorem witness_timer_later : (getDom (sTm 0 0) 1).tmcmp = 0 ∧ (sTm 501 0).cys.now < (getDom (sTm 501 0) 1).tmcmp.toNat := by decide +kernel

/-- A word is posted for core 1, which holds no strand or one. -/
def sPw (strands : List (Nat × Strand)) : State := setCore (lab (hand [])) unit1 { Core.reset with dom := some 1, pword := 0x080808, pendWord := some 0x010101, spad := [(0x400, 1), (0x401, 2)], strands := strands }
theorem witness_pool_word : (getCore (sPw []) unit1).pendWord = some 0x010101 ∧ (getCore (sPw []) unit1).strands = [] ∧ Memory.wf (getCore (sPw []) unit1).spad = true ∧
    0x400 < spadSize unit1 (getCore (sPw []) unit1) ∧ 0x400 < spadSize unit1 { getCore (sPw []) unit1 with pword := 0x010101 } ∧
    (getCore (sPw [(2, hand [])]) unit1).pendWord = some 0x010101 ∧ (getCore (sPw [(2, hand [])]) unit1).strands ≠ [] := by decide +kernel
theorem test_withdrawal : nextIs (exec (.unitWithdrawal unit1) (updCore (sPw []) unit1 (fun k => { k with launchq := [⟨1, 3, 0, [(2, 4)]⟩] }))) (fun s =>
    (getCore s unit1).failed && (getCore s unit1).launchq.isEmpty) = true := by decide +kernel

end Sys2Proof.Tests
end

