-- ==== Sys2Proof/Tests/Scalar.lean ====
section
/-! SUPPORT. Witnesses and tests of the scalar statements: integer, branch, trap and CSR instructions. -/

namespace Sys2Proof.Tests

set_option Elab.async false

open Sys2Proof.Machine Sys2Proof.Says

/-- Registers at the corners: 5, 7, all ones, the most negative number, a field of 8 bits at 60, one of 64 bits at 4. -/
def tI : Strand := hand [(1, 5), (2, 7), (3, 0xFFFFFFFFFFFFFFFF), (4, 0x8000000000000000), (5, 0x83C), (6, 0x4004), (7, 63), (8, 64)]
def sI : State := lab tI

/-- R106: results computed by hand from its table, the hypotheses of `IntegerResults` with them. -/
theorem witness_integer : [(Instr.add 9 3 2, 9, 6), (.sub 9 1 2, 9, 0xFFFFFFFFFFFFFFFE), (.and 9 1 2, 9, 5), (.or 9 1 2, 9, 7),
    (.xor 9 1 2, 9, 2), (.andn 9 2 1, 9, 2), (.shl 9 1 7, 9, 0x8000000000000000), (.shl 9 1 8, 9, 5), (.shr 9 4 7, 9, 1),
    (.sar 9 4 7, 9, 0xFFFFFFFFFFFFFFFF), (.ror 9 1 7, 9, 10), (.ror 9 1 8, 9, 5), (.min 9 4 1, 9, 0x8000000000000000),
    (.max 9 4 1, 9, 5), (.minn 9 4 1, 9, 5), (.maxn 9 4 1, 9, 0x8000000000000000), (.slt 9 3 1, 9, 1), (.sltn 9 3 1, 9, 0),
    (.seq 9 1 1, 9, 1), (.add 1 1 1, 1, 10), (.add 0 1 2, 0, 0)].all (fun x => gave sI tI x.1 x.2.1 x.2.2) = true := by decide +kernel

theorem witness_integer_multiply : [(Instr.mul 9 3 2, 9, 0xFFFFFFFFFFFFFFF9), (.mulh 9 3 2, 9, 0xFFFFFFFFFFFFFFFF), (.mulh 9 4 4, 9, 0x4000000000000000),
    (.mulhn 9 3 2, 9, 6), (.mulhn 31 3 3, 31, 0xFFFFFFFFFFFFFFFE)].all (fun x => gave sI tI x.1 x.2.1 x.2.2 3) = true := by decide +kernel

/-- `bfx` past bit 63 reads zeros; `bfi` of 64 bits at 4 keeps the low nibble of D. -/
theorem witness_integer_fields : [(Instr.clz 9 1, 9, 61), (.clz 9 0, 9, 64), (.ctz 9 4, 9, 63), (.ctz 9 0, 9, 64), (.popc 9 3, 9, 64), (.popc 9 0, 9, 0),
    (.bfx 9 4 5, 9, 8), (.bfi 2 3 6, 2, 0xFFFFFFFFFFFFFFF7), (.bfi 3 0 5, 3, 0x0FFFFFFFFFFFFFFF)].all
      (fun x => gave sI tI x.1 x.2.1 x.2.2) = true := by decide +kernel

/-- R107: division by zero, the most negative number by −1, and rounding toward zero. -/
theorem witness_division : [(Instr.div 9 1 0 0, 9, 0xFFFFFFFFFFFFFFFF), (.rem 9 1 0 0, 9, 5), (.divn 9 1 0 0, 9, 0xFFFFFFFFFFFFFFFF), (.remn 9 1 0 0, 9, 5),
    (.div 9 4 3 0, 9, 0x8000000000000000), (.rem 9 4 3 0, 9, 0), (.div 9 4 2 0, 9, 0xEDB6DB6DB6DB6DB7), (.rem 9 4 2 0, 9, 0xFFFFFFFFFFFFFFFF),
    (.divn 9 4 2 0, 9, 0x1249249249249249), (.remn 9 4 2 0, 9, 1)].all (fun x => gave sI tI x.1 x.2.1 x.2.2 24) = true := by decide +kernel

/-- R108 to R111, at the ends of the ranges of their immediates. -/
theorem witness_immediate : [(Instr.addi 9 1 511, 9, 516), (.addi 9 1 512, 9, 0xFFFFFFFFFFFFFE05), (.andi 9 3 1023, 9, 0xFFFFFFFFFFFFFFFF), (.ori 9 1 2, 9, 7),
    (.xori 9 1 1023, 9, 0xFFFFFFFFFFFFFFFA), (.addiLiteral 9 1 0xFFFFFFFFFFFFFFFF, 9, 4), (.andiLiteral 9 1 4, 9, 4), (.oriLiteral 9 1 0x8000000000000000, 9, 0x8000000000000005),
    (.xoriLiteral 9 1 5, 9, 0), (.shli 9 1 63, 9, 0x8000000000000000), (.shri 9 4 63, 9, 1), (.sari 9 4 63, 9, 0xFFFFFFFFFFFFFFFF), (.li 9 512, 9, 0xFFFFFFFFFFFFFE00),
    (.liLiteral 9 0x123456789ABCDEF0, 9, 0x123456789ABCDEF0), (.addpc 9 4, 9, 0x1004), (.addpcLiteral 9 0xFFFFFFFFFFFFFFFF, 9, 0xFFF)].all
      (fun x => gave sI tI x.1 x.2.1 x.2.2) = true := by decide +kernel

theorem witness_zero_register : (1 : BitVec 5) ≠ 0 ∧ (31 : BitVec 5) ≠ 1 := by decide

/-- R112 to R114: every condition of `bc`, on 0, 5, −1 and the most negative number. -/
theorem witness_branch : runs sI tI (.br 0x800000) (went sI here tI (.br 0x800000) 0xFFFFFFFFFE001000 true 3) ∧
    runs sI tI (.call 1) (went sI here { tI with r := wr tI.r 1 0x1004 false } (.call 1) 0x1004 true 3) ∧
    runs sI tI (.jr 3) (went sI here tI (.jr 3) 0xFFFFFFFFFFFFFFFF true 3) ∧
    runs sI tI (.jal 1 1) (went sI here { tI with r := wr tI.r 1 0x1004 false } (.jal 1 1) 5 true 3) := by decide +kernel
theorem witness_branch_on : ([(0, 0, true), (1, 0, false), (0, 1, false), (1, 1, true), (3, 2, true), (0, 2, false), (0, 3, true), (4, 3, false),
      (1, 4, true), (0, 4, false), (0, 5, true), (1, 5, false), (1, 6, true), (4, 6, false), (4, 7, true), (1, 7, false)] : List (BitVec 5 × BitVec 4 × Bool)).all
    (fun x => runs sI tI (.bc x.1 x.2.1 0x4000) (if x.2.2 then went sI here tI (.bc x.1 x.2.1 0x4000) 0xFFFFFFFFFFFF1000 true 3
      else went sI here tI (.bc x.1 x.2.1 0x4000) 0x1004 false 2)) = true := by decide +kernel

/-- Register s1 poisoned. -/
def tP : Strand := { tI with r := { tI.r with spois := 2 } }
theorem witness_branch_poison : ∀ i ∈ [Instr.bc 1 7 0, .jr 1, .jal 2 1], Admits (lab tP) tP i ∧ rdP tP.r 1 = true ∧
    ends (exec i (lab tP)) (raiseTrap (lab tP) here tP (trapReq (lab tP) .poisonConsumed 1 0 0x1000 0x1000 i.word0)) = true := by decide +kernel

theorem witness_nop_ftrim : runs sI tI .nop (goesOn sI tI .nop tI.r) ∧
    runs sI tI (.ftrim 4 4 2) (goesOn (freeRoom sI here.core none 0 0 0) tI (.ftrim 4 4 2) tI.r) ∧
    runs sI tI (.ftrim 0 0 0) (goesOn (freeRoom sI here.core none 4 4 2) { tI with tiles := [], tabs := [] } (.ftrim 0 0 0) { tI.r with v := [] }) ∧
    engNames (getCore sI here.core) tI.uid (rangeFrom 0 4) (rangeFrom 0 2) true = false ∧
    trapped sI tI (.ftrim 5 0 0) .operandRange 0 0 ∧ trapped sI tI (.ftrim 0 5 0) .operandRange 0 0 ∧ trapped sI tI (.ftrim 0 0 3) .operandRange 0 0 := by
  decide +kernel

/-- A strand that waits, at cycle 50. -/
def waits (w : Wait) : State × Strand := let t := { tI with status := .waiting w }; ({ lab t with cycle := 50 }, t)
theorem witness_pause : runs sI tI .pause (setStrand sI here { tI with status := .waiting (.pause 33), inside := true }) ∧
    ends (exec (.pauseEnd here) (waits (.pause 50)).1) (went (waits (.pause 50)).1 here (waits (.pause 50)).2 .pause 0x1004 false 0) := by decide +kernel
theorem witness_idle : runs sI tI .idle (setStrand sI here { tI with status := .waiting (.idle 65536), inside := true }) ∧
    ends (exec (.idleTimeout here) (waits (.idle 50)).1) (went (waits (.idle 50)).1 here (waits (.idle 50)).2 .idle 0x1004 false 0) := by decide +kernel

/-- R118: `trap` resumes after itself, `brk` at itself. -/
theorem witness_trap : runs sI tI (.trap 1023) (raiseTrap sI here tI (trapReq sI .trapInstruction 1023 0 0x1000 0x1004 (Instr.trap 1023).word0)) ∧
    trapped sI tI (.brk 1) .breakpoint 1 0 := by decide +kernel
theorem witness_trap_decode : getStrand sI sI.cur = some tI ∧ tI.shadow = none ∧ ∀ x ∈ [(DecodeFault.illegalMajor, Cause.illegalMajor), (.badLength, .badLength),
      (.illegalFunction, .illegalFunction), (.reservedField, .reservedField), (.lookaheadMisuse .u, .lookaheadMisuse)],
    ends (exec (.illegalMajor 0x3F000000 x.1) sI) (raiseTrap sI here tI (trapReq sI x.2 0 0 0x1000 0x1000 0x3F000000)) = true := by decide +kernel
/-- A `vst` word with a bit of Z set. -/
theorem witness_trap_late : ∃ e, encode (.vst 1 1 0 0) = some e ∧ decodeWords e.w0 ((e.w1 ||| 0x00200000#32) &&& 0xE01FFFFF#32) e.w2 0 = .ok (.vst 1 1 0 0) ∧
    Admits sI tI (.vst 1 1 0 0) ∧ rdP tI.r 1 = false ∧
    ends (exec (.illegalMajor e.w0 (.reservedLate (e.w1 ||| 0x00200000#32) e.w2)) sI)
      (raiseTrap sI here tI (trapReq sI .reservedField 0 0 0x1000 0x1000 e.w0)) = true := ⟨_, rfl, by decide +kernel⟩

/-- Two slots at 0x200000, that is at frame 0x100000. -/
def sA (t : Strand) : State := areas (paged (lab t))
def qT (c : Bool) (at_ : Option Nat) : TrapReq := { trapReq sI .misaligned 3 0x44 0x1000 0x1000 7 with counted := c, retryAt := at_ }
/-- The strand that comes to a trap; one that waits for its slot; one whose record is to be written again. -/
def trapping (at_ : Option Nat) : Strand := { tI with status := .trapping (qT true at_) }
theorem witness_trap_record : takesSlot (sA tI) here 1 1 0x200000 0x100000 0 ∧ tI.openers = [] := ⟨slotAt_takes (by decide +kernel), rfl⟩

/-- Slot 0 already holds a pending record: slot 1 is the next. -/
theorem witness_trap_record_next : takesSlot (poke (sA tI) 0x100000 [0x10000]) here 1 1 0x200000 0x100000 1 := slotAt_takes (by decide +kernel)

/-- The slot that an earlier trap of the strand kept. -/
theorem witness_trap_record_kept : takesSlot (setDom (sA tI) 1 { getDom (sA tI) 1 with kept := [(1, 0x200200)] }) here 1 1 0x200000 0x100000 1 :=
  slotAt_takes (by decide +kernel)
theorem witness_trap_grant : takesSlot (sA (trapping none)) here 1 1 0x200000 0x100000 0 ∧
    getStrand (sA (trapping none)) here = some (trapping none) ∧ (qT true none).retryAt = none ∧
    (∀ y ∈ allStrands (sA (trapping none)) , y.2.uid = 1) := ⟨slotAt_takes (by decide +kernel), by decide +kernel⟩
theorem witness_record_retry : takesSlot (sA (trapping (some 0))) here 1 1 0x200000 0x100000 0 ∧
    getStrand (sA (trapping (some 0))) here = some (trapping (some 0)) ∧ 0 ≤ (sA (trapping (some 0))).cys.now :=
  ⟨slotAt_takes (by decide +kernel), by decide +kernel⟩
theorem witness_trap_waits : areaBase (getDom sI 1).trarea = 0 ∧ (qT false none).counted = false ∧ tI.openers = [] ∧
    ({ tI with openers := [⟨7, 0x1000, none, 3, true, 8, 0, .div 5 false 50, 0⟩] } : Strand).openers ≠ [] := by decide +kernel

/-- An earlier trap of the domain waits: the strand takes no slot. -/
theorem test_trap_order : recBehind (setDom (setStrand (sA tI) ⟨here.core, 1⟩ { tI with uid := 2, status := .trapping (qT true none) }) 1
    { getDom (sA tI) 1 with recq := [2, 1] }) 1 1 = true := by decide +kernel

/-- A strand in run-ahead: two pages collected, at the bound of issues, at the bound of pages, or asked to stop. -/
def ahead (pages issued : Nat) (asked : Option (Nat × SaveKind)) (halt : Bool) : Strand :=
  { tI with shadow := some ⟨regs [(1, 9)], 0x3000, (List.range pages).map (fun n => ⟨0x40 + n, .pageNotPresent, false, false⟩), issued⟩,
            preq := asked, halt := halt }
/-- The four ways that run-ahead ends. -/
theorem witness_run_ahead_end : ∀ x ∈ [(32, 0, none, false), (1, 4096, none, false), (1, 0, some (1, SaveKind.preempt), false), (2, 3, none, true)],
    let t := ahead x.1 x.2.1 x.2.2.1 x.2.2.2
    ∃ h, takesSlot (sA t) here t.uid t.dom 0x200000 0x100000 0 ∧ getStrand (sA t) here = some t ∧ t.shadow = some h ∧ h.pages.length ≤ 32 ∧
      (32 ≤ h.pages.length ∨ 4096 ≤ h.issued ∨ t.preq.isSome = true ∨ t.halt = true) := by
  intro x hx
  refine ⟨_, slotAt_takes ?_, ?_, rfl, ?_⟩ <;> revert hx <;> revert x <;> decide +kernel

/-- Page 0x20 is absent: a load there, at the ends of the offset, enters run-ahead (R139). -/
def tR : Strand := { hand [(1, 0x200200)] with absent := [0x20] }
theorem witness_run_ahead_start : ∀ x ∈ [((3 : BitVec 3), (0x40 : BitVec 7)), (0, 0x3F)],
    let i : Instr := .ld 9 1 x.1 x.2 0
    let va := rd tR.r 1 + BitVec.ofInt 64 (x.2.toInt * 2 ^ (x.1.toNat % 4))
    Admits (lab tR) tR i ∧ tR.openers = [] ∧ rdP tR.r 1 = false ∧ va.toNat < 2 ^ 56 ∧ va.toNat % 2 ^ (x.1.toNat % 4) = 0 ∧
      va.toNat / 65536 ∈ tR.absent := by decide +kernel
def aheadR : Shadow := ⟨tR.r, 0x1000, [⟨0x20, .pageNotPresent, false, false⟩], 0⟩
theorem test_run_ahead_start : (nextIs (exec (.ld 9 1 3 0 0) (lab tR)) fun s => (getStrand s here).map (fun u =>
    (u.shadow, u.pc, u.absent, u.r.spois)) == some (some aheadR, 0x1004, [], 0x200)) = true := by decide +kernel

/-- A strand that traps wait for in slot 1 of trarea, generation 7, and the strand that handles it. The record's ACTION is `act`. -/
def tE : Strand := hand [(1, 0x7000000200200), (2, 0x7000000200201), (3, 0x70000001FFE00), (4, 0x7000000200400)]
def uE : Strand := { hand [(4, 9)] with uid := 2, status := .suspended 0x7000000200200, pc := 0x3000 }
/-- With no such strand here, the record is that of a saved one. -/
def sE (act : Nat) (here_ : Bool := true) : State :=
  let s := if here_ then setStrand (sA tE) ⟨here.core, 5⟩ uE else sA tE
  poke (poke s 0x100200 [0x000700000001800C, 0x3000, 0x3004, 0xAB, 0, 0, 0, 0, 0x10, 0xFFFF, 0x77]) (0x100200 + 17 * 8) ([0x55, 0x111] ++ List.replicate 30 9 ++ [act])
theorem witness_eret : ∀ act ∈ [0, 1, 2],
    let s := sE act
    let h := rd tE.r 1
    let w (n : Nat) : Word := leWord (memBytes s.mem (0x100200 + 8 * n) 8)
    Admits s tE (.eret 1) ∧ rdP tE.r 1 = false ∧ belowDone s here.core tE.uid s.uid tE.openers 2 = true ∧ areaBase (getDom s 1).trarea = 0x200000 ∧
      h.toNat % 2 ^ 48 = 0x200000 + 512 * 1 ∧ s.memBad = [] ∧ Memory.wf s.mem = true ∧
      (∀ acc ∈ [Acc.load, .store], isOk (devXlate s (recAgent here 1) 0x200200 acc) (0x100200, s) = true) ∧
      (w 0).toNat / 2 ^ 48 = h.toNat / 2 ^ 48 ∧ (w 0).toNat / 2 ^ 16 % 4 = 1 ∧ (w 0).toNat / 2 ^ 18 % 2 ^ 30 = 0 ∧ (w 0).toNat / 2 ^ 7 % 2 ^ 7 = 0 ∧
      (w 3).toNat < 2 ^ 32 ∧ (w 8).toNat < 2 ^ 32 ∧ (∀ n ∈ List.range 112, memRead s.mem (0x100200 + 400 + n) = 0) ∧ findSuspended (sE act false) 1 h = none ∧
      findSuspended s 1 h = some (⟨here.core, 5⟩, uE) ∧ (⟨here.core, 5⟩ : StrandRef) ≠ here ∧ w 49 = BitVec.ofNat 64 act := by decide +kernel

/-- Misaligned, below and past the area; and an unset area. -/
theorem witness_eret_invalid : [(2 : BitVec 5), 3, 4].all (fun a =>
      let rec_ := (rd tE.r a).toNat % 2 ^ 48
      decide (Admits (sE 0) tE (.eret a) ∧ rdP tE.r a = false ∧
        (rec_ % 512 ≠ 0 ∨ rec_ < 0x200000 ∨ 0x200000 + 512 * 2 ^ areaLog (getDom (sE 0) 1).trarea ≤ rec_))) = true ∧
    areaBase (getDom (lab tE) 1).trarea = 0 ∧ trapped (lab tE) tE (.eret 1) .eretInvalid 0 0x7000000200200 = true := by decide +kernel

/-- Another generation, a closed record, a fault record, a wrong ACTION, and bits that are zero by R324. -/
def badRec (i v : Nat) : State := poke (sE 0) (0x100200 + 8 * i) [v]
def badRecRefused (x : Nat × Nat) : Bool :=
  isOk (devXlate (badRec x.1 x.2) (recAgent here 1) 0x200200 .load) (0x100200, badRec x.1 x.2) && decide ((badRec x.1 x.2).memBad = []) &&
    trapped (badRec x.1 x.2) tE (.eret 1) .eretInvalid 0 0x7000000200200
theorem witness_eret_refused : ([(0, 0x000600000001800C), (0, 0x000700000002800C), (0, 0x000704000001800C)] : List (Nat × Nat)).all badRecRefused = true := by
  decide +kernel
theorem witness_eret_refused_action : ([(0, 0x000700000001808C), (49, 3)] : List (Nat × Nat)).all badRecRefused = true := by decide +kernel
theorem witness_eret_refused_zeros : ([(3, 0x1000000AB), (8, 0x100000010), (63, 0x8000000000000000)] : List (Nat × Nat)).all badRecRefused = true := by
  decide +kernel

/-! CSRs. -/

/-- Register 1 is all ones, and so are most of the CSRs of the domain. -/
def tC : Strand := { hand [(1, 0xFFFFFFFFFFFFFFFF), (2, 0x20000A), (3, 0x800), (4, 0x200014), (5, 0x200001), (6, 0x20000C), (7, 0)] with prio := 5, kind := 2, pat := 77 }
def sC : State := setDom (lab tC) 1 { getDom (lab tC) 1 with trapch := 2, repch := 3, pagerch := 5, lostrep := 6, tmcmp := 10, repseq := 11 }
theorem witness_csr_reads : [(Instr.csrr 9 1, 9, 0), (.csrr 9 3, 9, 0x5024D), (.csrr 9 0x101, 9, 2), (.csrr 9 0x105, 9, 6), (.csrr 9 0x10A, 9, 11),
    (.csrr 9 0x1BF, 9, 0), (.csrr 0 0x109, 0, 0)].all (fun x => gave sC tC x.1 x.2.1 x.2.2) = true := by decide +kernel
theorem witness_csr_writes : (∀ i ∈ [Instr.csrw 1 0x001, .csrs 1 0x101, .csrc 1 0x102, .csrw 1 0x104, .csrw 1 0x108, .csrs 1 0x123, .csrw 1 0x1BF],
      Admits sC tC i) ∧ rdP tC.r 1 = false ∧
    runs sC tC (.csrw 1 0x001) (goesOn sC tC (.csrw 1 0x001) { tC.r with fctl := 0x7F }) = true ∧
    runs sC tC (.csrw 1 0x105) (goesOn (setDom sC 1 { getDom sC 1 with lostrep := 0 }) tC (.csrw 1 0x105) tC.r) = true ∧
    runs sC tC (.csrc 1 0x109) (goesOn (setDom sC 1 { getDom sC 1 with tmcmp := 0 }) tC (.csrc 1 0x109) tC.r) = true ∧
    runs sC tC (.csrw 1 0x129) (goesOn (setDom sC 1 { getDom sC 1 with wpt := (getDom sC 1).wpt.set 1 0xFFFFFFFFFFFFFFC3 }) tC (.csrw 1 0x129) tC.r) = true := by
  decide +kernel

/-- R321: each area CSR takes a layout of its table; and refuses one out of its range. -/
theorem witness_csr_areas : (∀ i ∈ [Instr.csrw 2 0x100, .csrw 7 0x100, .csrw 4 0x103, .csrw 5 0x106, .csrw 6 0x107, .csrw 1 0x100, .csrw 3 0x106],
      Admits sC tC i) ∧ tC.r.spois = 0 ∧ homesChannel sC 1 = false ∧ recordPending sC 1 = false ∧
    runs sC tC (.csrw 2 0x100) (goesOn (setDom sC 1 { getDom sC 1 with chtab := 0x20000A, hint := 1 }) tC (.csrw 2 0x100) tC.r) = true ∧
    runs sC tC (.csrw 7 0x107) (goesOn (setDom sC 1 { getDom sC 1 with imgarea := 0 }) tC (.csrw 7 0x107) tC.r) = true ∧
    trapped sC tC (.csrw 4 0x106) .operandRange 0 0 = true ∧ trapped sC tC (.csrw 1 0x002) .operandRange 0 0 = true := by decide +kernel

/-- Strands of privilege U and S. -/
def tU : Strand := { tC with priv := .u }
def tSup : Strand := { tC with priv := .s }
theorem witness_privileged : getStrand (lab tU) here = some tU ∧ tU.shadow = none ∧ tU.openers = [] ∧
    (∀ i ∈ [Instr.eret 1, .tlbinva 1, .filtw 1 2 3, .rfc 1 2 3], privNum tU.priv < privNum (need i).priv) ∧
    (∀ i ∈ [Instr.stubq 1 2, .partwAssign 1 2 3, .tsyncSetTime 1 2 3], privNum tSup.priv < privNum (need i).priv) := by decide +kernel
theorem witness_csr_privileged : (∀ x ∈ [(tU, (0x100 : BitVec 12)), (tU, 0x1BF), (tSup, 0x180)], ∀ i ∈ [Instr.csrr 1 x.2, .csrw 1 x.2, .csrs 1 x.2, .csrc 1 x.2],
      csrWritable x.2 = true ∧ ends (exec i (lab x.1)) (raiseTrap (lab x.1) here x.1 (trapReq (lab x.1) .privileged 0 0 0x1000 0x1000 i.word0)) = true) ∧
    [(0x107 : BitVec 12), 0x108].all (fun c => [Instr.csrw 1 c, .csrs 1 c, .csrc 1 c].all (fun i => csrWritable c &&
      ends (exec i (lab tSup)) (raiseTrap (lab tSup) here tSup (trapReq (lab tSup) .privileged 0 0 0x1000 0x1000 i.word0)))) = true := by decide +kernel

end Sys2Proof.Tests
end

