-- ==== Sys2Proof/Tests/Slice0.lean ====
section
/-! SUPPORT. Ill-formed terms refused, and words written out from the encoding tables decoded. -/

namespace Sys2Proof.Tests

set_option Elab.async false

open Sys2Proof.Machine

/-! Well-formedness: one term for each check that refuses. -/

theorem test_wf_system : ∀ i ∈ [Instr.csrr 1 0x000, .csrw 1 0x006, .csrs 1 0x10B, .csrc 1 0x1C0, .ftrim 33 0 0, .ftrim 0 9 0, .ftrim 0 0 9, .bc 1 8 0,
    .safept 0 0 1 0], i.wf = false := by decide +kernel
theorem test_wf_memory : ∀ i ∈ [Instr.ld 1 2 7 0 0, .st 1 2 4 0, .pref 1 3 0, .amoAdd 1 2 3 0 0 0 1 0, .amoAdd 0 2 3 0 0 0 1 1, .amoAdd 1 2 3 4 0 0 0 0,
    .amoMin 1 2 3 4 0 0 0 0, .amoMinn 1 2 3 4 0 0 0 0, .amoMax 1 2 3 4 0 0 0 0, .amoMaxn 1 2 3 4 0 0 0 0, .amoAnd 1 2 3 4 0 0 0 0, .amoOr 1 2 3 4 0 0 0 0,
    .amoXor 1 2 3 4 0 0 0 0, .amoExch 1 2 3 4 0 0 0 0, .amoCas 1 2 3 4 0 0 1 0, .amoCas 0 2 3 4 0 0 1 1, .amoFadd 1 2 3 4 0 0 0 0, .amoFmin 1 2 3 4 0 0 0 0,
    .amoFmax 1 2 3 4 0 0 0 0, .amoIns 1 2 3 4 0 0 1 0, .amoFfcs 1 2 3 4 0 0 0 0, .amoPset 1 2 3 4 0 0 1 0], i.wf = false := by decide +kernel
theorem test_wf_join : ∀ i ∈ [Instr.send 1 29, .tlwait 6 1, .tlread 1 6 0, .tlread 1 0 3, .tagrd 1 2], i.wf = false := by decide +kernel
theorem test_wf_vector : ∀ i ∈ [Instr.vceq 8 1 2 0 0, .vclt 8 1 2 0 0, .vcle 8 1 2 0 0, .vbcast 1 2 19 0 0, .vcvt 1 2 0 0 19 0 0 0, .vcvt 1 2 0 0 8 0 0 1,
    .vcvt 1 2 0 0 13 0 0 1, .vtag 1 2 19, .vnar 1 2 3 0 0 19 0 0, .vnar 1 2 1 0 0 13 0 0, .vscl 1 2 0 19 0 0 0, .vscl 1 31 0 14 0 2 0, .vld 1 2 0 0 19 0 0,
    .vgath 1 2 3 0 0 19 0 0 0, .pand 8 1 2, .por 1 8 2, .pnot 1 8, .pcnt 1 8, .pfirst 1 8, .pset 8 1], i.wf = false := by decide +kernel
theorem test_wf_engines : ∀ i ∈ [Instr.tmma 8 1 2 3 0 8 8 0 1, .tmma 0 1 2 3 0 19 8 0 1, .tmma 0 1 2 3 0 8 19 0 1, .tmma 0 1 2 3 4 8 8 0 1, .tzero 8 8 1,
    .tzero 0 19 1, .tst 8 1 2 8 0 1, .tst 0 1 2 19 0 1, .tst 0 1 2 8 1 1, .tscl 8 1 0 1, .tscl 0 31 0 1, .tget 1 8 2, .tget 31 0 2, .tset 8 1 2 0, .tset 0 31 2 0,
    .lbld 8 1 2 1 0 0 1, .lbld 0 1 2 19 0 0 1, .lmm 1 2 3 4 1 0 1, .lmm 0 2 8 4 1 0 1, .lmm 0 2 3 4 19 0 1, .linv 8 1, .lstat 1 8 0, .lrbld 8 1],
    i.wf = false := by decide +kernel
def badTag : CopyAttr := ⟨1, 0, 5, 0, 0⟩
theorem test_wf_copy : ∀ i ∈ [Instr.cp 1 2 3 4 badTag, .cp2d 1 2 3 4 badTag, .cp3d 1 2 3 4 badTag, .cpm 1 2 3 4 badTag 2, .cpredK0 1 2 3 4 badTag 0 0,
    .cpredK1 1 2 badTag 0 0, .cpredK2 1 2 3 4 badTag 0 0, .cpredK3 1 3 badTag 0 0, .cpfill 1 2 3 4 badTag, .cpsigIrq 1 2 badTag, .cpsigMsg 1 2 3 badTag,
    .cpsigMsg 1 2 29 ⟨1, 0, 0, 0, 0⟩, .cpat 1 2 3 4 badTag 0 0], i.wf = false := by decide +kernel
theorem test_wf_good : ∀ i ∈ [Instr.csrr 1 0x1BF, .ftrim 32 8 8, .bc 1 7 0, .ld 1 2 6 0 0, .st 1 2 3 0, .pref 1 2 0, .amoAdd 0 2 3 0 0 0 1 0, .amoCas 1 2 3 4 0 0 0 15,
    .send 1 28, .tlread 1 5 2, .vcle 7 1 2 0 0, .vcvt 1 2 0 0 12 0 0 1, .vscl 1 31 0 14 0 1 0, .tmma 7 1 2 3 0 18 18 0 1, .lmm 4 2 7 4 18 0 1, .cp 1 2 3 4 ⟨1, 1, 63, 0, 0⟩, .cpsigMsg 1 2 28 ⟨1, 0, 0, 0, 0⟩],
    i.wf = true := by decide +kernel

/-! Decoding. The words are those of the spec's worked encodings, or written out field by field from R84 to R94. -/

/-- The bytes decode to that instruction and length. -/
def reads (w n : Nat) (i : Instr) : Bool := isOk (decode (bytesLE 20 w)) (i, n)
/-- The bytes are refused by that name. -/
def refuses (w : Nat) (e : DecodeFault) : Bool := match decode (bytesLE 20 w) with | .error x => decide (x = e) | .ok _ => false

/-- Worked encodings of parts 4, 18. -/
theorem test_decode_worked : reads 0x000100008F400000 12 (.liLiteral 8 0x10000) ∧ reads 0x122C5812 4 (.ld 5 17 3 1 2) ∧ reads 0x0420FFFD 4 (.bc 4 1 0x7FFD) ∧
    reads 0x200886E0 4 (.vadd 1 2 3 3 1) ∧ reads 0x4700000058310E91 12 (.amoCas 6 4 7 8 3 1 0 1) ∧ reads 0x0480000058010A00 12 (.amoAdd 0 4 5 0 2 0 1 0) ∧
    reads 0x00200064 4 (.csrr 4 1) ∧ reads 0x00000E40 4 (.brk 7) ∧ reads 0x00040050 4 (.eret 16) ∧ reads 0x000000A0 4 .idle ∧ reads 0x00A08074 4 (.csrw 20 0x101) ∧
    reads 0 4 .nop := by decide +kernel
/-- Worked encodings of parts 8, 10, 13, 14. -/
theorem test_decode_worked_vector : reads 0x20214C83 4 (.vfma 4 5 6 2 0) ∧ reads 0x2018440E 4 (.vclt 3 1 2 0 0) ∧ reads 0x24088600 4 (.pand 1 2 3) ∧
    reads 0x000000402600000063290002 12 (.vld 5 4 1 0 12 64 2) ∧ reads 0x2422000062194000 12 (.vcvt 3 5 1 0 8 1 2 0) ∧ reads 0x0001000062088620 12 (.vwid 1 2 3 0 0 1 0) ∧
    reads 0x07000D0062310040 12 (.vscl 6 4 0 14 0 0 13) ∧ reads 0x0680000062390C30 12 (.vnar 7 4 6 0 0 13 0 0) ∧ reads 0x1A052000 4 (.send 20 16) ∧
    reads 0x1AA90020 4 (.chnew 21 4) ∧ reads 0x3314E0006A410A00 12 (.cp 8 4 5 6 ⟨1, 1, 5, 7, 0⟩) := by decide +kernel
/-- Worked encodings of parts 16, 17, 18, 21, 23. -/
theorem test_decode_worked_engines : reads 0x0000000931D0880068110A00 12 (.tmma 2 4 5 6 7 8 8 1 9) ∧ reads 0x000000090040000069010A00 12 (.lbld 0 4 5 1 0 0 9) ∧
    reads 0x000000093C82000069218410 12 (.lmm 4 6 2 7 18 1 9) ∧ reads 0x0001000069400630 12 (.lstat 8 3 1) ∧
    reads 0x000000025800E0006A61A040 12 (.cpredK2 12 6 16 11 ⟨0, 0, 0, 7, 0⟩ 0 0) ∧ reads 0x2C292600 4 (.tlbwInstall 5 4 19) ∧ reads 0x2C298E30 4 (.pgmig 5 6 7) ∧
    reads 0x2C490A60 4 (.rfc 9 4 5) ∧ reads 0x2C240070 4 (.fresume 4 16) ∧ reads 0x2D298E30 4 (.ctxsave 5 6 7) ∧ reads 0x2D224050 4 (.preempt 4 9) := by decide +kernel
/-- Control: `br` back two words, `call` three ahead, `jr s1`, `jal s1, s2`, `safept`; `bfi`, `divn ~5`, `addi -1`, `sari 63`, `addpc` of a literal. -/
theorem test_decode_control : reads (0x02000000 + 0xFFFFFE) 4 (.br 0xFFFFFE) ∧ reads (0x03000000 + 3) 4 (.call 3) ∧ reads (0x05000000 + 1 * 0x4000) 4 (.jr 1) ∧
    reads (0x05000000 + 1 * 0x80000 + 2 * 0x4000 + 1 * 0x10) 4 (.jal 1 2) ∧ reads (0x46000000 + 0x81 * 0x10000 + 3 * 0x100 + 0xE * 2 ^ 32 + 5 * 2 ^ 64) 12 (.safept 0x81 3 0xE 5) ∧
    reads (0x08000000 + 1 * 0x80000 + 2 * 0x4000 + 3 * 0x200 + 24 * 0x10) 4 (.bfi 1 2 3) ∧ reads (0x09000000 + 1 * 0x80000 + 2 * 0x4000 + 3 * 0x200 + 1 * 0x10 + 5) 4 (.divn 1 2 3 5) ∧
    reads (0x0A000000 + 1 * 0x80000 + 2 * 0x4000 + 0x3FF * 0x10) 4 (.addi 1 2 0x3FF) ∧ reads (0x0E000000 + 1 * 0x80000 + 2 * 0x4000 + 2 * 0x1000 + 63 * 0x10) 4 (.sari 1 2 63) ∧
    reads (0x90000000 + 3 * 0x80000 + 0xFFFFFFFFFFFFFFF8 * 2 ^ 32) 12 (.addpcLiteral 3 0xFFFFFFFFFFFFFFF8) := by decide +kernel
/-- Memory: `st.h` at -2, `pref` to the home slice, `ldacq.w.pkg`, `strel.d.dom` at -256, `fence.sc.dom`; `jcancel`, `tnow`, `tlread`. -/
theorem test_decode_memory : reads (0x13000000 + 1 * 0x80000 + 2 * 0x4000 + 1 * 0x800 + 0x7F * 0x10) 4 (.st 1 2 1 0x7F) ∧
    reads (0x16000000 + 2 * 0x4000 + 2 * 0x800 + 1 * 0x10) 4 (.pref 2 2 1) ∧ reads (0x14000000 + 1 * 0x80000 + 2 * 0x4000 + 2 * 0x1000 + 2 * 0x400 + 1 * 0x10) 4 (.ldacq 1 2 2 2 1) ∧
    reads (0x15000000 + 1 * 0x80000 + 2 * 0x4000 + 3 * 0x1000 + 3 * 0x400 + 0x20 * 0x10) 4 (.strel 1 2 3 3 0x20) ∧ reads (0x17000000 + 3 * 0x80 + 3 * 0x20) 4 (.fence 3 3) ∧
    reads (0x1B000000 + 1 * 0x80000 + 2 * 0x4000 + 3 * 0x10) 4 (.jcancel 1 2) ∧ reads (0x1B000000 + 1 * 0x80000 + 4 * 0x10) 4 (.tnow 1) ∧
    reads (0x1C000000 + 1 * 0x80000 + 5 * 0x4000 + 2 * 0x200 + 1 * 0x10) 4 (.tlread 1 5 2) := by decide +kernel
/-- Refusals in the order of R93: a reserved major, a LEN that the major lacks, an FN beyond the last, bits that must be zero, a lookahead field. -/
theorem test_decode_refused : refuses 0x01000000 .illegalMajor ∧ refuses 0x28000000 .badLength ∧ refuses 0xC0000000 .badLength ∧ refuses (0x08000000 + 25 * 0x10) .illegalFunction ∧
    refuses 0x00000001 .reservedField ∧ refuses (0x0F000000 + 1 * 0x4000) .reservedField ∧ refuses (0x46000000 + 1 * 2 ^ 32) .reservedField ∧
    refuses (0x12000000 + 7 * 0x800) .reservedField ∧ refuses 0x13000001 (.lookaheadMisuse .u) ∧ refuses (0x58000001 + 0x00800000 * 2 ^ 32) (.lookaheadMisuse .u) := by
  decide +kernel

/-! Placing an instruction: `li s4, 5` as the first instruction after reset. -/

theorem test_with_fetch_word : nextIs (step (State.reset.withFetchWord 32 0x0F200050)) (fun s => decide ((getStrand s s.cur).map (fun t => rd t.r 4) = some 5)) = true ∧
    decodeTableWord 32 0x0F200050 = some (.li 4 5) := by decide +kernel

end Sys2Proof.Tests
end

