-- ==== Sys2Proof/Tests/Vector.lean ====
section
/-! SUPPORT. Witnesses and tests of the vector statements. -/

namespace Sys2Proof.Tests

set_option Elab.async false

open Sys2Proof.Machine Sys2Proof.Says

/-- A register of those elements, `w` bits each, the first lowest. -/
def vec (w tag : Nat) (l : List Nat) (p : Nat := 0) : VReg :=
  ⟨BitVec.ofNat 512 (l.foldr (fun x acc => x + 2 ^ w * acc) 0), BitVec.ofNat 5 tag, BitVec.ofNat 8 p⟩

/-- A strand with those vector registers; p2 governs lanes 0 and 2, p3 all lanes. -/
def tV (l : List VReg) : Strand :=
  let t := hand [(1, 5), (2, 16), (3, 0xFF00000000000100), (4, 0xFFFFFFFFFFFFFFFF)]
  { t with r := { t.r with v := l, p := (t.r.p.set 2 5).set 3 0xFFFFFFFFFFFFFFFF } }

/-- What a run leaves in the vector registers and the flags. -/
def leaves (t : Strand) (i : Instr) (f : Strand → Bool) : Bool :=
  decide (Admits (lab t) t i) && match exec i (lab t) with
  | .next s => (match getStrand s here with | some u => f u | none => false)
  | _ => false
def flags (t : Strand) : Nat := t.r.fctl.toNat % 32

/-- i8 registers at the corners: −128, −1, 127; amounts of the width and one more. -/
def tVi : Strand := tV [vec 8 1 [0x80, 0xFF, 0x7F] 1, vec 8 1 [0x80, 2, 9, 8], vec 8 1 [7, 7, 7, 7], vec 32 5 []]
theorem witness_vector_integer : tagOf tVi 0 = 1 ∧ tagOf tVi 1 = 1 ∧ tagOf tVi 2 = 1 ∧
    (∀ i ∈ [Instr.vadd 2 0 1 0 0, .vshr 2 0 1 2 0, .vfma 2 0 1 2 1, .vabs 2 0 2 1, .vneg 2 0 0 0], Admits (lab tVi) tVi i) ∧
    leaves tVi (.vadd 2 0 1 2 0) (fun u => decide (vreg u.r 2 = vec 8 1 [0, 7, 0x88, 7] 1)) = true ∧
    leaves tVi (.vmul 2 0 1 0 0) (fun u => decide (vreg u.r 2 = vec 8 1 [0, 0xFE, 0x77, 0] 1)) = true ∧
    leaves tVi (.vshl 2 0 1 2 1) (fun u => decide (vreg u.r 2 = vec 8 1 [0x80, 0, 0xFE, 0] 1)) = true ∧
    leaves tVi (.vabs 2 0 0 0) (fun u => decide (vreg u.r 2 = vec 8 1 [0x80, 1, 0x7F] 1)) = true := by decide +kernel

/-- The same bits as natural elements. -/
def tVn : Strand := tV [vec 8 2 [0x80, 0xFF, 0x7F], vec 8 2 [0x80, 2, 9, 8], vec 8 2 [7, 7, 7, 7], vec 8 2 []]
theorem witness_vector_natural : tagOf tVn 0 = 2 ∧ tagOf tVn 1 = 2 ∧
    leaves tVn (.vmin 2 0 1 0 0) (fun u => decide (vreg u.r 2 = vec 8 2 [0x80, 2, 9, 0])) = true ∧
    leaves tVn (.vshr 2 0 1 0 0) (fun u => decide (vreg u.r 2 = vec 8 2 [0x80, 0x3F, 0x3F])) = true ∧
    leaves tVi (.vshr 2 0 1 0 0) (fun u => decide (vreg u.r 2 = vec 8 1 [0x80, 0xFF, 0x3F] 1)) = true ∧
    leaves tVi (.vmin 2 0 1 0 0) (fun u => decide (vreg u.r 2 = vec 8 1 [0x80, 0xFF, 9] 1)) = true := by decide +kernel

/-- f32 registers: 1, −2, 0, NaN; 3, 0.5, 0, 1. -/
def tVf : Strand := tV [vec 32 12 [0x3F800000, 0xC0000000, 0, 0x7FC00001], vec 32 12 [0x40400000, 0x3F000000, 0, 0x3F800000], vec 32 12 [0x3F800000], vec 32 12 []]
theorem witness_vector_float : tagOf tVf 0 = 12 ∧ tagOf tVf 1 = 12 ∧ tagOf tVf 2 = 12 ∧
    leaves tVf (.vadd 2 0 1 2 0) (fun u => decide (vreg u.r 2 = vec 32 12 [0x40800000] ∧ flags u = 0)) = true ∧
    leaves tVf (.vsub 2 0 1 2 1) (fun u => decide (vreg u.r 2 = vec 32 12 [0xC0000000] ∧ flags u = 0)) = true ∧
    leaves tVf (.vmul 2 0 1 0 0) (fun u => decide (elem u 2 32 1 = 0xBF800000 ∧ elem u 2 32 3 = 0x7FC00000)) = true ∧
    leaves tVf (.vdiv 2 0 1 2 0) (fun u => decide (elem u 2 32 0 = 0x3EAAAAAB ∧ elem u 2 32 2 = 0x7FC00000 ∧ flags u = 0b10001)) = true ∧
    leaves tVf (.vfma 2 0 1 0 0) (fun u => decide (elem u 2 32 0 = 0x40800000)) = true ∧
    leaves tVf (.vneg 2 0 0 0) (fun u => decide (elem u 2 32 1 = 0x40000000 ∧ elem u 2 32 2 = 0x80000000 ∧ elem u 2 32 3 = 0x7FC00000)) = true := by decide +kernel
theorem witness_vector_float_more : leaves tVf (.vrcp 2 1 2 0) (fun u => decide (elem u 2 32 0 = 0x3EAAAAAB ∧ elem u 2 32 2 = 0x7F800000 ∧ flags u = 0b01001)) = true ∧
    leaves tVf (.vmax 2 0 1 0 0) (fun u => decide (elem u 2 32 0 = 0x40400000 ∧ elem u 2 32 3 = 0x7FC00000)) = true ∧
    leaves tVf (.vabs 2 0 0 0) (fun u => decide (elem u 2 32 1 = 0x40000000)) = true ∧
    leaves tVf (.vexp2 2 0 2 0) (fun u => decide (elem u 2 32 0 = 0x40000000 ∧ elem u 2 32 2 = 0x3F800000)) = true ∧
    leaves tVf (.vrsq 2 0 2 0) (fun u => decide (elem u 2 32 0 = 0x3F800000 ∧ elem u 2 32 2 = 0x7F800000)) = true := by decide +kernel

/-- An f32, an i32 and an i8 register, and one of i32 indices. -/
def tVm : Strand := tV [vec 32 12 [0x11111111, 0x22222222, 0x33333333], vec 32 5 [2, 17, 0], vec 32 5 [10, 20], vec 8 1 [1, 2, 3, 4, 0xFF]]
theorem witness_vector_moves : (∀ i ∈ [Instr.vand 2 0 1 0 0, .vor 2 0 0 2 1, .vxor 2 2 3 3 0], Admits (lab tVm) tVm i) ∧ (vreg tVm.r 1).tag = (vreg tVm.r 2).tag ∧
    tagOf tVm 0 ≤ 12 ∧ tagOf tVm 1 = 5 ∧ tagWidth 5 = tagWidth 12 ∧
    leaves tVm (.vsel 3 1 2 2) (fun u => decide (vreg u.r 3 = vec 32 5 [2, 20, 0])) = true ∧
    leaves tVm (.vperm 3 0 1 0 0) (fun u => decide (elem u 3 32 0 = 0x33333333 ∧ elem u 3 32 1 = 0x22222222 ∧ elem u 3 32 2 = 0x11111111)) = true ∧
    leaves tVm (.vbcast 1 4 14 2 1) (fun u => decide (vreg u.r 1 = vec 8 14 [0xFF, 0, 0xFF])) = true ∧
    leaves tVm (.vdot 2 3 3 0 0) (fun u => decide (vreg u.r 2 = vec 32 5 [40, 21])) = true ∧
    leaves tVm (.vxor 3 3 3 0 0) (fun u => decide (vreg u.r 3 = vec 8 1 [])) = true := by decide +kernel

/-- bf16 sources: 1 × 2 + 3 × 4 on an accumulator of 1. -/
def tVd : Strand := tV [vec 16 11 [0x3F80, 0x4040], vec 16 11 [0x4000, 0x4080], vec 32 12 [0x3F800000], vec 32 12 []]
theorem witness_dot_float : tagOf tVd 0 = 11 ∧ tagOf tVd 1 = 11 ∧ tagOf tVd 2 = 12 ∧
    leaves tVd (.vdot 2 0 1 0 0) (fun u => decide (elem u 2 32 0 = 0x41700000)) = true := by decide +kernel

/-- Compares and predicate forms. -/
theorem witness_predicates : (∀ e < 64, active tVn 3 e = true → pois tVn 0 8 e = false ∧ pois tVn 1 8 e = false) ∧
    leaves tVn (.vceq 1 0 1 3 1) (fun u => decide (preg u.r 1 = 0xFFFFFFFFFFFFFFF1)) = true ∧
    leaves tVn (.vclt 1 0 1 3 1) (fun u => decide (preg u.r 1 = 8)) = true ∧
    leaves tVf (.vcle 1 0 1 3 1) (fun u => decide (preg u.r 1 = 0xFFF7)) = true ∧
    leaves tVf (.vceq 0 0 1 3 0) (fun u => decide (u.r.p = tVf.r.p)) = true ∧
    leaves tVn (.pand 4 2 3) (fun u => decide (preg u.r 4 = 5)) = true ∧ leaves tVn (.por 4 2 5) (fun u => decide (preg u.r 4 = 5)) = true ∧
    leaves tVn (.pnot 4 2) (fun u => decide (preg u.r 4 = 0xFFFFFFFFFFFFFFFA)) = true ∧ leaves tVn (.pset 4 1) (fun u => decide (preg u.r 4 = 5)) = true ∧
    gave (lab tVn) tVn (.pcnt 9 2) 9 2 = true ∧ gave (lab tVn) tVn (.pfirst 9 2) 9 0 = true ∧ gave (lab tVn) tVn (.pfirst 9 4) 9 0xFFFFFFFFFFFFFFFF = true := by
  decide +kernel

/-- The worked sum of 02_numbers.md: 2²⁴ in lane 0, 1.0 in lanes 4, 8 and 12. -/
def tVr : Strand := tV [vec 32 12 [0x4B800000, 0, 0, 0, 0x3F800000, 0, 0, 0, 0x3F800000, 0, 0, 0, 0x3F800000], vec 8 1 [0x80, 5] 1, vec 64 7 [], vec 32 12 []]
theorem witness_reductions : leaves tVr (.vredadd 3 0 3) (fun u => decide (vreg u.r 3 = vec 32 12 [0x4B800001] ∧ flags u = 1)) = true ∧
    leaves tVr (.vredadd 3 0 4) (fun u => decide (vreg u.r 3 = vec 32 12 [0x80000000] ∧ flags u = 0)) = true ∧
    leaves tVr (.vredmax 3 0 4) (fun u => decide (vreg u.r 3 = vec 32 12 [0xFF800000])) = true ∧
    leaves tVr (.vredmin 3 1 3) (fun u => decide (vreg u.r 3 = vec 8 1 [0x80] 1)) = true ∧
    leaves tVr (.vredmin 3 1 4) (fun u => decide (vreg u.r 3 = vec 8 1 [0x7F])) = true ∧ tagOf tVr 0 = 12 ∧ tagOf tVr 1 = 1 := by decide +kernel

/-- The last element and the one past it; a poisoned number. -/
def tVe : Strand := let t := tV [vec 8 1 [0x80, 5] 1, vec 64 7 [1, 2] 2, vec 32 12 [], vec 32 12 []]
  { t with r := { t.r with s := t.r.s.set 5 63, spois := 0x40 } }
theorem witness_elements : leaves tVe (.vins 1 4 0) (fun u => decide (vreg u.r 1 = vec 64 7 [0xFFFFFFFFFFFFFFFF, 2] 2)) = true ∧
    gave (lab tVe) tVe (.vext 9 0 5) 9 0 = true ∧ trapped (lab tVe) tVe (.vext 9 2 2) .operandRange 0 0 = true ∧
    trapped (lab tVe) tVe (.vins 2 4 2) .operandRange 0 0 = true ∧ trapped (lab tVe) tVe (.vext 9 0 6) .poisonConsumed 6 0 = true ∧
    rdP tVe.r 5 = false ∧ (rd tVe.r 5).toNat < 512 / tagWidth (tagOf tVe 0) := by decide +kernel

/-! Traps of operands. -/

def tQ : Strand := let t := tV [vec 8 0 [], vec 8 1 [3] 1, vec 32 12 [], vec 8 1 []]
  { t with r := { t.r with s := t.r.s.set 5 0xFF00000000000001, spois := 0x40 } }
theorem witness_operand_traps : (∀ i ∈ [Instr.ld 9 6 3 0 0, .st 9 6 3 0, .ldacq 9 6 3 0 0, .strel 9 6 3 0 0], trapped (lab tQ) tQ i .poisonConsumed 6 0 = true) ∧
    (∀ i ∈ [Instr.ld 9 5 3 0 0, .st 9 5 3 0, .ldacq 9 5 3 0 0, .strel 9 5 3 0 0], trapped (lab tQ) tQ i .misaligned 0 0xFF00000000000001 = true) := by decide +kernel
theorem witness_vector_traps : trapped (lab tQ) tQ (.vadd 3 0 2 0 0) .formatUnsupported 0 0 = true ∧ trapped (lab tQ) tQ (.vceq 3 1 2 0 0) .formatMismatch 0 0 = true ∧
    trapped (lab tQ) tQ (.vclt 3 1 3 0 0) .poisonConsumed 33 0 = true := by decide +kernel

/-! Conversions. -/

/-- The worked conversions of 02_numbers.md from f32 to e4m3 under RNE: 0.3, 464, 470, −∞, 2⁻¹⁰, −0, NaN. -/
theorem test_conversions_worked : ([(0x3E99999A, 0x2A, 0b00001), (0x43E80000, 0x7E, 0b00001), (0x43EB0000, 0x7E, 0b00101), (0xFF800000, 0xFE, 0b00101),
    (0x3A800000, 0x00, 0b00011), (0x80000000, 0x80, 0), (0x7FC00000, 0x7F, 0)] : List (Nat × Nat × Nat)).all
      (fun x => decide (convert 12 8 x.1 .rne false = (x.2.1, BitVec.ofNat 5 x.2.2))) = true := by decide +kernel

/-- The worked slice of 14_convert.md, out and back. -/
def lanes4 : List Nat := [0x3F800000, 0xC0200000, 0x3E99999A, 0x40A00000, 0, 0xBE4CCCCD, 0x40600000, 0x41400000,
  0x3F400000, 0x3F800000, 0x7FC00000, 0x40000000, 0xC0400000, 0x3F000000, 0x3E800000, 0x3FC00000]
def tSl : Strand := tV [vec 32 12 lanes4, vec 8 14 (List.replicate 64 0x7F), vec 32 0 [], vec 32 12 []]
theorem witness_scales : tagOf tSl 0 = 12 ∧ leaves tSl (.vscl 1 0 0 14 0 0 13) (fun u => decide (vreg u.r 1 = vec 8 14 ([0x80, 0xFF] ++ List.replicate 62 0x7F) ∧ flags u = 0b10000)) = true := by
  decide +kernel
def tSn : Strand := tV [vec 32 12 lanes4, vec 8 14 ([0x80, 0xFF] ++ List.replicate 62 0x7F), vec 32 0 [], vec 32 12 []]
theorem witness_narrow : leaves tSn (.vnar 2 0 1 0 0 13 0 0) (fun u =>
    decide (vreg u.r 2 = vec 8 13 [0xA1, 0x40, 0x80, 0x74] ∧ vreg u.r 1 = vreg tSn.r 1 ∧ flags u = 0b10011)) = true ∧ (2 : BitVec 5) ≠ 1 ∧
    tagOf tSn 1 = 14 ∧ 0 < 32 / tagWidth 13 := by decide +kernel

/-- A live scale over a NaN lane becomes NaN itself. -/
theorem test_narrow_void : leaves tSl (.vnar 2 0 1 0 0 13 0 0) (fun u => decide (elem u 1 8 0 = 0x7F ∧ elem u 1 8 1 = 0xFF ∧ elem u 2 4 9 = 0)) = true := by decide +kernel
def tSw : Strand := tV [vec 8 13 [0xA1, 0x40, 0x80, 0x74], vec 8 14 ([0x80, 0xFF] ++ List.replicate 62 0x7F), vec 32 0 [], vec 32 12 []]
theorem witness_widen : tagOf tSw 0 = 13 ∧ tagOf tSw 1 = 14 ∧ leaves tSw (.vwid 3 0 1 0 0 0 0) (fun u => decide (flags u = 0 ∧ vreg u.r 3 =
    vec 32 12 ([0x3F800000, 0xC0000000, 0, 0x40800000, 0, 0x80000000, 0x40800000, 0x41400000] ++ List.replicate 8 0x7FC00000))) = true := by decide +kernel

/-- One slice narrowed, one widened, and a new tag. -/
def tCv : Strand := tV [vec 32 12 (List.replicate 16 0x3F800000), vec 8 1 [0x80, 1], vec 8 2 (List.replicate 64 9), vec 32 12 []]
theorem witness_convert : leaves tCv (.vcvt 2 0 0 0 8 0 3 0) (fun u => decide (elem u 2 8 47 = 9 ∧ elem u 2 8 48 = 0x38 ∧ elem u 2 8 63 = 0x38 ∧ tagOf u 2 = 8)) = true ∧
    leaves tCv (.vcvt 2 1 0 0 12 0 0 0) (fun u => decide (elem u 2 32 0 = 0xC3000000 ∧ elem u 2 32 1 = 0x3F800000 ∧ tagOf u 2 = 12)) = true ∧
    leaves tCv (.vtag 2 1 18) (fun u => decide (vreg u.r 2 = vec 8 18 [0x80, 1])) = true ∧ 3 < 32 / 8 := by decide +kernel

/-! Vector memory: words at 0x100 of the scratchpad, one of them poisoned; i32 indices 0, 1, 2. -/

def tVl : Strand := tV [vec 32 5 [9, 9, 9, 9], vec 32 5 [0, 1, 2], vec 32 12 [5, 6, 7], vec 32 12 []]
def sV : State := updCore (paged (lab tVl)) here.core (fun k =>
  { k with spad := memStore [] 0x100 (leBytes 8 0x1122334455667788 ++ leBytes 8 0x99AABBCCDDEEFF01), spadPois := [0x21] })
theorem witness_vector_loads : (∀ i ∈ [Instr.vld 0 3 2 0 12 0 0, .vld 0 3 2 1 12 0 15, .vgath 0 3 1 2 0 12 2 0 0, .vgath 0 3 1 2 0 12 0 0 3], Admits sV tVl i) ∧
    rdP tVl.r 3 = false ∧ tVl.openers.length < 8 ∧ (actives tVl 2 32 (inSequence tVl 3 0 32)) = [(0, 0xFF00000000000100), (2, 0xFF00000000000108)] ∧
    isOk (locateVec sV here tVl (actives tVl 2 32 (inSequence tVl 3 0 32)) 4 .load)
      ([(0, .spad here.core 0x100, 0xFF00000000000100), (2, .spad here.core 0x108, 0xFF00000000000108)], sV) = true ∧
    (actives tVl 2 32 (byIndex tVl 3 1 0 2 32)) = [(0, 0xFF00000000000100), (2, 0xFF00000000000108)] ∧ tagOf tVl 1 = 5 := by decide +kernel
theorem test_vector_loads : (match exec (.vld 0 3 2 0 12 0 0) sV with
    | .next s => (match getStrand s here with | some u => decide (vreg u.r 0 = vec 32 12 [0x55667788, 9, 0xDDEEFF01, 9] 2) | none => false) | _ => false) = true ∧
    (match exec (.vgath 0 3 1 2 1 12 2 0 0) sV with
    | .next s => (match getStrand s here with | some u => decide (vreg u.r 0 = vec 32 12 [0x55667788, 0, 0xDDEEFF01] 2) | none => false) | _ => false) = true := by decide +kernel
theorem witness_vector_elements : (4 ∈ [1, 2, 4, 8]) ∧ (List.replicate 16 (none : Option (Loc × Word))).length = 64 / 4 ∧ (∀ q ∈ sV.pend, q.uid ≠ 1) ∧
    (getCore sV here.core).spadBad = [] ∧ 0x108 % 4 = 0 := by decide +kernel
theorem witness_vector_stores : (∀ i ∈ [Instr.vst 2 3 2 0, .vscat 2 3 1 2 2 0], Admits sV tVl i) ∧ outstanding sV 1 < 32 ∧ tagOf tVl 2 = 12 ∧
    isOk (locateVec sV here tVl (actives tVl 2 32 (inSequence tVl 3 0 32)) 4 .store)
      ([(0, .spad here.core 0x100, 0xFF00000000000100), (2, .spad here.core 0x108, 0xFF00000000000108)], sV) = true ∧ blockOff (.spad here.core 0x108) % 4 = 0 := by
  decide +kernel

end Sys2Proof.Tests
end

section
/-! PROOFS of the scalar statements (spec/05_scalar.md): integer, division, immediate and branch instructions. -/

namespace Sys2Proof.Scalar

open Sys2Proof.Machine Sys2Proof.Says

/-! An admitted instruction and its place: one rule for the computing forms, one for each way to go on. -/

section Gives

variable {s : State} {t : Strand} {i : Instr} {d a b : BitVec 5} {v : Word} {p : Bool}

theorem gives_of_compute (f : Ctx → Except Stop Regs) (hexec : exec i s = compute i s f)
    (hf : f ⟨s.cur, t, i.len, i.word0⟩ = .ok (wr t.r d v p)) : gives s t i d v p (spacing i .seq) := by
  rintro ⟨here, sh, st, op, cl, sf⟩
  rw [hexec, compute_ok i s t f _ here sh st op cl sf hf]
  rfl

theorem gives_of_int2 (f : Word → Word → Word) (hexec : exec i s = int2 i d a b f s)
    (hv : f (rd t.r a) (rd t.r b) = v) : gives s t i d v (rdP t.r a || rdP t.r b) (spacing i .seq) :=
  gives_of_compute _ hexec (by rw [← hv])

theorem gives_of_int1 (f : Word → Word) (hexec : exec i s = int1 i d a f s) (hv : f (rd t.r a) = v) :
    gives s t i d v (rdP t.r a) (spacing i .seq) :=
  gives_of_compute _ hexec (by rw [← hv])

/-- A form without sources (`li`, `addpc`) is never poisoned (R102). -/
theorem gives_of_unpoisoned (f : Ctx → Word) (hexec : exec i s = compute i s (fun x => .ok (wr x.t.r d (f x) false)))
    (hv : f ⟨s.cur, t, i.len, i.word0⟩ = v) : gives s t i d v false (spacing i .seq) :=
  gives_of_compute _ hexec (by rw [← hv])

/-- With LA 0 a division opens no window (R97). -/
theorem divOp_la_zero (i : Instr) (d a b : BitVec 5) (f : Word → Word → Word) (s : State) :
    divOp i d a b 0 f s = int2 i d a b f s := rfl

section Issue

variable {body : State → Ctx → Except Stop (State × Next)} (hexec : exec i s = issue i s body) (adm : Admits s t i)
include hexec adm

theorem exec_of_goto {pc : Word} (hbody : body s ⟨s.cur, t, i.len, i.word0⟩ = .ok (s, .goto pc)) :
    exec i s = .next (went s s.cur t i pc true (spacing i (.goto pc))) := by
  obtain ⟨here, sh, st, op, cl, sf⟩ := adm
  rw [hexec, issue_body i s t body here sh op cl sf, hbody]
  dsimp only
  rw [finish_goto i s _ t pc here st sh, tickWindows_self, went]
  simp only [sh]

theorem exec_of_link {pc : Word} {r : Regs}
    (hbody : body s ⟨s.cur, t, i.len, i.word0⟩ = .ok (setRegs s ⟨s.cur, t, i.len, i.word0⟩ r, .goto pc)) :
    exec i s = .next (went s s.cur t i pc true (spacing i (.goto pc)) r) := by
  obtain ⟨here, sh, st, op, cl, sf⟩ := adm
  rw [hexec, issue_body i s t body here sh op cl sf, hbody]
  dsimp only
  rw [finish_goto i _ _ { t with r := r } pc (getStrand_setStrand_same s s.cur _) st sh, tickWindows_self, setRegs,
    occupy_setStrand, went]
  simp only [sh, setStrand_cycle]

theorem exec_of_seq (hbody : body s ⟨s.cur, t, i.len, i.word0⟩ = .ok (s, .seq)) :
    exec i s = .next (went s s.cur t i (t.pc + BitVec.ofNat 64 i.len) false (spacing i .seq)) := by
  obtain ⟨here, sh, st, op, cl, sf⟩ := adm
  rw [hexec, issue_body i s t body here sh op cl sf, hbody]
  dsimp only
  rw [finish_seq i s _ t here st sh, tickWindows_self, went]
  simp only [sh]

theorem traps_of_error {c : Cause} {detail daddr : Word}
    (hbody : body s ⟨s.cur, t, i.len, i.word0⟩ = .error (.trap c detail daddr)) : traps s t i c detail daddr := by
  obtain ⟨here, sh, -, op, cl, sf⟩ := adm
  rw [traps, hexec, issue_body i s t body here sh op cl sf, hbody]
  simp only [stopped, sh]

end Issue

end Gives

/-! What the table of R106 says of one result, for the operators of the model. -/

theorem signExtend_eq_ofInt {w : Nat} (x : BitVec w) (v : Nat) : x.signExtend v = BitVec.ofInt v x.toInt := rfl

theorem shiftLeft_eq_ofNat (x : Word) (k : Nat) : x <<< k = BitVec.ofNat 64 (x.toNat * 2 ^ k) := by
  apply BitVec.eq_of_toNat_eq
  simp [Nat.shiftLeft_eq]

theorem ushiftRight_eq_ofNat (x : Word) (k : Nat) : x >>> k = BitVec.ofNat 64 (x.toNat / 2 ^ k) := by
  rw [← Nat.shiftRight_eq_div_pow, ← BitVec.toNat_ushiftRight, BitVec.ofNat_toNat, BitVec.setWidth_eq]

theorem sshiftRight_eq_ofInt (x : Word) (k : Nat) : x.sshiftRight k = BitVec.ofInt 64 (x.toInt / 2 ^ k) := by
  rw [BitVec.sshiftRight, Int.shiftRight_eq_div_pow]
  norm_cast

theorem amt6_eq (y : Word) : amt6 y = y.toNat % 64 := by simp [amt6, bitsOf]

theorem add_eq_ofNat (x y : Word) : x + y = BitVec.ofNat 64 (x.toNat + y.toNat) := by simp [BitVec.ofNat_add]

theorem sub_eq_ofInt (x y : Word) : x - y = BitVec.ofInt 64 (x.toInt - y.toInt) := by
  rw [Int.sub_eq_add_neg, BitVec.ofInt_add, BitVec.ofInt_neg, BitVec.ofInt_toInt, BitVec.ofInt_toInt, BitVec.sub_eq_add_neg]

theorem mul_eq_ofInt (x y : Word) : x * y = BitVec.ofInt 64 (x.toInt * y.toInt) := by simp [BitVec.ofInt_mul]

theorem rotateRight_amt6 (x y : Word) :
    x.rotateRight (amt6 y) = (x >>> (y.toNat % 64)) ||| (x <<< (64 - y.toNat % 64)) := by
  rw [amt6_eq, BitVec.rotateRight_eq_rotateRightAux_of_lt (Nat.mod_lt _ (by decide))]
  rfl

/-- The upper half of a product, taken modulo 2^128, is that of the exact product. -/
theorem highHalf_ofInt (m : Int) : (BitVec.ofInt 128 m).extractLsb' 64 64 = BitVec.ofInt 64 (m / 2 ^ 64) := by
  apply BitVec.eq_of_toNat_eq
  simp only [BitVec.extractLsb'_toNat, BitVec.toNat_ofInt, Nat.shiftRight_eq_div_pow]
  omega

theorem highHalf_ofNat (n : Nat) : (BitVec.ofNat 128 n).extractLsb' 64 64 = BitVec.ofNat 64 (n / 2 ^ 64) := by
  apply BitVec.eq_of_toNat_eq
  simp only [BitVec.extractLsb'_toNat, BitVec.toNat_ofNat, Nat.shiftRight_eq_div_pow]
  omega

theorem mulhOf_eq (x y : Word) : mulhOf x y = BitVec.ofInt 64 (x.toInt * y.toInt / 2 ^ 64) := by
  rw [mulhOf, signExtend_eq_ofInt, signExtend_eq_ofInt, ← BitVec.ofInt_mul, highHalf_ofInt]

theorem mulhnOf_eq (x y : Word) : mulhnOf x y = BitVec.ofNat 64 (x.toNat * y.toNat / 2 ^ 64) := by
  rw [mulhnOf, ← BitVec.ofNat_toNat, ← BitVec.ofNat_toNat, ← BitVec.ofNat_mul, highHalf_ofNat]

theorem signedMin_eq (x y : Word) : (if y.slt x then y else x) = BitVec.ofInt 64 (min x.toInt y.toInt) := by
  rw [min_comm, min_def_lt, apply_ite (BitVec.ofInt 64), BitVec.ofInt_toInt, BitVec.ofInt_toInt]
  simp only [BitVec.slt_eq_decide, decide_eq_true_eq]

theorem signedMax_eq (x y : Word) : (if x.slt y then y else x) = BitVec.ofInt 64 (max x.toInt y.toInt) := by
  rw [max_def_lt, apply_ite (BitVec.ofInt 64), BitVec.ofInt_toInt, BitVec.ofInt_toInt]
  simp only [BitVec.slt_eq_decide, decide_eq_true_eq]

theorem naturalMin_eq (x y : Word) : (if y.ult x then y else x) = BitVec.ofNat 64 (min x.toNat y.toNat) := by
  rw [min_comm, min_def_lt, apply_ite (BitVec.ofNat 64)]
  simp only [BitVec.ult_eq_decide, decide_eq_true_eq, BitVec.ofNat_toNat, BitVec.setWidth_eq]

theorem naturalMax_eq (x y : Word) : (if x.ult y then y else x) = BitVec.ofNat 64 (max x.toNat y.toNat) := by
  rw [max_def_lt, apply_ite (BitVec.ofNat 64)]
  simp only [BitVec.ult_eq_decide, decide_eq_true_eq, BitVec.ofNat_toNat, BitVec.setWidth_eq]

theorem bool01_decide (c : Prop) [Decidable c] : bool01 (decide c) = if c then 1 else 0 := by simp [bool01]

theorem bool01_beq (x y : Word) : bool01 (x == y) = if x = y then 1 else 0 := by simp [bool01]

/-! Counts (R106). -/

theorem getLsbD_of_bitLen_le (x : Word) {i : Nat} (h : bitLen x.toNat ≤ i) : x.getLsbD i = false := by
  refine Nat.testBit_lt_two_pow ?_
  unfold bitLen at h
  split at h
  · rename_i hx
    rw [hx]; exact Nat.two_pow_pos i
  · rename_i hx
    exact (Nat.log2_lt hx).mp h

theorem getLsbD_bitLen_sub_one (x : Word) (h : 0 < bitLen x.toNat) : x.getLsbD (bitLen x.toNat - 1) = true := by
  unfold bitLen at h ⊢
  split
  · rename_i hx; simp [hx] at h
  · rename_i hx; exact Nat.testBit_log2 hx

theorem bitLen_le (x : Word) : bitLen x.toNat ≤ 64 := by
  by_contra h
  have := getLsbD_bitLen_sub_one x (by omega)
  rw [BitVec.getLsbD_of_ge x _ (by omega)] at this
  cases this

theorem lowBit_eq_none {n : Nat} : ∀ {x i : Nat}, lowBit n x i = none → ∀ k < n, x.testBit k = false := by
  induction n with
  | zero => intro x i _ k hk; omega
  | succ n ih =>
    intro x i h k hk
    rw [lowBit] at h
    split at h
    · cases h
    · rename_i hx
      cases k with
      | zero => simpa using hx
      | succ k => rw [Nat.testBit_succ]; exact ih h k (by omega)

theorem lowBit_eq_some {n : Nat} : ∀ {x i j : Nat}, lowBit n x i = some j →
    ∃ k < n, j = i + k ∧ x.testBit k = true ∧ ∀ l < k, x.testBit l = false := by
  induction n with
  | zero => intro x i j h; cases h
  | succ n ih =>
    intro x i j h
    rw [lowBit] at h
    split at h
    · rename_i hx
      cases h
      exact ⟨0, by omega, rfl, by simpa using hx, by omega⟩
    · rename_i hx
      obtain ⟨k, hk, rfl, hbit, hlow⟩ := ih h
      refine ⟨k + 1, by omega, by omega, by rwa [Nat.testBit_succ], fun l hl => ?_⟩
      cases l with
      | zero => simpa using hx
      | succ l => rw [Nat.testBit_succ]; exact hlow l (by omega)

/-- R106, `ctz`: the bits below the first set bit are 0, all 64 when none is set. -/
theorem ctzOf_spec (x : Word) : ctzOf x ≤ 64 ∧ (∀ i < ctzOf x, x.getLsbD i = false) ∧
    (ctzOf x < 64 → x.getLsbD (ctzOf x) = true) := by
  unfold ctzOf
  cases h : lowBit 64 x.toNat 0 with
  | none => exact ⟨le_rfl, lowBit_eq_none h, fun h => absurd h (by decide)⟩
  | some j =>
    obtain ⟨k, hk, rfl, hbit, hlow⟩ := lowBit_eq_some h
    rw [Nat.zero_add]
    exact ⟨hk.le, hlow, fun _ => hbit⟩

/-- R106, `clz`: the bits above the first set bit from the top are 0, all 64 when none is set. -/
theorem clzOf_spec (x : Word) : clzOf x ≤ 64 ∧ (∀ i, 64 - clzOf x ≤ i → x.getLsbD i = false) ∧
    (clzOf x < 64 → x.getLsbD (63 - clzOf x) = true) := by
  have hle := bitLen_le x
  unfold clzOf
  refine ⟨Nat.sub_le _ _, fun i hi => getLsbD_of_bitLen_le x (by omega), fun h => ?_⟩
  rw [show 63 - (64 - bitLen x.toNat) = bitLen x.toNat - 1 by omega]
  exact getLsbD_bitLen_sub_one x (by omega)

theorem popN_eq_length_filter (n : Nat) : ∀ x, popN n x = ((List.range n).filter (fun i => x.testBit i)).length := by
  induction n with
  | zero => intro x; rfl
  | succ n ih =>
    intro x
    simp only [popN, ih, List.range_succ_eq_map, List.filter_cons, List.filter_map, Function.comp_def, Nat.succ_eq_add_one,
      Nat.testBit_succ, Nat.testBit_zero]
    rcases Nat.mod_two_eq_zero_or_one x with h | h <;> simp [h, Nat.add_comm]

/-! Fields (R106): the mask of a field, then `bfx` and `bfi` bit by bit. -/

theorem getLsbD_bfMask {lo hi i : Nat} (hle : lo ≤ hi) (hi64 : i < 64) :
    (bfMask lo hi).getLsbD i = decide (lo ≤ i ∧ i ≤ hi) := by
  rw [bfMask, BitVec.getLsbD_ofNat, Nat.testBit_mul_two_pow, Nat.testBit_two_pow_sub_one, Bool.eq_iff_iff]
  simp only [Bool.and_eq_true, decide_eq_true_eq]
  omega

/-- A field ends at bit 63 at the latest (R106). -/
theorem le_bfHi_iff {pos len i : Nat} (hlen : len ≠ 0) (hi : i < 64) : i ≤ bfHi pos len ↔ i < pos + len := by
  unfold bfHi; split <;> omega

theorem getLsbD_bfxOf (x y : Word) {i : Nat} (hi : i < 64) : (bfxOf x y).getLsbD i =
    (decide (i < y.toNat / 256 % 128) && x.getLsbD (y.toNat % 64 + i)) := by
  have hdef : bfxOf x y = if y.toNat / 256 % 128 = 0 then 0
      else (x >>> (y.toNat % 64)) &&& bfMask 0 (bfHi (y.toNat % 64) (y.toNat / 256 % 128) - y.toNat % 64) := by
    rw [← amt6_eq]; rfl
  rw [hdef]
  split
  · rename_i hlen; simp [hlen]
  · rename_i hlen
    rw [BitVec.getLsbD_and, BitVec.getLsbD_ushiftRight, getLsbD_bfMask (Nat.zero_le _) hi, Bool.and_comm]
    by_cases hin : y.toNat % 64 + i < 64
    · have hbound := le_bfHi_iff (pos := y.toNat % 64) hlen hin
      congr 2
      rw [eq_iff_iff]
      omega
    · rw [BitVec.getLsbD_of_ge x _ (by omega), Bool.and_false, Bool.and_false]

theorem getLsbD_bfiOf (w x y : Word) {i : Nat} (hi : i < 64) : (bfiOf w x y).getLsbD i =
    if y.toNat % 64 ≤ i ∧ i < y.toNat % 64 + y.toNat / 256 % 128 then x.getLsbD (i - y.toNat % 64) else w.getLsbD i := by
  have hdef : bfiOf w x y = if y.toNat / 256 % 128 = 0 then w
      else (w &&& ~~~bfMask (y.toNat % 64) (bfHi (y.toNat % 64) (y.toNat / 256 % 128))) |||
        ((x <<< (y.toNat % 64)) &&& bfMask (y.toNat % 64) (bfHi (y.toNat % 64) (y.toNat / 256 % 128))) := by
    rw [← amt6_eq]; rfl
  rw [hdef]
  split
  · rw [if_neg (by omega)]
  · rename_i hlen
    have hpos : y.toNat % 64 < 64 := Nat.mod_lt _ (by decide)
    have hle : y.toNat % 64 ≤ bfHi (y.toNat % 64) (y.toNat / 256 % 128) := (le_bfHi_iff hlen hpos).mpr (by omega)
    have hmask := getLsbD_bfMask hle hi
    simp only [le_bfHi_iff hlen hi] at hmask
    rw [BitVec.getLsbD_or, BitVec.getLsbD_and, BitVec.getLsbD_and, BitVec.getLsbD_not, BitVec.getLsbD_shiftLeft, hmask]
    split
    · rename_i h; simp [h, hi]
    · rename_i h; simp [h, hi]

/-! Divisions (R107). -/

/-- R107: −2⁶³ / −1, whose quotient 2⁶³ no register holds, wraps to the dividend. -/
theorem divOf_eq (x y : Word) : divOf x y = if y = 0 then BitVec.ofInt 64 (-1)
    else if x.toInt = -2 ^ 63 ∧ y.toInt = -1 then x else BitVec.ofInt 64 (x.toInt.tdiv y.toInt) := by
  unfold divOf
  split
  · rfl
  · split
    · rename_i hxy
      obtain ⟨hx, hy⟩ := hxy
      rw [hy, Int.tdiv_neg, Int.tdiv_one]
      apply BitVec.eq_of_toInt_eq
      rw [hx]
      decide
    · rfl

/-- R107: a remainder is what the truncated quotient leaves. -/
theorem remOf_eq (x y : Word) : remOf x y = if y = 0 then x
    else if x.toInt = -2 ^ 63 ∧ y.toInt = -1 then 0 else BitVec.ofInt 64 (x.toInt - y.toInt * x.toInt.tdiv y.toInt) := by
  unfold remOf
  split
  · rfl
  · split
    · rename_i hxy
      obtain ⟨-, hy⟩ := hxy
      rw [hy, Int.tmod_neg, Int.tmod_one]
      rfl
    · rw [Int.tmod_def]

/-! Branches (R112 to R114). -/

theorem len_bc (a : BitVec 5) (cc : BitVec 4) (off : BitVec 15) : (Instr.bc a cc off).len = 4 := by
  have hlen : fLen (0#2 ++ 0x04#6 ++ a ++ cc ++ off) = 0 := by
    apply BitVec.eq_of_getLsbD_eq
    intro i hi
    rw [fLen, BitVec.getLsbD_extractLsb']
    interval_cases i <;> simp only [BitVec.getLsbD_append] <;> rfl
  change lenBytes (fLen (0#2 ++ 0x04#6 ++ a ++ cc ++ off)) = 4
  rw [hlen]; rfl

/-- R112, R113: a word offset counts four bytes. -/
theorem byteOffset_eq {w : Nat} (off : BitVec w) : off.signExtend 64 <<< 2 = BitVec.ofInt 64 (off.toInt * 4) := by
  rw [signExtend_eq_ofInt, BitVec.shiftLeft_eq_mul_twoPow, BitVec.ofInt_mul]
  rfl

theorem getLsbD_zero_eq (x : Word) : x.getLsbD 0 = decide (x.toNat % 2 = 1) := Nat.testBit_zero x.toNat

theorem not_decide_eq {p q : Prop} [Decidable p] [Decidable q] (h : ¬p ↔ q) : (!decide p) = decide q := by
  rw [← decide_not]; exact decide_eq_decide.mpr h

/-- R113: the conditions in words of the register's value. -/
theorem condTaken_eq (cc : BitVec 4) (x : Word) : condTaken cc x = match cc.toNat with
    | 0 => decide (x = 0) | 1 => decide (x ≠ 0) | 2 => decide (x.toInt < 0) | 3 => decide (0 ≤ x.toInt)
    | 4 => decide (0 < x.toInt) | 5 => decide (x.toInt ≤ 0) | 6 => decide (x.toNat % 2 = 1) | _ => decide (x.toNat % 2 = 0) := by
  have hne : (x != 0) = decide (x ≠ 0) := not_decide_eq Iff.rfl
  have hnonneg : (!x.slt 0) = decide (0 ≤ x.toInt) := not_decide_eq Int.not_lt
  have hnonpos : (!(0#64).slt x) = decide (x.toInt ≤ 0) := not_decide_eq Int.not_lt
  have heven : (!decide (x.toNat % 2 = 1)) = decide (x.toNat % 2 = 0) := not_decide_eq Nat.mod_two_ne_one
  unfold condTaken
  rw [hne, hnonneg, hnonpos, getLsbD_zero_eq, heven]
  rfl

section BranchUse

variable {x : Ctx} {a : BitVec 5} (y : State × Next)

theorem branchUse_then_of_clean (clean : rdP x.t.r a = false) :
    (do branchUse x a; pure y : Except Stop (State × Next)) = .ok y := by
  rw [branchUse, if_neg (by rw [clean]; decide)]; rfl

theorem branchUse_then_of_poisoned (sh : x.t.shadow = none) (poisoned : rdP x.t.r a = true) :
    (do branchUse x a; pure y : Except Stop (State × Next)) = .error (.trap .poisonConsumed (BitVec.ofNat 64 a.toNat) 0) := by
  rw [branchUse, if_pos poisoned, sh, needClean, if_pos poisoned]; rfl

end BranchUse

theorem exec_br (off : BitVec 24) (s : State) : exec (.br off) s =
    issue (.br off) s (fun s x => .ok (s, .goto (x.t.pc + (off.signExtend 64 <<< 2)))) := rfl

theorem exec_call (off : BitVec 24) (s : State) : exec (.call off) s = issue (.call off) s (fun s x =>
    .ok (setRegs s x (wr x.t.r 1#5 (x.t.pc + 4) false), .goto (x.t.pc + (off.signExtend 64 <<< 2)))) := rfl

theorem exec_bc (a : BitVec 5) (cc : BitVec 4) (off : BitVec 15) (s : State) : exec (.bc a cc off) s =
    issue (.bc a cc off) s (fun s x => do
      branchUse x a
      pure (s, if condTaken cc (rd x.t.r a) then .goto (x.t.pc + (off.signExtend 64 <<< 2)) else .seq)) := rfl

theorem exec_jr (a : BitVec 5) (s : State) : exec (.jr a) s = issue (.jr a) s (fun s x => do
    branchUse x a
    pure (s, .goto (rd x.t.r a))) := rfl

theorem exec_jal (d a : BitVec 5) (s : State) : exec (.jal d a) s = issue (.jal d a) s (fun s x => do
    branchUse x a
    pure (setRegs s x (wr x.t.r d (x.t.pc + 4) false), .goto (rd x.t.r a))) := rfl

/-- R113: where `bc` on a clean register goes. -/
theorem exec_bc_of_clean {s : State} {t : Strand} {a : BitVec 5} {cc : BitVec 4} {off : BitVec 15}
    (adm : Admits s t (.bc a cc off)) (clean : rdP t.r a = false) :
    exec (.bc a cc off) s = .next (if condTaken cc (rd t.r a)
      then went s s.cur t (.bc a cc off) (t.pc + (off.signExtend 64 <<< 2)) true 3
      else went s s.cur t (.bc a cc off) (t.pc + 4) false 2) := by
  split
  · rename_i taken
    exact exec_of_goto (exec_bc a cc off s) adm (by rw [branchUse_then_of_clean _ clean, if_pos taken])
  · rename_i passed
    have hpc : t.pc + 4 = t.pc + BitVec.ofNat 64 (Instr.bc a cc off).len := by rw [len_bc]; rfl
    rw [hpc]
    exact exec_of_seq (exec_bc a cc off s) adm (by rw [branchUse_then_of_clean _ clean, if_neg passed])

/-! The statements. -/

/-- Settles O1: each form is `int1` or `int2` of an operator, whose value is the table's. -/
theorem integerResults : Obligations.IntegerResults := by
  unfold Obligations.IntegerResults
  constructor
  · intro s t d a b x y k p
    have hk : amt6 y = k := amt6_eq y
    exact ⟨gives_of_int2 (fun x y => x + y) rfl (add_eq_ofNat x y),
      gives_of_int2 (fun x y => x - y) rfl (sub_eq_ofInt x y),
      gives_of_int2 (fun x y => x &&& y) rfl rfl,
      gives_of_int2 (fun x y => x ||| y) rfl rfl,
      gives_of_int2 (fun x y => x ^^^ y) rfl rfl,
      gives_of_int2 (fun x y => x &&& ~~~y) rfl rfl,
      gives_of_int2 (fun x y => x <<< amt6 y) rfl (hk ▸ shiftLeft_eq_ofNat x (amt6 y)),
      gives_of_int2 (fun x y => x >>> amt6 y) rfl (hk ▸ ushiftRight_eq_ofNat x (amt6 y)),
      gives_of_int2 (fun x y => x.sshiftRight (amt6 y)) rfl (hk ▸ sshiftRight_eq_ofInt x (amt6 y)),
      gives_of_int2 (fun x y => x.rotateRight (amt6 y)) rfl (rotateRight_amt6 x y),
      gives_of_int2 (fun x y => x * y) rfl (mul_eq_ofInt x y),
      gives_of_int2 mulhOf rfl (mulhOf_eq x y),
      gives_of_int2 mulhnOf rfl (mulhnOf_eq x y),
      gives_of_int2 (fun x y => if y.slt x then y else x) rfl (signedMin_eq x y),
      gives_of_int2 (fun x y => if x.slt y then y else x) rfl (signedMax_eq x y),
      gives_of_int2 (fun x y => if y.ult x then y else x) rfl (naturalMin_eq x y),
      gives_of_int2 (fun x y => if x.ult y then y else x) rfl (naturalMax_eq x y),
      gives_of_int2 (fun x y => bool01 (x.slt y)) rfl (bool01_decide (x.toInt < y.toInt)),
      gives_of_int2 (fun x y => bool01 (x.ult y)) rfl (bool01_decide (x.toNat < y.toNat)),
      gives_of_int2 (fun x y => bool01 (x == y)) rfl (bool01_beq x y)⟩
  · intro s t d a b x y pos len
    exact ⟨⟨clzOf x, gives_of_int1 (fun x => BitVec.ofNat 64 (clzOf x)) rfl rfl, clzOf_spec x⟩,
      ⟨ctzOf x, gives_of_int1 (fun x => BitVec.ofNat 64 (ctzOf x)) rfl rfl, ctzOf_spec x⟩,
      gives_of_int1 (fun x => BitVec.ofNat 64 (popN 64 x.toNat)) rfl
        (congrArg (BitVec.ofNat 64) (popN_eq_length_filter 64 x.toNat)),
      ⟨bfxOf x y, gives_of_int2 bfxOf rfl rfl, fun i hi => getLsbD_bfxOf x y hi⟩,
      ⟨bfiOf (rd t.r d) x y, gives_of_compute (fun c => .ok (wr c.t.r d (bfiOf (rd c.t.r d) (rd c.t.r a) (rd c.t.r b))
        (rdP c.t.r d || rdP c.t.r a || rdP c.t.r b))) rfl rfl, fun i hi => getLsbD_bfiOf (rd t.r d) x y hi⟩⟩

/-- Settles O2: with LA 0 a division is `int2` of its quotient or remainder. -/
theorem divisionResults : Obligations.DivisionResults := by
  unfold Obligations.DivisionResults
  intro s t d a b x y p
  exact ⟨gives_of_int2 divOf (divOp_la_zero _ d a b divOf s) (divOf_eq x y),
    gives_of_int2 remOf (divOp_la_zero _ d a b remOf s) (remOf_eq x y),
    gives_of_int2 divnOf (divOp_la_zero _ d a b divnOf s) rfl,
    gives_of_int2 remnOf (divOp_la_zero _ d a b remnOf s) rfl⟩

/-- Settles O3: each form is `int1` of its operator with the immediate, or a value without a source. -/
theorem immediateResults : Obligations.ImmediateResults := by
  unfold Obligations.ImmediateResults
  intro s t d a imm amt lit x p z
  exact ⟨gives_of_int1 (fun x => x + imm.signExtend 64) rfl rfl, gives_of_int1 (fun x => x + lit) rfl rfl,
    gives_of_int1 (fun x => x &&& imm.signExtend 64) rfl rfl, gives_of_int1 (fun x => x &&& lit) rfl rfl,
    gives_of_int1 (fun x => x ||| imm.signExtend 64) rfl rfl, gives_of_int1 (fun x => x ||| lit) rfl rfl,
    gives_of_int1 (fun x => x ^^^ imm.signExtend 64) rfl rfl, gives_of_int1 (fun x => x ^^^ lit) rfl rfl,
    gives_of_int1 (fun x => x <<< amt.toNat) rfl (shiftLeft_eq_ofNat x amt.toNat),
    gives_of_int1 (fun x => x >>> amt.toNat) rfl (ushiftRight_eq_ofNat x amt.toNat),
    gives_of_int1 (fun x => x.sshiftRight amt.toNat) rfl (sshiftRight_eq_ofInt x amt.toNat),
    gives_of_unpoisoned (fun _ => imm.signExtend 64) rfl rfl, gives_of_unpoisoned (fun _ => lit) rfl rfl,
    gives_of_unpoisoned (fun c => c.t.pc + imm.signExtend 64) rfl rfl, gives_of_unpoisoned (fun c => c.t.pc + lit) rfl rfl⟩

/-- Settles O5: a clean register lets each form transfer control; a poisoned one stops the three that use it first. -/
theorem branchResults : Obligations.BranchResults := by
  unfold Obligations.BranchResults
  constructor
  · intro s t d a cc off off15 x taken far near
    have hfar : t.pc + (off.signExtend 64 <<< 2) = far := by rw [byteOffset_eq]
    have hnear : t.pc + (off15.signExtend 64 <<< 2) = near := by rw [byteOffset_eq]
    have htaken : condTaken cc x = taken := condTaken_eq cc x
    refine ⟨fun adm => ?br, fun adm => ?call, fun ⟨adm, _, clean⟩ => ?bc, fun ⟨adm, clean⟩ => ?jr, fun ⟨adm, clean⟩ => ?jal⟩
    case br => exact hfar ▸ exec_of_goto (exec_br off s) adm rfl
    case call => exact hfar ▸ exec_of_link (exec_call off s) adm rfl
    case bc => rw [exec_bc_of_clean adm clean, htaken, hnear]
    case jr => exact exec_of_goto (exec_jr a s) adm (branchUse_then_of_clean _ clean)
    case jal => exact exec_of_link (exec_jal d a s) adm (branchUse_then_of_clean _ clean)
  · intro s t d a cc off i form adm poisoned
    have ⟨_, sh, _⟩ := adm
    rcases form with rfl | rfl | rfl
    case inl => exact traps_of_error (exec_bc a cc off s) adm (branchUse_then_of_poisoned _ sh poisoned)
    case inr.inl => exact traps_of_error (exec_jr a s) adm (branchUse_then_of_poisoned _ sh poisoned)
    case inr.inr => exact traps_of_error (exec_jal d a s) adm (branchUse_then_of_poisoned _ sh poisoned)

end Sys2Proof.Scalar
end

section
/-! PROOFS of the vector statements (spec/13_vector.md): compares and predicate instructions. -/

namespace Sys2Proof.Vector

open Sys2Proof.Machine Sys2Proof.Says Sys2Proof.Scalar

section Issue

variable {s : State} {t : Strand} {i : Instr}

/-- One rule for every computing form, whichever registers it writes. -/
theorem goesOn_of_compute {r : Regs} {gap : Nat} (f : Ctx → Except Stop Regs) (hexec : exec i s = compute i s f)
    (hgap : spacing i .seq = gap) (hf : f ⟨s.cur, t, i.len, i.word0⟩ = .ok r) (adm : Admits s t i) :
    exec i s = .next (goesOn s t i r gap) := by
  obtain ⟨here, sh, st, op, cl, sf⟩ := adm
  rw [hexec, compute_ok i s t f _ here sh st op cl sf hf, hgap]
  rfl

theorem traps_of_compute {c : Cause} {detail daddr : Word} (f : Ctx → Except Stop Regs) (hexec : exec i s = compute i s f)
    (hf : f ⟨s.cur, t, i.len, i.word0⟩ = .error (.trap c detail daddr)) (adm : Admits s t i) :
    traps s t i c detail daddr :=
  traps_of_error hexec adm (by rw [hf]; rfl)

end Issue

section NeedClean

variable {r : Regs} {a : BitVec 5}

theorem needClean_of_clean (clean : rdP r a = false) : needClean r a = .ok () := by
  rw [needClean, if_neg (by rw [clean]; decide)]; rfl

theorem needClean_of_poisoned (poisoned : rdP r a = true) :
    needClean r a = .error (.trap .poisonConsumed (BitVec.ofNat 64 a.toNat) 0) := by
  rw [needClean, if_pos poisoned]; rfl

end NeedClean

/-- R253: a write to p0 is discarded. -/
@[simp] theorem wrP_zero (r : Regs) (v : Word) : wrP r 0 v = r := rfl

/-! Bits of a predicate: what `pcnt` and `pfirst` find, and a word made bit by bit. -/

theorem lowBit_eq_find? (n : Nat) : ∀ x i, lowBit n x i = ((List.range n).find? (fun k => x.testBit k)).map (i + ·) := by
  induction n with
  | zero => intro x i; rfl
  | succ n ih =>
    intro x i
    rw [lowBit, ih, List.range_succ_eq_map, List.find?_cons, Nat.testBit_zero]
    by_cases hx : x % 2 = 1
    · simp [hx]
    · simp [hx, List.find?_map, Function.comp_def, Nat.testBit_succ, Nat.add_comm, Nat.add_left_comm]

theorem lowestBit_eq (x : Word) :
    (match lowBit 64 x.toNat 0 with | none => ~~~(0#64) | some k => BitVec.ofNat 64 k) =
    (match (List.range 64).find? (fun k => x.getLsbD k) with | some k => BitVec.ofNat 64 k | none => BitVec.ofInt 64 (-1)) := by
  have hfind : lowBit 64 x.toNat 0 = (List.range 64).find? (fun k => x.getLsbD k) := by
    rw [lowBit_eq_find?]; simp [BitVec.getLsbD]
  rw [hfind]
  cases (List.range 64).find? (fun k => x.getLsbD k) <;> rfl

/-- `ofElems` at width 1 packs bits. -/
theorem testBit_ofElems_one (l : List Bool) : ∀ k,
    (ofElems 1 (l.map (fun b => if b then 1 else 0))).testBit k = (l[k]?).getD false := by
  induction l with
  | nil => intro k; simp [ofElems]
  | cons b l ih =>
    intro k
    have hdiv (m : Nat) : ((if b then 1 else 0) % 2 + 2 * m) / 2 = m := by split <;> omega
    cases k with
    | zero => cases b <;> simp [ofElems, Nat.testBit_zero]
    | succ k => simp [ofElems, Nat.testBit_succ, hdiv, ih]

/-- The predicate that a compare of `n` elements makes of the bits `bit` (R259). -/
def bitsWord (n : Nat) (bit : Nat → Bool) : Word :=
  BitVec.ofNat 64 (ofElems 1 ((List.range n).map (fun e => if bit e then 1 else 0)))

theorem getLsbD_bitsWord (n : Nat) (bit : Nat → Bool) {e : Nat} (he : e < 64) :
    (bitsWord n bit).getLsbD e = if n ≤ e then false else bit e := by
  have hmap : (List.range n).map (fun e => if bit e then 1 else 0) =
      ((List.range n).map bit).map (fun b => if b then 1 else 0) := by rw [List.map_map]; rfl
  rw [bitsWord, BitVec.getLsbD_ofNat, hmap, testBit_ofElems_one]
  by_cases h : n ≤ e
  · simp [h]
  · simp [h, he, List.getElem?_range (Nat.lt_of_not_le h)]

/-! Compares (R259). -/

theorem tagWidth_pos (g : Nat) : 0 < tagWidth g := by unfold tagWidth; split <;> decide

theorem sintN_eq_toInt {w : Nat} (hw : 0 < w) (x : Nat) : sintN w x = (BitVec.ofNat w x).toInt := by
  obtain ⟨k, rfl⟩ := Nat.exists_eq_succ_of_ne_zero hw.ne'
  have hhalf : x % 2 ^ (k + 1) < 2 ^ k ↔ 2 * (x % 2 ^ (k + 1)) < 2 ^ (k + 1) := by rw [Nat.pow_succ]; omega
  rw [sintN, BitVec.toInt, BitVec.toNat_ofNat]
  simp [hhalf]

/-- The model reads an integer element as R258 says. -/
theorem intVal_eq_ival (g x : Nat) : intVal g (tagWidth g) x = ival g (tagWidth g) x := by
  have hsigned : tagSigned g = true ↔ g ∈ [1, 3, 5, 7] := by simp [tagSigned, or_assoc]
  rw [intVal, ival, sintN_eq_toInt (tagWidth_pos g)]
  simp only [hsigned]

/-- An admitted compare `i` on registers of tag `g` writes to predicate `d`, bit by bit, what `c` says of active elements (R253,
R259). -/
def Compares (s : State) (t : Strand) (i : Instr) (g : Nat) (d : BitVec 5) (p : BitVec 3) (z : BitVec 1) (c : Nat → Bool) : Prop :=
  ∃ v : Word, (Admits s t i → exec i s = .next (goesOn s t i (wrP t.r d.toNat v))) ∧ ∀ e < 64, v.getLsbD e =
    (if 512 / tagWidth g ≤ e then false else if active t p e then c e else if z = 1 then false else (preg t.r d.toNat).getLsbD e)

/-- What a compare finds of two elements of tag `g`: the form's relation on integers or on floats, as the tag has it (R259). -/
def found (fi : Int → Int → Bool) (ff : FVal → FVal → Bool) (g x y : Nat) : Bool :=
  if tagFloat g then ff (fdec (tagFmt g) x) (fdec (tagFmt g) y) else fi (intVal g (tagWidth g) x) (intVal g (tagWidth g) y)

section Compare

variable {s : State} {t : Strand} {i : Instr} {d a b : BitVec 5} {p : BitVec 3} {z : BitVec 1}
  {fi : Int → Int → Bool} {ff : FVal → FVal → Bool}

/-- No active element meets poison, so neither register raises `poison-consumed`. -/
theorem no_active_poison {n w : Nat} (clean : ∀ e < n, active t p e = true → pois t a w e = false) :
    (List.range n).any (fun e => (preg t.r p.toNat).getLsbD e && elemPois (vreg t.r a) w e) = false := by
  rw [List.any_eq_false]
  intro e he
  rw [Bool.and_eq_true, not_and, Bool.not_eq_true]
  exact clean e (List.mem_range.mp he)

/-- Registers `a` and `b` both carry tag `g`, and no active element of either is poisoned. -/
structure Comparable (t : Strand) (a b : BitVec 5) (p : BitVec 3) (g : Nat) : Prop where
  tagA : tagOf t a = g
  tagB : tagOf t b = g
  clean : ∀ e < 512 / tagWidth g, active t p e = true → pois t a (tagWidth g) e = false ∧ pois t b (tagWidth g) e = false

variable {g : Nat} (hexec : exec i s = vcmp i d a b p z fi ff s) (hgap : spacing i .seq = 1) (hcmp : Comparable t a b p g)
include hexec hgap hcmp

/-- On a numeric tag a compare writes the word of the bits that it finds. -/
theorem exec_of_vcmp (hnum : tagNum g = true) (adm : Admits s t i) :
    exec i s = .next (goesOn s t i (wrP t.r d.toNat (bitsWord (512 / tagWidth g) (fun e =>
      if active t p e then found fi ff g (elem t a (tagWidth g) e) (elem t b (tagWidth g) e)
      else z == 0 && (preg t.r d.toNat).getLsbD e)))) := by
  obtain ⟨rfl, hsame, clean⟩ := hcmp
  have htags : (vreg t.r a).tag = (vreg t.r b).tag := BitVec.eq_of_toNat_eq hsame.symm
  have hcleanA := no_active_poison (fun e he h => (clean e he h).1)
  have hcleanB := no_active_poison (fun e he h => (clean e he h).2)
  unfold vcmp vecOp at hexec
  refine goesOn_of_compute _ hexec hgap ?_ adm
  unfold tagOf at hnum hcleanA hcleanB
  simp only [orTrap, ← htags, hnum, hcleanA, hcleanB, Bool.and_self, beq_self_eq_true, Bool.false_eq_true, if_true, if_false]
  rfl

theorem compares_of_vcmp (hnum : tagNum g = true) :
    Compares s t i g d p z (fun e => found fi ff g (elem t a (tagWidth g) e) (elem t b (tagWidth g) e)) := by
  refine ⟨_, exec_of_vcmp hexec hgap hcmp hnum, fun e he => ?_⟩
  rw [getLsbD_bitsWord _ _ he]
  rcases BitVec.eq_zero_or_eq_one z with rfl | rfl <;> simp

/-- Integer tags compare signed or natural, as the tag reads. -/
theorem compares_of_int (hlo : 1 ≤ g) (hhi : g ≤ 7) : Compares s t i g d p z (fun e =>
    fi (ival g (tagWidth g) (elem t a (tagWidth g) e)) (ival g (tagWidth g) (elem t b (tagWidth g) e))) := by
  have hint : tagInt g = true := by simp [tagInt, hlo, hhi]
  have hfloat : tagFloat g = false := by simp [tagFloat]; omega
  have h := compares_of_vcmp hexec hgap hcmp (by rw [tagNum, hint, Bool.true_or])
  simpa only [found, hfloat, Bool.false_eq_true, if_false, intVal_eq_ival] using h

/-- Float tags compare the values that the elements encode. -/
theorem compares_of_float (hlo : 10 ≤ g) (hhi : g ≤ 12) : Compares s t i g d p z (fun e =>
    ff (fdec (tagFmt g) (elem t a (tagWidth g) e)) (fdec (tagFmt g) (elem t b (tagWidth g) e))) := by
  have hfloat : tagFloat g = true := by simp [tagFloat, hlo, hhi]
  have h := compares_of_vcmp hexec hgap hcmp (by rw [tagNum, hfloat, Bool.or_true])
  simpa only [found, hfloat, if_true] using h

end Compare

section Forms

variable (s : State) (d a b : BitVec 5) (p : BitVec 3) (z : BitVec 1)

theorem exec_vceq : exec (.vceq d a b p z) s = vcmp (.vceq d a b p z) d a b p z (fun x y => decide (x = y)) fcmpEq s := rfl

theorem exec_vclt : exec (.vclt d a b p z) s = vcmp (.vclt d a b p z) d a b p z (fun x y => decide (x < y)) fcmpLt s := rfl

theorem exec_vcle : exec (.vcle d a b p z) s = vcmp (.vcle d a b p z) d a b p z (fun x y => decide (x ≤ y))
    (fun x y => fcmpLt x y || fcmpEq x y) s := rfl

theorem exec_pand : exec (.pand d a b) s = compute (.pand d a b) s (fun c =>
    .ok (wrP c.t.r d.toNat (preg c.t.r a.toNat &&& preg c.t.r b.toNat))) := rfl

theorem exec_por : exec (.por d a b) s = compute (.por d a b) s (fun c =>
    .ok (wrP c.t.r d.toNat (preg c.t.r a.toNat ||| preg c.t.r b.toNat))) := rfl

theorem exec_pnot : exec (.pnot d a) s = compute (.pnot d a) s (fun c => .ok (wrP c.t.r d.toNat (~~~(preg c.t.r a.toNat)))) := rfl

theorem exec_pcnt : exec (.pcnt d a) s = compute (.pcnt d a) s (fun c =>
    .ok (wr c.t.r d (BitVec.ofNat 64 (popN 64 (preg c.t.r a.toNat).toNat)) false)) := rfl

theorem exec_pfirst : exec (.pfirst d a) s = compute (.pfirst d a) s (fun c =>
    .ok (wr c.t.r d (match lowBit 64 (preg c.t.r a.toNat).toNat 0 with
      | none => ~~~(0#64)
      | some k => BitVec.ofNat 64 k) false)) := rfl

theorem exec_pset : exec (.pset d a) s = compute (.pset d a) s (fun c => do
    needClean c.t.r a
    pure (wrP c.t.r d.toNat (rd c.t.r a))) := rfl

end Forms

/-! The statement. -/

/-- Settles O24: a compare writes the word of the bits that it finds; a predicate form computes one register. -/
theorem predicateResults : Obligations.PredicateResults := by
  unfold Obligations.PredicateResults
  intro s t d a b p z g w n x y f fx fy P sets cmp clean
  refine ⟨fun lo hi same clear => ⟨?ieq, ?ilt, ?ile⟩, fun lo hi same clear => ⟨?feq, ?flt, ?fle⟩, ?pand, ?por, ?pnot, ?pset,
    fun adm poisoned => ?poisoned, ?pcnt, ?pfirst, wrP_zero t.r⟩
  case ieq => exact compares_of_int (exec_vceq s d a b p z) rfl ⟨rfl, same, clear⟩ lo hi
  case ilt => exact compares_of_int (exec_vclt s d a b p z) rfl ⟨rfl, same, clear⟩ lo hi
  case ile => exact compares_of_int (exec_vcle s d a b p z) rfl ⟨rfl, same, clear⟩ lo hi
  case feq => exact compares_of_float (exec_vceq s d a b p z) rfl ⟨rfl, same, clear⟩ lo hi
  case flt => exact compares_of_float (exec_vclt s d a b p z) rfl ⟨rfl, same, clear⟩ lo hi
  case fle => exact compares_of_float (exec_vcle s d a b p z) rfl ⟨rfl, same, clear⟩ lo hi
  case pand => exact goesOn_of_compute _ (exec_pand s d a b) rfl rfl
  case por => exact goesOn_of_compute _ (exec_por s d a b) rfl rfl
  case pnot => exact goesOn_of_compute _ (exec_pnot s d a) rfl rfl
  case pset =>
    intro clear
    exact goesOn_of_compute _ (exec_pset s d a) rfl (by rw [needClean_of_clean clear]; rfl)
  case poisoned => exact traps_of_compute _ (exec_pset s d a) (by rw [needClean_of_poisoned poisoned]; rfl) adm
  case pcnt =>
    exact gives_of_unpoisoned _ (exec_pcnt s d a) (congrArg (BitVec.ofNat 64) (popN_eq_length_filter 64 (P a).toNat))
  case pfirst => exact gives_of_unpoisoned _ (exec_pfirst s d a) (lowestBit_eq (P a))

end Sys2Proof.Vector
end
